-- ==== Sys2Proof/Word.lean ====
section
/-! DEFINITION. The machine's word types and the sparse maps that State is made of (00 R5 to R7, 02 R24). -/

namespace Sys2Proof

/-- A byte (00 R7). -/
abbrev Byte := BitVec 8
/-- A word, the unit of atomicity and ownership (00 R7). -/
abbrev Word := BitVec 64
/-- A vector register's 2048 bits (02 R24). -/
abbrev Vec := BitVec 2048
/-- A predicate register's 256 bits (02 R24). -/
abbrev Pred := BitVec 256

/-- A sparse map from numbers: pairs with strictly rising keys, none of them equal to the default `d`
that an unlisted key reads as. -/
abbrev SMap (α : Type) := List (Nat × α)

namespace SMap

variable {α : Type}

/-- The value at key `k`; an unlisted key reads as `d`. -/
def get (d : α) : SMap α → Nat → α
  | [], _ => d
  | (j, v) :: r, k => if k = j then v else get d r k

/-- Drop every entry of key `k`. -/
def del : SMap α → Nat → SMap α
  | [], _ => []
  | (j, v) :: r, k => if k = j then del r k else (j, v) :: del r k

/-- Enter `v` at key `k`, in key order. -/
def put : SMap α → Nat → α → SMap α
  | [], k, v => [(k, v)]
  | (j, w) :: r, k, v =>
    if k < j then (k, v) :: (j, w) :: r
    else if k = j then (k, v) :: r
    else (j, w) :: put r k v

/-- Write `v` at key `k`, keeping the canonical form: a value equal to the default is not listed. -/
def set [DecidableEq α] (d : α) (m : SMap α) (k : Nat) (v : α) : SMap α :=
  if v = d then del m k else put m k v

/-- Every key of `m` lies above `lo`, keys rise strictly, and no listed value is the default. -/
def wfAbove [DecidableEq α] (d : α) : Option Nat → SMap α → Bool
  | _, [] => true
  | lo, (j, v) :: r =>
    (match lo with | none => true | some l => decide (l < j)) && decide (v ≠ d) && wfAbove d (some j) r

/-- The canonical form. -/
def wf [DecidableEq α] (d : α) (m : SMap α) : Bool := wfAbove d none m

/-- The listed keys. -/
def keys (m : SMap α) : List Nat := m.map (·.1)

end SMap

end Sys2Proof
end

