-- ==== Sys2Proof/Syntax.lean ====
section
/-! DEFINITION. The instructions and steps of the part: one constructor per row of spec/opcode_table.json. -/

namespace Sys2Proof

/-- A guard: the predicate named and whether it is negated (01 R16). -/
structure Guard where
  neg : Bool
  p   : BitVec 4
  deriving DecidableEq, Repr

/-- An operand field (04 R75). A pair `w e` is s2e : s2e+1. -/
inductive Operand where
  | none
  | s (n : BitVec 6)
  | v (n : BitVec 5)
  | p (n : BitVec 4)
  | h (n : BitVec 4) (count : BitVec 12)
  | x (num : BitVec 10)
  | imm (val : BitVec 16)
  | w (e : BitVec 5)
  deriving DecidableEq, Repr

/-- The fields of a format T word but its opcode (04 R73). The 14-bit modifier is kept whole: a late step records
it (02 R33). -/
structure TFields where
  g : Guard
  h : BitVec 8
  m : BitVec 14
  d : Operand
  a : Operand
  b : Operand
  deriving DecidableEq, Repr

/-- The fields of a format L word but its opcode (04 R74). -/
structure LFields where
  g : Guard
  h : BitVec 8
  m : BitVec 14
  d : Operand
  imm : BitVec 40
  deriving DecidableEq, Repr

/-- Where an uncorrectable error is met (19 R353, R355). -/
inductive ErrUnit where
  | word (pa : Nat) (slice : Option Nat)  -- a word in an L2 slice, or in its HBM stack
  | l1Word (l1 : Nat) (word : Nat)        -- a word of an L1
  | scratch (ten core off : Nat)          -- a scratchpad word
  | tile (octet tile : Nat)               -- a compute-in-memory tile
  | icache (core : Nat) (block : Nat)     -- an instruction cache block
  | regLine (core thread line : Nat)      -- a register line of a thread
  deriving DecidableEq, Repr

/-- The instructions, in the table's order, then the steps of the other agents. -/
inductive Instr where
  /-- ADD (R93). -/
  | add (f : TFields)
  /-- SUB (R93). -/
  | sub (f : TFields)
  /-- MUL (R93). -/
  | mul (f : TFields)
  /-- MULH (R93). -/
  | mulh (f : TFields)
  /-- MULHU (R93). -/
  | mulhu (f : TFields)
  /-- DIV (R94). -/
  | div (f : TFields)
  /-- DIVU (R94). -/
  | divu (f : TFields)
  /-- REM (R94). -/
  | rem (f : TFields)
  /-- REMU (R94). -/
  | remu (f : TFields)
  /-- AND (R93). -/
  | and (f : TFields)
  /-- OR (R93). -/
  | or (f : TFields)
  /-- XOR (R93). -/
  | xor (f : TFields)
  /-- ANDN (R93). -/
  | andn (f : TFields)
  /-- SHL (R93). -/
  | shl (f : TFields)
  /-- SHR (R93). -/
  | shr (f : TFields)
  /-- SRA (R93). -/
  | sra (f : TFields)
  /-- ROL (R93). -/
  | rol (f : TFields)
  /-- MIN (R93). -/
  | min (f : TFields)
  /-- MAX (R93). -/
  | max (f : TFields)
  /-- MINU (R93). -/
  | minu (f : TFields)
  /-- MAXU (R93). -/
  | maxu (f : TFields)
  /-- ABS (R93). -/
  | abs (f : TFields)
  /-- NEG (R93). -/
  | neg (f : TFields)
  /-- CLZ (R93). -/
  | clz (f : TFields)
  /-- CTZ (R93). -/
  | ctz (f : TFields)
  /-- POPC (R93). -/
  | popc (f : TFields)
  /-- BREV (R93). -/
  | brev (f : TFields)
  /-- BSWAP (R93). -/
  | bswap (f : TFields)
  /-- SEXT (R93). -/
  | sext (f : TFields)
  /-- ZEXT (R93). -/
  | zext (f : TFields)
  /-- MOV (R96). -/
  | mov (f : TFields)
  /-- SEL (R96). -/
  | sel (f : TFields)
  /-- LI (R96). -/
  | li (f : LFields)
  /-- LIH (R96). -/
  | lih (f : LFields)
  /-- ADD_W (R95). -/
  | addW (f : TFields)
  /-- SUB_W (R95). -/
  | subW (f : TFields)
  /-- MUL_W (R95). -/
  | mulW (f : TFields)
  /-- MADD (R93). -/
  | madd (f : TFields)
  /-- CMP (R97). -/
  | cmp (f : TFields)
  /-- CMPU (R97). -/
  | cmpu (f : TFields)
  /-- TEST (R97). -/
  | test (f : TFields)
  /-- LEA (R98). -/
  | lea (f : TFields)
  /-- BFX (R98). -/
  | bfx (f : TFields)
  /-- BFI (R98). -/
  | bfi (f : TFields)
  /-- BR (R100). -/
  | br (f : LFields)
  /-- JMP (R100). -/
  | jmp (f : LFields)
  /-- CALL (R100). -/
  | call (f : LFields)
  /-- CALLR (R100). -/
  | callr (f : TFields)
  /-- RET (R100). -/
  | ret (f : TFields)
  /-- LOOP (R100). -/
  | loop (f : LFields)
  /-- BRT (R100). -/
  | brt (f : LFields)
  /-- NOP (R101). -/
  | nop (f : TFields)
  /-- YIELD (R101). -/
  | yield (f : TFields)
  /-- EXIT (R101). -/
  | exit (f : TFields)
  /-- BKPT (R101). -/
  | bkpt (f : TFields)
  /-- WAITT (R102). -/
  | waitt (f : TFields)
  /-- PAND (R103). -/
  | pand (f : TFields)
  /-- POR (R103). -/
  | por (f : TFields)
  /-- PXOR (R103). -/
  | pxor (f : TFields)
  /-- PNOT (R103). -/
  | pnot (f : TFields)
  /-- PMOV (R103). -/
  | pmov (f : TFields)
  /-- PSET (R103). -/
  | pset (f : TFields)
  /-- PANY (R103). -/
  | pany (f : TFields)
  /-- PALL (R103). -/
  | pall (f : TFields)
  /-- PCNT (R103). -/
  | pcnt (f : TFields)
  /-- PFIRST (R103). -/
  | pfirst (f : TFields)
  /-- FADD (R105). -/
  | fadd (f : TFields)
  /-- FSUB (R105). -/
  | fsub (f : TFields)
  /-- FMUL (R105). -/
  | fmul (f : TFields)
  /-- FDIV (R105). -/
  | fdiv (f : TFields)
  /-- FSQRT (R105). -/
  | fsqrt (f : TFields)
  /-- FMA (R105). -/
  | fma (f : TFields)
  /-- FMS (R105). -/
  | fms (f : TFields)
  /-- FNMA (R105). -/
  | fnma (f : TFields)
  /-- FMIN (R105). -/
  | fmin (f : TFields)
  /-- FMAX (R105). -/
  | fmax (f : TFields)
  /-- FABS (R105). -/
  | fabs (f : TFields)
  /-- FNEG (R105). -/
  | fneg (f : TFields)
  /-- FSGN (R105). -/
  | fsgn (f : TFields)
  /-- FABD (R105). -/
  | fabd (f : TFields)
  /-- FCMP (R106). -/
  | fcmp (f : TFields)
  /-- FCLASS (R106). -/
  | fclass (f : TFields)
  /-- FRINT (R107). -/
  | frint (f : TFields)
  /-- F2I (R107). -/
  | f2i (f : TFields)
  /-- F2U (R107). -/
  | f2u (f : TFields)
  /-- I2F (R107). -/
  | i2f (f : TFields)
  /-- U2F (R107). -/
  | u2f (f : TFields)
  /-- FCVT (R108). -/
  | fcvt (f : TFields)
  /-- FEXP2 (R109). -/
  | fexp2 (f : TFields)
  /-- FLOG2 (R109). -/
  | flog2 (f : TFields)
  /-- FRCP (R109). -/
  | frcp (f : TFields)
  /-- FRSQ (R109). -/
  | frsq (f : TFields)
  /-- FTANH (R109). -/
  | ftanh (f : TFields)
  /-- FSIGM (R109). -/
  | fsigm (f : TFields)
  /-- FSCALB (R110). -/
  | fscalb (f : TFields)
  /-- FGETEXP (R110). -/
  | fgetexp (f : TFields)
  /-- SCENC (R111). -/
  | scenc (f : TFields)
  /-- SCDEC (R111). -/
  | scdec (f : TFields)
  /-- FQ8 (R112). -/
  | fq8 (f : TFields)
  /-- FDQ8 (R112). -/
  | fdq8 (f : TFields)
  /-- VADD (R121). -/
  | vadd (f : TFields)
  /-- VSUB (R121). -/
  | vsub (f : TFields)
  /-- VMUL (R121). -/
  | vmul (f : TFields)
  /-- VMULH (R121). -/
  | vmulh (f : TFields)
  /-- VMADD (R121). -/
  | vmadd (f : TFields)
  /-- VMIN (R121). -/
  | vmin (f : TFields)
  /-- VMAX (R121). -/
  | vmax (f : TFields)
  /-- VABS (R121). -/
  | vabs (f : TFields)
  /-- VNEG (R121). -/
  | vneg (f : TFields)
  /-- VAND (R121). -/
  | vand (f : TFields)
  /-- VOR (R121). -/
  | vor (f : TFields)
  /-- VXOR (R121). -/
  | vxor (f : TFields)
  /-- VSHL (R121). -/
  | vshl (f : TFields)
  /-- VSHR (R121). -/
  | vshr (f : TFields)
  /-- VSRA (R121). -/
  | vsra (f : TFields)
  /-- VCMP (R122). -/
  | vcmp (f : TFields)
  /-- VSEL (R122). -/
  | vsel (f : TFields)
  /-- VFADD (R124). -/
  | vfadd (f : TFields)
  /-- VFSUB (R124). -/
  | vfsub (f : TFields)
  /-- VFMUL (R124). -/
  | vfmul (f : TFields)
  /-- VFMA (R124). -/
  | vfma (f : TFields)
  /-- VFMS (R124). -/
  | vfms (f : TFields)
  /-- VFMIN (R124). -/
  | vfmin (f : TFields)
  /-- VFMAX (R124). -/
  | vfmax (f : TFields)
  /-- VFABS (R124). -/
  | vfabs (f : TFields)
  /-- VFNEG (R124). -/
  | vfneg (f : TFields)
  /-- VFCMP (R124). -/
  | vfcmp (f : TFields)
  /-- VFEXP2 (R125). -/
  | vfexp2 (f : TFields)
  /-- VFRCP (R125). -/
  | vfrcp (f : TFields)
  /-- VFRSQ (R125). -/
  | vfrsq (f : TFields)
  /-- VFTANH (R125). -/
  | vftanh (f : TFields)
  /-- VFSIGM (R125). -/
  | vfsigm (f : TFields)
  /-- VFCVT (R126). -/
  | vfcvt (f : TFields)
  /-- VRADD (R127). -/
  | vradd (f : TFields)
  /-- VRFADD (R127). -/
  | vrfadd (f : TFields)
  /-- VRMAX (R127). -/
  | vrmax (f : TFields)
  /-- VRMIN (R127). -/
  | vrmin (f : TFields)
  /-- VRFMAX (R127). -/
  | vrfmax (f : TFields)
  /-- VRFMIN (R127). -/
  | vrfmin (f : TFields)
  /-- VDOT (R128). -/
  | vdot (f : TFields)
  /-- VFDOT (R128). -/
  | vfdot (f : TFields)
  /-- VMOV (R130). -/
  | vmov (f : TFields)
  /-- VBCAST (R130). -/
  | vbcast (f : TFields)
  /-- VEXT (R130). -/
  | vext (f : TFields)
  /-- VINS (R130). -/
  | vins (f : TFields)
  /-- VPERM (R130). -/
  | vperm (f : TFields)
  /-- VSHUF (R131). -/
  | vshuf (f : TFields)
  /-- VSLIDE (R130). -/
  | vslide (f : TFields)
  /-- VCOMPRESS (R132). -/
  | vcompress (f : TFields)
  /-- VEXPAND (R132). -/
  | vexpand (f : TFields)
  /-- VIOTA (R130). -/
  | viota (f : TFields)
  /-- VBSENC (R134). -/
  | vbsenc (f : TFields)
  /-- VBSDEC (R134). -/
  | vbsdec (f : TFields)
  /-- VQ8 (R135). -/
  | vq8 (f : TFields)
  /-- VDQ8 (R135). -/
  | vdq8 (f : TFields)
  /-- VAMAX (R136). -/
  | vamax (f : TFields)
  /-- VSPLIT (R137). -/
  | vsplit (f : TFields)
  /-- VONLINE (R138). -/
  | vonline (f : TFields)
  /-- VCLAMP (R139). -/
  | vclamp (f : TFields)
  /-- VSCAN (R139). -/
  | vscan (f : TFields)
  /-- VRNG (R139). -/
  | vrng (f : TFields)
  /-- VAVG (R139). -/
  | vavg (f : TFields)
  /-- LD (R146). -/
  | ld (f : TFields)
  /-- LD_DEC (R146). -/
  | ldDec (f : TFields)
  /-- LDB (R146). -/
  | ldb (f : TFields)
  /-- LDL (R155). -/
  | ldl (f : TFields)
  /-- ST (R146). -/
  | st (f : TFields)
  /-- STWT (R146). -/
  | stwt (f : TFields)
  /-- VLD (R147). -/
  | vld (f : TFields)
  /-- VLDB (R147). -/
  | vldb (f : TFields)
  /-- VLDL (R155). -/
  | vldl (f : TFields)
  /-- VST (R147). -/
  | vst (f : TFields)
  /-- VLDS (R147). -/
  | vlds (f : TFields)
  /-- VSTS (R147). -/
  | vsts (f : TFields)
  /-- VLDX (R147). -/
  | vldx (f : TFields)
  /-- VSTX (R147). -/
  | vstx (f : TFields)
  /-- PREF (R148). -/
  | pref (f : TFields)
  /-- FLUSHL (R148). -/
  | flushl (f : TFields)
  /-- INVL (R148). -/
  | invl (f : TFields)
  /-- AADD (R149). -/
  | aadd (f : TFields)
  /-- AMIN (R149). -/
  | amin (f : TFields)
  /-- AMAX (R149). -/
  | amax (f : TFields)
  /-- AAND (R149). -/
  | aand (f : TFields)
  /-- AOR (R149). -/
  | aor (f : TFields)
  /-- AXOR (R149). -/
  | axor (f : TFields)
  /-- ASWAP (R149). -/
  | aswap (f : TFields)
  /-- ACAS (R149). -/
  | acas (f : TFields)
  /-- AINC (R149). -/
  | ainc (f : TFields)
  /-- AFADD (R149). -/
  | afadd (f : TFields)
  /-- BIND (R150). -/
  | bind (f : TFields)
  /-- UNBIND (R150). -/
  | unbind (f : TFields)
  /-- ACQ (R151). -/
  | acq (f : TFields)
  /-- REL (R151). -/
  | rel (f : TFields)
  /-- FENCE (R152). -/
  | fence (f : TFields)
  /-- LDA (R152). -/
  | lda (f : TFields)
  /-- STR (R152). -/
  | str (f : TFields)
  /-- WAITW (R153). -/
  | waitw (f : TFields)
  /-- WAITW_WAKE (R153). -/
  | waitwWake (f : TFields)
  /-- PINSP (R154). -/
  | pinsp (f : TFields)
  /-- UNPINSP (R154). -/
  | unpinsp (f : TFields)
  /-- SPAWN (R156). -/
  | spawn (f : LFields)
  /-- SPAWNR (R156). -/
  | spawnr (f : LFields)
  /-- JOIN (R157). -/
  | join (f : TFields)
  /-- SEND (R158). -/
  | send (f : TFields)
  /-- SENDV (R158). -/
  | sendv (f : TFields)
  /-- MCAST (R158). -/
  | mcast (f : TFields)
  /-- BINDTAG (R159). -/
  | bindtag (f : TFields)
  /-- UNBINDTAG (R159). -/
  | unbindtag (f : TFields)
  /-- HCFG_BIND (R160). -/
  | hcfgBind (f : TFields)
  /-- HCFG_NEW (R160). -/
  | hcfgNew (f : TFields)
  /-- HCFG_UNBIND (R160). -/
  | hcfgUnbind (f : TFields)
  /-- HCFG_FREE (R160). -/
  | hcfgFree (f : TFields)
  /-- HADV (R161). -/
  | hadv (f : TFields)
  /-- HADVW (R161). -/
  | hadvw (f : TFields)
  /-- HQ (R161). -/
  | hq (f : TFields)
  /-- POLICY (R162). -/
  | policy (f : TFields)
  /-- RAISE (R162). -/
  | raise (f : TFields)
  /-- WAITJ (R162). -/
  | waitj (f : TFields)
  /-- JOBQ (R162). -/
  | jobq (f : TFields)
  /-- SLEEP (R162). -/
  | sleep (f : TFields)
  /-- WAKE (R162). -/
  | wake (f : TFields)
  /-- SYMQ (R163). -/
  | symq (f : TFields)
  /-- SYMWAIT (R163). -/
  | symwait (f : TFields)
  /-- SYMID (R163). -/
  | symid (f : TFields)
  /-- SYMDROP (R163). -/
  | symdrop (f : TFields)
  /-- JOBL (R163). -/
  | jobl (f : TFields)
  /-- RCVL (R163). -/
  | rcvl (f : TFields)
  /-- SYMLIM (R163). -/
  | symlim (f : TFields)
  /-- SYMPEEK (R163). -/
  | sympeek (f : TFields)
  /-- LNFORK (R168). -/
  | lnfork (f : TFields)
  /-- LNFORK_AF (R168). -/
  | lnforkAf (f : TFields)
  /-- LNPATCH (R168). -/
  | lnpatch (f : TFields)
  /-- LNREBASE (R169). -/
  | lnrebase (f : TFields)
  /-- LNREBASE_CHK (R169). -/
  | lnrebaseChk (f : TFields)
  /-- LNFLAT (R170). -/
  | lnflat (f : TFields)
  /-- LNDROP (R170). -/
  | lndrop (f : TFields)
  /-- LNDROP_FOLD (R170). -/
  | lndropFold (f : TFields)
  /-- LNINFO (R171). -/
  | lninfo (f : TFields)
  /-- LNRES (R171). -/
  | lnres (f : TFields)
  /-- MELOAD (R175). -/
  | meload (f : TFields)
  /-- MEMM (R175). -/
  | memm (f : TFields)
  /-- MELIN (R175). -/
  | melin (f : TFields)
  /-- MEDL (R176). -/
  | medl (f : TFields)
  /-- MEDROP (R177). -/
  | medrop (f : TFields)
  /-- MEBURST (R177). -/
  | meburst (f : TFields)
  /-- CUQ (R179). -/
  | cuq (f : TFields)
  /-- CUWP (R180). -/
  | cuwp (f : TFields)
  /-- CUCQ (R180). -/
  | cucq (f : TFields)
  /-- COLL (R181). -/
  | coll (f : TFields)
  /-- GATHER (R181). -/
  | gather (f : TFields)
  /-- CUWAIT (R180). -/
  | cuwait (f : TFields)
  /-- KVMAP (R182). -/
  | kvmap (f : TFields)
  /-- KVGROW (R182). -/
  | kvgrow (f : TFields)
  /-- ATTN (R183). -/
  | attn (f : TFields)
  /-- PFXH (R185). -/
  | pfxh (f : TFields)
  /-- PFXL (R186). -/
  | pfxl (f : TFields)
  /-- PFXINS (R186). -/
  | pfxins (f : TFields)
  /-- PFXPIN (R186). -/
  | pfxpin (f : TFields)
  /-- PFXDEL (R186). -/
  | pfxdel (f : TFields)
  /-- SYSC (R188). -/
  | sysc (f : TFields)
  /-- INTR (R189). -/
  | intr (f : TFields)
  /-- TRAP (R189). -/
  | trap (f : TFields)
  /-- ERET (R189). -/
  | eret (f : TFields)
  /-- RDX (R190). -/
  | rdx (f : TFields)
  /-- WRX (R190). -/
  | wrx (f : TFields)
  /-- TLBI (R190). -/
  | tlbi (f : TFields)
  /-- TIME (R191). -/
  | time (f : TFields)
  /-- TMARK (R191). -/
  | tmark (f : TFields)
  /-- HLT (R190). -/
  | hlt (f : TFields)
  /-- CKPT (R376). -/
  | ckpt (f : TFields)
  /-- IFENCE (R191). -/
  | ifence (f : TFields)
  /-- CCTL (R190). -/
  | cctl (f : TFields)
  /-- PERF (R191). -/
  | perf (f : TFields)
  /-- LOGX (R191). -/
  | logx (f : TFields)
  /-- SPADMAP (R191). -/
  | spadmap (f : TFields)
  /-- CIMW (R193). -/
  | cimw (f : TFields)
  /-- CIMR (R193). -/
  | cimr (f : TFields)
  /-- BPL (R193). -/
  | bpl (f : TFields)
  /-- RBLD (R193). -/
  | rbld (f : TFields)
  /-- ACCRD (R193). -/
  | accrd (f : TFields)
  /-- ACCCLR (R193). -/
  | accclr (f : TFields)
  /-- PLANES (R193). -/
  | planes (f : TFields)
  /-- DUPF (R193). -/
  | dupf (f : TFields)
  /-- DELTA (R193). -/
  | delta (f : TFields)
  /-- TAKEW (R193). -/
  | takew (f : TFields)
  /-- TAKER (R193). -/
  | taker (f : TFields)
  /-- BEATRD (R194). -/
  | beatrd (f : TFields)
  /-- BEATWR (R194). -/
  | beatwr (f : TFields)
  /-- CONV (R194). -/
  | conv (f : TFields)
  /-- WPSET (R194). -/
  | wpset (f : TFields)
  /-- CMPL (R193). -/
  | cmpl (f : TFields)
  /-- PKTNEXT (R194). -/
  | pktnext (f : TFields)
  /-- SCATR (R194). -/
  | scatr (f : TFields)
  /-- MAP (R292): The command processor maps the page and the stalled instruction executes afresh. -/
  | map (cl i pteAddr : Nat) (pte : Word)
  /-- DECLINE (R292): The command processor declines the fault; the instruction traps or the job ends with PAGE_FAULT. -/
  | decline (cl i : Nat)
  /-- VALUE_ARRIVAL (R237): A late value arrives and every referring register is resolved by replaying its transform. -/
  | valueArrival (core sym : Nat)
  /-- SYMBOL_POISON (R240): A symbol's source fails and the symbol resolves to poison with a cause. -/
  | symbolPoison (core sym cause : Nat)
  /-- WAIT_RESUME (R164): A waiting instruction's condition becomes true and the part after the wait is performed once. -/
  | waitResume (core thread : Nat)
  /-- WAITT_DEADLINE (R102): Package time reaches a WAITT deadline and the thread becomes ready. -/
  | waittDeadline (core thread : Nat)
  /-- SLEEP_TIMEOUT (R162): A SLEEP deadline passes and SLEEP returns 0. -/
  | sleepTimeout (core thread : Nat)
  /-- STEAL_REQUEST (R198): An idle core sends a steal request to a victim in level order. -/
  | stealRequest (thief : Nat)
  /-- STEAL_RETRY (R198): After 256 ACLK without success the steal walk starts again. -/
  | stealRetry (thief : Nat)
  /-- CHUNK_COUNT_PUBLISH (R285): Each die publishes its remaining chunk count every 1 µs. -/
  | chunkCountPublish (die : Nat)
  /-- ACTIVATION_START (R205): An ACTIVATE packet starts an activation on a FREE thread, or waits in the spill queue. -/
  | activationStart (i : Nat)
  /-- DEPOSIT (R205): A DEPOSIT packet appends its payload to a channel slot and wakes the consumer. -/
  | deposit (i : Nat)
  /-- BOOT_COUNT_ADD (R327): A boot agent adds 1 to the boot count word after its 64th boot-channel append. -/
  | bootCountAdd (core : Nat)
  /-- JOB_START (R244): The engine takes a queued job by weighted round robin and starts its microcode run. -/
  | jobStart (octet : Nat) (micro : Bool)
  /-- RAMP_DOWN (R254): After the last tile step the engine runs 32 ramp-down filler cycles. -/
  | rampDown (octet : Nat)
  /-- BURST_RAMP_START (R254): A declared burst's ramp-up starts at its lead time less 16 ns. -/
  | burstRampStart (octet : Nat)
  /-- BURST_END (R254): A declared burst ends, or reaches the 4 µs filler cap, and the engine ramps down. -/
  | burstEnd (octet : Nat)
  /-- TAKE_LOOKUP (R307): An MEDL looks up its take at the die directory, waiting while the take is BUSY. -/
  | takeLookup (octet : Nat)
  /-- PACKET_TAKE (R255): The copy unit takes the next packet of an attached queue. -/
  | packetTake (octet q : Nat) (micro : Bool)
  /-- COPY (R257): A copy packet moves and converts elements, transposed under TRANS. -/
  | copy (octet chan : Nat)
  /-- FILL (R257): A copy packet writes FILLV to the whole destination shape. -/
  | fill (octet chan : Nat)
  /-- GATHER_PACKET (R260): A gather packet streams its index list and posts per-owner sub-lists. -/
  | gatherPacket (octet chan : Nat)
  /-- GATHER_ROW_RETURN (R260): An owner returns rows and the copy unit writes them in list order. -/
  | gatherRowReturn (octet chan row : Nat)
  /-- COLL_PACKET (R181): A collective packet reduces, broadcasts or synchronises across the group. -/
  | collPacket (octet chan : Nat)
  /-- RELOC (R182): A relocation packet copies raw slab bytes and advances the watermark. -/
  | reloc (octet chan bytes : Nat)
  /-- KVGROW_COMPLETE (R315): A growth copy completes; the entry takes the new base and size and the pair is freed. -/
  | kvgrowComplete (die pair : Nat)
  /-- LINEAGE_JOB_END (R273): A lineage job ends, changes its descriptors and writes a lineage completion record. -/
  | lineageJobEnd (i : Nat)
  /-- SAU_PARTIAL (R316): A slice attention unit checks a KV page and forms its partial triple. -/
  | sauPartial (a page : Nat)
  /-- ROUTER_MERGE (R317): Two partials of one ATTN meet in a router in the same clock and are merged. -/
  | routerMerge (a i j : Nat)
  /-- PARTIAL_ARRIVAL (R317): A partial reaches the core interface, is merged into the triple area and, once every token is counted, sets done. -/
  | partialArrival (a i : Nat)
  /-- LAUNCH (R283): A LAUNCH command is admitted and checked, then waits on the hazard table. -/
  | launch (cl qa : Nat)
  /-- LAUNCH_START (R284): Splits the range into shares, pushes the seed records and creates the root join block. -/
  | launchStart (l root : Nat)
  /-- LAUNCH_END (R286): After the root block drains and all jobs finish, writes back, writes the completion record and advances CI. -/
  | launchEnd (l : Nat)
  /-- WRSIG (R281): A command that writes a word with release, then sends an interrupt. -/
  | wrsig (cl qa : Nat)
  /-- WAIT (R281): A command that waits until a word meets a condition at its home. -/
  | wait (cl qa : Nat)
  /-- BARRIER (R281): A command that waits until every earlier launch of the queue has completed. -/
  | barrier (cl qa : Nat)
  /-- RESET (R288): A command that ends the queue's launches, discards pending packets and sets WI, RI and CI. -/
  | reset (cl qa : Nat)
  /-- QUEUE_POLL (R280): The command processor rereads WI of every attached queue at least every 100 µs. -/
  | queuePoll (cl qa : Nat)
  /-- COLOCATION_CLASSIFY (R288): After 200 µs a launch is classified as compute-bound, memory-bound or neither. -/
  | colocationClassify (l busy bytes : Nat)
  /-- SLICE_END (R293): A tenant's time slice ends; it is renewed, or the tenant is pre-empted. -/
  | sliceEnd (cl : Nat) (ten : Nat)
  /-- SAVE_REQUEST (R294): Writes back every line of a thread's context image and reports the save complete. -/
  | saveRequest (core thread : Nat)
  /-- SVCREP (R343): A control core writes a reply that resolves a pending SYSC symbol, or is discarded and counted. -/
  | svcrep (cl : Nat) (r : BitVec 256)
  /-- SVCRST (R344): Poisons every pending request and resets the service queue indices. -/
  | svcrst (cl : Nat) (seq : BitVec 32)
  /-- ATTEST_REQUEST (R351): A secure write of a request address produces a signed attestation report. -/
  | attestRequest (req : Nat)
  /-- RESET_N_RELEASE (R321): The board controller releases reset; fuses are sensed, self-test runs and HBM training starts. -/
  | resetNRelease (fusesAgree : Bool) (failed : List Nat)
  /-- HBM_TRAINING_END (R321): HBM training ends and the boot core is selected to run the ROM. -/
  | hbmTrainingEnd (failed : Option Nat)
  /-- GO (R330): A write of GO to %meshctl starts the discovery flood. -/
  | go (core : Nat)
  /-- DISCOVERY_DONE (R330): The flood ends, unwritten records are zeroed and DONE is set. -/
  | discoveryDone
  /-- COMMIT (R333): A write of COMMIT to %meshctl validates and loads the map table, or refuses it. -/
  | commit (core : Nat)
  /-- CCREL (R334): A write to %ccrel releases control cores to start in M-mode at %ccpc. -/
  | ccrel (v : Word)
  /-- MEASX (R335): A write to %measx extends a measurement register with a digest. -/
  | measx (v : Word)
  /-- REGISTER_WRITE (R27): A checked write to a register that has no row of its own. -/
  | registerWrite (off : Nat) (v : Word)
  /-- WATCHDOG_EXPIRY (R360): A launch's count reaches LIMIT; its threads trap with WATCHDOG, or on the second time the launch ends. -/
  | watchdogExpiry (cl l : Nat)
  /-- THROTTLE_STEP (R361): A power, heat or cap cause lowers a die's ACLK by one step. -/
  | throttleStep (die : Nat)
  /-- THROTTLE_RAISE (R361): Every 100 µs after its cause clears, the die raises ACLK by one step. -/
  | throttleRaise (die : Nat)
  /-- SCRUB_PASS (R354): A patrol scrubber reads a word, correcting or poisoning it. -/
  | scrubPass (word : Nat) (uncorrectable : Bool)
  /-- CORRECTABLE_ERROR (R353): A correctable error is corrected in place and counted. -/
  | correctableError (cls pos : Nat)
  /-- UNCORRECTABLE_ERROR (R355): An uncorrectable error poisons the word or drops the tile or block. -/
  | uncorrectableError (u : ErrUnit)
  /-- FATAL_ERROR (R356): An uncorrectable fabric error or a slice failure stops every agent of the package. -/
  | fatalError (cls pos : Nat)
  /-- CORE_FAILED (R357): A failed core is drained and remapped onto a spare of its die. -/
  | coreFailed (core : Nat) (lost : List Nat)
  /-- ENGINE_FAILED (R359): A failed engine or copy unit ends its jobs and packets with HW_ERROR. -/
  | engineFailed (octet : Nat) (copyUnit : Bool)
  /-- INBOUND_WRITE (R346): An inbound PCIe or CXL request passes the IOMMU and world check and writes at the home. -/
  | inboundWrite (die addr : Nat) (bytes : List Byte) (secure : Bool)
  /-- FLIT_REPLAY (R348): A Bormi Link flit that fails its CRC is replayed. -/
  | flitReplay (port : Nat)
  /-- CXL_TIMEOUT (R347): A device that stops responding ends an outstanding read with poison after 10 ms. -/
  | cxlTimeout (core sym : Nat)
  /-- DOMAIN_ACK_TIMEOUT (R348): A DOMAIN release not acknowledged within 1 ms ends with HW_ERROR. -/
  | domainAckTimeout (core thread addr : Nat)
  /-- LATCH_WRITE (R352): A write to a gated domain is held by its wake latch and starts the wake. -/
  | latchWrite (dom : Nat) (addr : Nat) (v : Word)
  /-- LATCH_REPLAY (R352): The woken domain replays the latched writes in arrival order. -/
  | latchReplay (dom : Nat)
  /-- HALT (R363): A DBGCMD HALT stops the partition and writes halt records. -/
  | halt
  /-- RESUME (R365): A DBGCMD RESUME restarts every halted core and engine. -/
  | resume
  /-- SLATE (R372): A DBGCMD SLATE chooses Ts one microsecond ahead. -/
  | slate
  /-- SLATE_LATCH (R372): At Ts every core latches PCs and run states, and the record is written. -/
  | slateLatch
  /-- PC_BREAKPOINT (R367): A PC comparator match halts the core before the instruction issues. -/
  | pcBreakpoint (core thread : Nat)
  /-- ACTIVATION_BREAKPOINT (R368): A matching ACTIVATE packet halts the core before the activation starts. -/
  | activationBreakpoint (i : Nat)
  /-- SESSION_OPEN (R369): Setting OPEN starts a trace session for a command queue. -/
  | sessionOpen (n : Nat)
  /-- SESSION_CLOSE (R370): Clearing OPEN flushes the buffered records and writes CLOSE. -/
  | sessionClose (n : Nat)
  /-- CHECKPOINT (R376): Each reel period the tenant is halted, saved and copied into the checkpoint area. -/
  | checkpoint (reel : Nat)
  /-- ENTROPY_READ (R375): A read of ENTROPY returns a value, logged in record mode and replayed in play mode. -/
  | entropyRead (cc : Nat)
  /-- LOG_INJECT (R375): In play mode a logged input arrival is injected at its logged time. -/
  | logInject
  /-- UNASSIGNED_OPCODE (R88): A thread enters an instruction word whose opcode is unassigned or reserved, and it traps with ILLEGAL_OPCODE in step 1 of decode. -/
  | unassignedOpcode (w : BitVec 96)
  /-- L1_LINE_EVICTION (R220): The hardware evicts an L1 line at any time, writing back its dirty words and clearing valid, dirty and own. -/
  | l1LineEviction (l1 line : Nat)
  /-- L2_LINE_EVICTION (R219): A slice evicts a line toward HBM after sending loss notices, and the owners of its words become none. -/
  | l2LineEviction (line : Nat)
  /-- SCRATCHPAD_PAGE_MOVE (R224): The hardware moves an unpinned scratchpad page between its frame and its backing page as a whole. -/
  | scratchpadPageMove (ten core page : Nat)
  /-- REGISTER_LINE_EVICTION (R38): A line of a thread's context image is evicted from the register line cache and written back to the image in memory. -/
  | registerLineEviction (core thread line : Nat)
  /-- RESET_N_ASSERT (R321): The board controller asserts RESET_N, and the package enters reset, losing all state that lives until reset. -/
  | resetNAssert
  /-- PEER_STORE_ARRIVAL (R348): A store or atomic from another package arrives over Bormi Link and is performed at this package's home, owned by id 1228 + port. -/
  | peerStoreArrival (port addr : Nat) (bytes : List Byte)
  /-- PORT_DOWN (R348): A Bormi Link port goes down, so that accesses routed only over down ports end with HW_ERROR. -/
  | portDown (port : Nat)
  /-- CONTROL_CORE_STORE (R338): A control core store leaves the hart's store buffer and becomes a home write owned by id 1204 + n. -/
  | controlCoreStore (cc addr : Nat) (bytes : List Byte)
  deriving DecidableEq, Repr

end Sys2Proof
end

