-- ==== Sys2Proof/Machine/Bits.lean ====
section
/-! DEFINITION. Bit fields, sign extension and byte order: the helpers every meaning uses (00 R5, 01 R23). -/

namespace Sys2Proof.Machine

/-- x[hi:lo] as a number (01 R23). -/
def bitsOf (x hi lo : Nat) : Nat := (x / 2 ^ lo) % 2 ^ (hi + 1 - lo)

/-- x taken as an n-bit two's-complement value (01 R23). -/
def sext (x n : Nat) : Int := if x % 2 ^ n < 2 ^ (n - 1) then (x % 2 ^ n : Nat) else ((x % 2 ^ n : Nat) : Int) - (2 ^ n : Nat)

/-- An integer reduced mod 2^64. -/
def toWord (x : Int) : Word := BitVec.ofInt 64 x

/-- The little-endian bytes of the low 8n bits of x (00 R5). -/
def bytesOf : Nat → Nat → List Byte
  | 0, _ => []
  | n + 1, x => BitVec.ofNat 8 (x % 256) :: bytesOf n (x / 256)

/-- The number that little-endian bytes hold (00 R5). -/
def ofBytes : List Byte → Nat
  | [] => 0
  | b :: r => b.toNat + 256 * ofBytes r

/-- Bytes `from` to `from + n - 1` of a list, missing bytes read zero. -/
def byteSlice (l : List Byte) (off n : Nat) : List Byte := ((l.drop off).take n) ++ List.replicate (n - (l.length - off)) 0

/-- The unsigned number in bytes `off` to `off + n - 1`. -/
def fieldAt (l : List Byte) (off n : Nat) : Nat := ofBytes ((l.drop off).take n)

/-- Write bytes into a list from offset `off`. -/
def patchBytes (l : List Byte) (off : Nat) (new : List Byte) : List Byte :=
  l.take off ++ new ++ l.drop (off + new.length)

/-- Element i, of width w bits, of a number that holds elements side by side. -/
def elemOf (x w i : Nat) : Nat := (x / 2 ^ (w * i)) % 2 ^ w

/-- Pack elements of width w, element 0 lowest. -/
def packElems (w : Nat) : List Nat → Nat
  | [] => 0
  | e :: r => e % 2 ^ w + 2 ^ w * packElems w r

/-- Replace element i of width w. -/
def setElem (x w i v : Nat) : Nat := x - elemOf x w i * 2 ^ (w * i) + (v % 2 ^ w) * 2 ^ (w * i)

/-- Round a number up to a multiple of m. -/
def ceilDiv (a b : Nat) : Nat := (a + b - 1) / b

/-- The number of 1 bits below bit n. -/
def popCountBelow (x : Nat) : Nat → Nat
  | 0 => 0
  | n + 1 => popCountBelow x n + (if x.testBit n then 1 else 0)

/-- The lowest index below n whose bit is 1, or n. -/
def lowestBit (x : Nat) : Nat → Nat → Nat
  | 0, i => i
  | n + 1, i => if x.testBit i then i else lowestBit x n (i + 1)

/-- Reverse the order of the low n bits. -/
def revBits (x : Nat) : Nat → Nat
  | 0 => 0
  | n + 1 => 2 * revBits x n + (if x.testBit n then 1 else 0)

/-- The first element that meets a test, with its index. -/
def findIdx? {α : Type} (p : α → Bool) : List α → Nat → Option (Nat × α)
  | [], _ => none
  | a :: r, i => if p a then some (i, a) else findIdx? p r (i + 1)

/-- Drop element i. -/
def dropIdx {α : Type} : List α → Nat → List α
  | [], _ => []
  | _ :: r, 0 => r
  | a :: r, i + 1 => a :: dropIdx r i

/-- Replace element i. -/
def setIdx {α : Type} : List α → Nat → α → List α
  | [], _, _ => []
  | _ :: r, 0, v => v :: r
  | a :: r, i + 1, v => a :: setIdx r i v

end Sys2Proof.Machine
end

