-- ==== Sys2Proof/Machine/Encoding.lean ====
section
/-! DEFINITION. The opcode map of 04 R87 and, for each opcode, the operand kinds, named M bits and step 3 checks
that its entry gives (05 R92, R99, R104; 06 R120 to R139; 07 R145 to R163; 08 R166 to R194). -/

namespace Sys2Proof.Machine

/-- Operand kinds (04 R75). -/
inductive Kind where
  | none | s | v | p | h | x | i | w
  deriving DecidableEq, Repr

/-- The kind of an operand. -/
def kindOf : Operand → Kind
  | .none => .none
  | .s _ => .s
  | .v _ => .v
  | .p _ => .p
  | .h _ _ => .h
  | .x _ => .x
  | .imm _ => .i
  | .w _ => .w

/-- The groups of the opcode map (04 R87). -/
inductive Group where
  | A | B | C | D | E | F | G | H | I | J | K
  deriving DecidableEq, Repr

/-- The group of an assigned opcode (04 R87). -/
def groupOf (op : Nat) : Group :=
  if op < 0x040 then .A else if op < 0x060 then .B else if op < 0x0A0 then .C else if op < 0x100 then .D
  else if op < 0x140 then .E else if op < 0x160 then .F else if op < 0x170 then .G else if op < 0x180 then .H
  else if op < 0x1B0 then .I else if op < 0x1E0 then .J else .K

/-- A format T opcode: what its fields accept. `named` holds the M bits that the entry names; `checks` are the
checks of the named M fields, each with its FBIT, true where legal; `dOk`, `aOk`, `bOk` are the further checks of
the operand fields; `dWrites` says that a special register in D is written. -/
structure OpRow where
  op : Nat
  kd : List Kind
  ka : List Kind
  kb : List Kind
  named : BitVec 14
  checks : List (Nat × (TFields → Bool))
  dOk : TFields → Bool
  aOk : TFields → Bool
  bOk : TFields → Bool
  dWrites : Bool

/-- A format L opcode. -/
structure OpRowL where
  op : Nat
  kd : List Kind
  named : BitVec 14
  checks : List (Nat × (LFields → Bool))
  immOk : LFields → Bool

def row (op : Nat) (kd ka kb : List Kind) (named : BitVec 14)
    (checks : List (Nat × (TFields → Bool))) : OpRow :=
  { op, kd, ka, kb, named, checks, dOk := fun _ => true, aOk := fun _ => true, bOk := fun _ => true, dWrites := false }

def rowL (op : Nat) (kd : List Kind) (named : BitVec 14)
    (checks : List (Nat × (LFields → Bool))) : OpRowL :=
  { op, kd, named, checks, immOk := fun _ => true }

/-- A field of M, by its bits counted from bit 60 of the word. -/
def mField (m : BitVec 14) (hi lo : Nat) : Nat := bitsOf m.toNat hi lo

/-- The M field in bits hi:lo (counted from bit 60) is at most k. -/
def upTo (fbit hi lo k : Nat) : Nat × (TFields → Bool) := (fbit, fun f => mField f.m hi lo ≤ k)
def between (fbit hi lo j k : Nat) : Nat × (TFields → Bool) := (fbit, fun f => j ≤ mField f.m hi lo && mField f.m hi lo ≤ k)
def upToL (fbit hi lo k : Nat) : Nat × (LFields → Bool) := (fbit, fun f => mField f.m hi lo ≤ k)
/-- RND 0b111 is reserved (01 R18). -/
def rndOk : Nat × (TFields → Bool) := upTo 71 13 11 6
/-- POS + LENM + 1 must not exceed 64 (05 R92). -/
def fieldFits : Nat × (TFields → Bool) := (60, fun f => mField f.m 11 6 + mField f.m 5 0 + 1 ≤ 64)
/-- NB under a guard that selects p0 is illegal (07 R144). -/
def nbOk : Nat × (TFields → Bool) := (64, fun f => !(f.m.getLsbD 4 && f.g.p == 0))
/-- SYMPEEK needs a guard other than p0 (07 R144). -/
def guardNamed : Nat × (TFields → Bool) := (82, fun f => f.g.p != 0)
/-- ORD takes the values 0 and 2 (07 R158, 08 R187). -/
def relOnly : Nat × (TFields → Bool) := (68, fun f => mField f.m 9 8 == 0 || mField f.m 9 8 == 2)
/-- DEC requires SZ = 0 (07 R145). -/
def decSzOk : Nat × (TFields → Bool) := (60, fun f => !(f.m.getLsbD 3 && mField f.m 1 0 != 0))
/-- ACQ with D absent requires COND = 0 (07 R151). -/
def acqOk : Nat × (TFields → Bool) := (60, fun f => !(f.d == .none && mField f.m 3 0 != 0))
/-- The element width of a VFCVT format code (06 R126, 05 R108). -/
def cvtWidth (c : Nat) : Nat := if c = 0 ∨ c = 5 then 32 else if c = 1 ∨ c = 2 ∨ c = 6 then 16 else 8
/-- SAT needs both VFCVT formats to be integers (06 R126). -/
def cvtSatOk : Nat × (TFields → Bool) := (70, fun f => !(f.m.getLsbD 10) || (5 ≤ mField f.m 7 5 && 5 ≤ mField f.m 2 0))
/-- PART must be below the width ratio (06 R126). -/
def cvtPartOk : Nat × (TFields → Bool) := (63, fun f =>
  let sw := cvtWidth (mField f.m 2 0); let dw := cvtWidth (mField f.m 7 5)
  mField f.m 4 3 < Nat.max sw dw / Nat.min sw dw)
/-- The formats PLANES converts from: INT8, UINT8, BF16, BS4, INT4 (08 R193). -/
def planesFmt : Nat × (TFields → Bool) := (60, fun f => [1, 2, 8, 12, 14].contains (mField f.m 3 0))
/-- The formats CONV converts between: FMT codes 1 to 10 and 14 (08 R194). -/
def convFmt (fbit hi lo : Nat) : Nat × (TFields → Bool) := (fbit, fun f =>
  let c := mField f.m hi lo; (1 ≤ c && c ≤ 10) || c == 14)
/-- A nonzero budget needs policy RETRY (07 R156). -/
def budgetOk : Nat × (LFields → Bool) := (63, fun f => mField f.m 4 3 == 0 || mField f.m 2 0 == 2)
/-- VONLINE: the vector form has A, the scalar form has none (06 R138). -/
def onlineKinds (f : TFields) : Bool := (kindOf f.d == .v) == (kindOf f.a != .none)
/-- WAITW has D, WAITW.WAKE has none (07 R153). -/
def waitwOk (f : TFields) : Bool := f.m.getLsbD 2 == (f.d == .none)
/-- BINDTAG: D is the channel exactly when DEP = 1 (07 R159). -/
def bindtagD (f : TFields) : Bool := f.m.getLsbD 0 == (f.d != .none)
/-- BINDTAG: B is the entry PC exactly when DEP = 0 (07 R159). -/
def bindtagB (f : TFields) : Bool := f.m.getLsbD 0 == (f.b == .none)
/-- A handle whose count must be 0 (07 R160, R163). -/
def noCount (o : TFields → Operand) (f : TFields) : Bool := match o f with | .h _ c => c == 0 | _ => true
/-- HCFG: A is given in OPC 0 and 1 (07 R160). That a breach is a decode trap of step 3, with FBIT 20 or 0, is the model's
choice (log entry 98). -/
def hcfgA (f : TFields) : Bool := (mField f.m 1 0 ≤ 1) == (f.a != .none)
/-- HCFG: B is given in OPC 1 (07 R160). -/
def hcfgB (f : TFields) : Bool := (mField f.m 1 0 == 1) == (f.b != .none)
/-- The four rows of HCFG by OPC (07 R160). -/
def hcfgOf (f : TFields) : Instr :=
  if mField f.m 1 0 = 0 then .hcfgBind f else if mField f.m 1 0 = 1 then .hcfgNew f
  else if mField f.m 1 0 = 2 then .hcfgUnbind f else .hcfgFree f

/-- Group A in format T (05 R92). The M fields are those of the tables of R92 and 06 R123, which 04 R81's examples of ADD and
VFMA contradict (log entry 99). -/
def rowsA0 : List OpRow := [
  row 0x000 [.s] [.s, .x] [.s, .x, .i] 0x400 [],
  row 0x001 [.s] [.s, .x] [.s, .x, .i] 0x400 [],
  row 0x002 [.s] [.s, .x] [.s, .x, .i] 0x400 [],
  row 0x003 [.s] [.s, .x] [.s, .x, .i] 0x0 [],
  row 0x004 [.s] [.s, .x] [.s, .x, .i] 0x0 [],
  row 0x005 [.s] [.s, .x] [.s, .x, .i] 0x0 [],
  row 0x006 [.s] [.s, .x] [.s, .x, .i] 0x0 [],
  row 0x007 [.s] [.s, .x] [.s, .x, .i] 0x0 [],
  row 0x008 [.s] [.s, .x] [.s, .x, .i] 0x0 [],
  row 0x009 [.s] [.s, .x] [.s, .x, .i] 0x0 [],
  row 0x00A [.s] [.s, .x] [.s, .x, .i] 0x0 [],
  row 0x00B [.s] [.s, .x] [.s, .x, .i] 0x0 [],
  row 0x00C [.s] [.s, .x] [.s, .x, .i] 0x0 [],
  row 0x00D [.s] [.s, .x] [.s, .x, .i] 0x0 [],
  row 0x00E [.s] [.s, .x] [.s, .x, .i] 0x0 [],
  row 0x00F [.s] [.s, .x] [.s, .x, .i] 0x0 [],
  row 0x010 [.s] [.s, .x] [.s, .x, .i] 0x0 [],
  row 0x011 [.s] [.s, .x] [.s, .x, .i] 0x0 [],
  row 0x012 [.s] [.s, .x] [.s, .x, .i] 0x0 [],
  row 0x013 [.s] [.s, .x] [.s, .x, .i] 0x0 [],
  row 0x014 [.s] [.s, .x] [.s, .x, .i] 0x0 [],
  row 0x015 [.s] [.s, .x] [.none] 0x400 []]

/-- Group A in format T (05 R92). -/
def rowsA1 : List OpRow := [
  row 0x016 [.s] [.s, .x] [.none] 0x400 [],
  row 0x017 [.s] [.s, .x] [.none] 0x0 [],
  row 0x018 [.s] [.s, .x] [.none] 0x0 [],
  row 0x019 [.s] [.s, .x] [.none] 0x0 [],
  row 0x01A [.s] [.s, .x] [.none] 0x0 [],
  row 0x01B [.s] [.s, .x] [.none] 0x0 [],
  row 0x01C [.s] [.s, .x] [.none] 0x3 [upTo 60 1 0 2],
  row 0x01D [.s] [.s, .x] [.none] 0x3 [upTo 60 1 0 2],
  { row 0x01E [.s, .x] [.s, .x, .i] [.none] 0x0 [] with dWrites := true },
  row 0x01F [.s] [.s, .x, .i] [.s, .x, .i] 0x1F [],
  row 0x022 [.w] [.w] [.w, .i] 0x400 [],
  row 0x023 [.w] [.w] [.w, .i] 0x400 [],
  row 0x024 [.w] [.s, .x] [.s, .x, .i] 0x1 [],
  row 0x025 [.s] [.s, .x] [.s, .x, .i] 0x400 [],
  row 0x026 [.p] [.s, .x] [.s, .x, .i] 0xF [upTo 60 3 0 5],
  row 0x027 [.p] [.s, .x] [.s, .x, .i] 0xF [upTo 60 3 0 5],
  row 0x028 [.p] [.s, .x] [.s, .x, .i] 0xF [upTo 60 3 0 1],
  row 0x029 [.s] [.s, .x] [.s, .x, .i] 0xF [upTo 60 3 0 8],
  row 0x02A [.s] [.s, .x] [.none] 0x1FFF [fieldFits],
  row 0x02B [.s] [.s, .x] [.none] 0xFFF [fieldFits]]

def rowsA : List OpRow := rowsA0 ++ rowsA1

/-- Group B in format T (05 R99). -/
def rowsB0 : List OpRow := [
  row 0x043 [.s] [.s] [.none] 0x0 [],
  row 0x044 [.none] [.s] [.none] 0x0 [],
  row 0x047 [.none] [.none] [.none] 0x0 [],
  row 0x048 [.none] [.none] [.none] 0x0 [],
  row 0x049 [.none] [.none] [.none] 0x0 [],
  row 0x04A [.none] [.none] [.i, .none] 0x0 [],
  row 0x04B [.none] [.s, .x, .i] [.none] 0x1 [],
  row 0x04C [.p] [.p] [.p] 0x0 [],
  row 0x04D [.p] [.p] [.p] 0x0 [],
  row 0x04E [.p] [.p] [.p] 0x0 [],
  row 0x04F [.p] [.p] [.none] 0x0 [],
  row 0x050 [.p] [.p] [.none] 0x0 [],
  row 0x051 [.p] [.s, .x, .i] [.none] 0x0 [],
  row 0x052 [.s] [.p] [.none] 0x0 [],
  row 0x053 [.s] [.p] [.none] 0x0 [],
  row 0x054 [.s] [.p] [.none] 0x0 [],
  row 0x055 [.s] [.p] [.none] 0x0 []]

def rowsB : List OpRow := rowsB0

/-- Group C in format T (05 R104). -/
def rowsC0 : List OpRow := [
  row 0x060 [.s] [.s, .i] [.s, .i] 0x3800 [rndOk],
  row 0x061 [.s] [.s, .i] [.s, .i] 0x3800 [rndOk],
  row 0x062 [.s] [.s, .i] [.s, .i] 0x3800 [rndOk],
  row 0x063 [.s] [.s, .i] [.s, .i] 0x3800 [rndOk],
  row 0x064 [.s] [.s, .i] [.none] 0x3800 [rndOk],
  row 0x065 [.s] [.s, .i] [.s, .i] 0x3800 [rndOk],
  row 0x066 [.s] [.s, .i] [.s, .i] 0x3800 [rndOk],
  row 0x067 [.s] [.s, .i] [.s, .i] 0x3800 [rndOk],
  row 0x068 [.s] [.s, .i] [.s, .i] 0x0 [],
  row 0x069 [.s] [.s, .i] [.s, .i] 0x0 [],
  row 0x06A [.s] [.s] [.none] 0x0 [],
  row 0x06B [.s] [.s] [.none] 0x0 [],
  row 0x06C [.s] [.s] [.s] 0x0 [],
  row 0x06D [.s] [.s, .i] [.s, .i] 0x3800 [rndOk],
  row 0x06E [.p] [.s, .i] [.s, .i] 0xF [upTo 60 3 0 7],
  row 0x06F [.s] [.s] [.none] 0x0 [],
  row 0x070 [.s] [.s] [.none] 0x3800 [rndOk],
  row 0x071 [.s] [.s] [.none] 0x3800 [rndOk],
  row 0x072 [.s] [.s] [.none] 0x3800 [rndOk],
  row 0x073 [.s] [.s, .x, .i] [.none] 0x3800 [rndOk],
  row 0x074 [.s] [.s, .x, .i] [.none] 0x3800 [rndOk],
  row 0x075 [.s] [.s] [.none] 0x38E7 [rndOk, upTo 65 7 5 4, upTo 60 2 0 4]]

/-- Group C in format T (05 R104). -/
def rowsC1 : List OpRow := [
  row 0x076 [.s] [.s] [.none] 0x0 [],
  row 0x077 [.s] [.s] [.none] 0x0 [],
  row 0x078 [.s] [.s] [.none] 0x0 [],
  row 0x079 [.s] [.s] [.none] 0x0 [],
  row 0x07A [.s] [.s] [.none] 0x0 [],
  row 0x07B [.s] [.s] [.none] 0x0 [],
  row 0x07C [.s] [.s] [.s, .i] 0x3800 [rndOk],
  row 0x07D [.s] [.s] [.none] 0x0 [],
  row 0x07E [.s] [.s] [.none] 0x3 [],
  row 0x07F [.s] [.s] [.none] 0x0 [],
  row 0x080 [.s] [.s] [.s, .i] 0x3800 [rndOk],
  row 0x081 [.s] [.s] [.s, .i] 0x3800 [rndOk]]

def rowsC : List OpRow := rowsC0 ++ rowsC1

/-- Group D in format T (06 R120 to R139). -/
def rowsD0 : List OpRow := [
  row 0x0A0 [.v, .h] [.v, .h, .s, .i] [.v, .h, .s, .i] 0x7E0 [],
  row 0x0A1 [.v, .h] [.v, .h, .s, .i] [.v, .h, .s, .i] 0x7E0 [],
  row 0x0A2 [.v, .h] [.v, .h, .s, .i] [.v, .h, .s, .i] 0x7E0 [],
  row 0x0A3 [.v, .h] [.v, .h, .s, .i] [.v, .h, .s, .i] 0x3E0 [],
  row 0x0A4 [.v] [.v, .h, .s, .i] [.v, .h, .s, .i] 0x7E0 [],
  row 0x0A5 [.v, .h] [.v, .h, .s, .i] [.v, .h, .s, .i] 0x3E0 [],
  row 0x0A6 [.v, .h] [.v, .h, .s, .i] [.v, .h, .s, .i] 0x3E0 [],
  row 0x0A7 [.v, .h] [.v, .h] [.none] 0x7E0 [],
  row 0x0A8 [.v, .h] [.v, .h] [.none] 0x7E0 [],
  row 0x0A9 [.v, .h] [.v, .h, .s, .i] [.v, .h, .s, .i] 0x3E0 [],
  row 0x0AA [.v, .h] [.v, .h, .s, .i] [.v, .h, .s, .i] 0x3E0 [],
  row 0x0AB [.v, .h] [.v, .h, .s, .i] [.v, .h, .s, .i] 0x3E0 [],
  row 0x0AC [.v, .h] [.v, .h, .s, .i] [.v, .h, .s, .i] 0x3E0 [],
  row 0x0AD [.v, .h] [.v, .h, .s, .i] [.v, .h, .s, .i] 0x3E0 [],
  row 0x0AE [.v, .h] [.v, .h, .s, .i] [.v, .h, .s, .i] 0x3E0 [],
  row 0x0AF [.p] [.v, .h, .s, .i] [.v, .h, .s, .i] 0x3EF [upTo 60 3 0 5],
  row 0x0B0 [.v, .h] [.v, .h, .s, .i] [.v, .h, .s, .i] 0x1F [],
  row 0x0B1 [.v, .h] [.v, .h, .s, .i] [.v, .h, .s, .i] 0x3BE0 [rndOk],
  row 0x0B2 [.v, .h] [.v, .h, .s, .i] [.v, .h, .s, .i] 0x3BE0 [rndOk],
  row 0x0B3 [.v, .h] [.v, .h, .s, .i] [.v, .h, .s, .i] 0x3BE0 [rndOk],
  row 0x0B4 [.v] [.v, .h, .s, .i] [.v, .h, .s, .i] 0x3BE0 [rndOk],
  row 0x0B5 [.v] [.v, .h, .s, .i] [.v, .h, .s, .i] 0x3BE0 [rndOk]]

/-- Group D in format T (06 R120 to R139). -/
def rowsD1 : List OpRow := [
  row 0x0B6 [.v, .h] [.v, .h, .s, .i] [.v, .h, .s, .i] 0x3E0 [],
  row 0x0B7 [.v, .h] [.v, .h, .s, .i] [.v, .h, .s, .i] 0x3E0 [],
  row 0x0B8 [.v, .h] [.v, .h] [.none] 0x3E0 [],
  row 0x0B9 [.v, .h] [.v, .h] [.none] 0x3E0 [],
  row 0x0BA [.p] [.v, .h, .s, .i] [.v, .h, .s, .i] 0x3EF [upTo 60 3 0 7],
  row 0x0BB [.v, .h] [.v, .h] [.none] 0x3E0 [],
  row 0x0BC [.v, .h] [.v, .h] [.none] 0x3E0 [],
  row 0x0BD [.v, .h] [.v, .h] [.none] 0x3E0 [],
  row 0x0BE [.v, .h] [.v, .h] [.none] 0x3E0 [],
  row 0x0BF [.v, .h] [.v, .h] [.none] 0x3E0 [],
  row 0x0C0 [.v] [.v, .h] [.none] 0x3CFF [rndOk, cvtSatOk, cvtPartOk],
  row 0x0C1 [.s] [.v, .h] [.none] 0x3E0 [],
  row 0x0C2 [.s] [.v, .h] [.none] 0x3BE0 [rndOk],
  row 0x0C3 [.s] [.v, .h] [.none] 0x3E0 [],
  row 0x0C4 [.s] [.v, .h] [.none] 0x3E0 [],
  row 0x0C5 [.s] [.v, .h] [.none] 0x3E0 [],
  row 0x0C6 [.s] [.v, .h] [.none] 0x3E0 [],
  row 0x0C7 [.s] [.v, .h] [.v, .h, .s, .i] 0x3E0 [],
  row 0x0C8 [.s] [.v, .h] [.v, .h, .s, .i] 0x3BE0 [rndOk],
  row 0x0C9 [.v, .h] [.v, .h] [.none] 0x3E0 [],
  row 0x0CA [.v, .h] [.s, .i] [.none] 0x3E0 [],
  row 0x0CB [.s] [.v, .h] [.s, .i] 0x0 []]

/-- Group D in format T (06 R120 to R139). -/
def rowsD2 : List OpRow := [
  row 0x0CC [.v] [.s, .i] [.s, .i] 0x0 [],
  row 0x0CD [.v, .h] [.v, .h] [.v, .h] 0x3E0 [],
  row 0x0CE [.v, .h] [.v, .h] [.v, .h, .none] 0xF [upTo 60 3 0 5],
  row 0x0CF [.v, .h] [.v, .h] [.s, .i] 0x3E0 [],
  row 0x0D0 [.v, .h] [.v, .h] [.p] 0x0 [],
  row 0x0D1 [.v, .h] [.v, .h] [.p] 0x0 [],
  row 0x0D2 [.v, .h] [.p, .none] [.none] 0x3E0 [],
  row 0x0D3 [.v, .h] [.v, .h] [.none] 0x380F [rndOk],
  row 0x0D4 [.v, .h] [.v, .h] [.none] 0x380C [rndOk],
  row 0x0D5 [.v, .h] [.v, .h] [.s, .i] 0x3800 [rndOk],
  row 0x0D6 [.v, .h] [.v, .h] [.s, .i] 0x3800 [rndOk],
  row 0x0D7 [.v, .h] [.v, .h] [.none] 0xC [],
  row 0x0D8 [.v, .h] [.v, .h] [.p] 0x1 [],
  { row 0x0D9 [.v, .s] [.v, .h, .none] [.w] 0x3800 [rndOk] with aOk := onlineKinds },
  row 0x0DA [.v, .h] [.v, .h] [.s, .i] 0x3E0 [],
  row 0x0DB [.v, .h] [.v, .h] [.none] 0x3BE1 [rndOk],
  row 0x0DC [.v, .h] [.none] [.none] 0x0 [],
  row 0x0DD [.v, .h] [.v, .h, .s, .i] [.v, .h, .s, .i] 0x3BE0 [rndOk]]

def rowsD : List OpRow := rowsD0 ++ rowsD1 ++ rowsD2

/-- Group E in format T (07 R145 to R154). -/
def rowsE0 : List OpRow := [
  row 0x100 [.s] [.s] [.s, .i] 0xF [decSzOk],
  row 0x102 [.s] [.s] [.s, .i] 0xF [decSzOk],
  row 0x101 [.s] [.s] [.s, .i] 0x7 [],
  row 0x103 [.s] [.s] [.s, .i] 0x3 [],
  row 0x104 [.s] [.s] [.s, .i] 0x3 [],
  row 0x105 [.v] [.s] [.s, .i] 0x3FE0 [rndOk],
  row 0x106 [.v] [.s] [.s, .i] 0x3FE0 [rndOk],
  row 0x107 [.v] [.s] [.s, .i] 0x3C00 [rndOk],
  row 0x108 [.v] [.s] [.s, .i] 0x3FE0 [rndOk],
  row 0x109 [.v] [.s] [.s, .i] 0x3FE0 [rndOk],
  row 0x10A [.v] [.s] [.s, .i] 0x3FE0 [rndOk],
  row 0x10B [.v] [.s] [.v] 0x3FE0 [rndOk],
  row 0x10C [.v] [.s] [.v] 0x3FE0 [rndOk],
  row 0x10D [.none] [.s] [.s, .i] 0x0 [],
  row 0x10E [.none] [.s] [.s, .i] 0x0 [],
  row 0x10F [.none] [.s] [.s, .i] 0x0 [],
  row 0x110 [.s] [.s] [.s, .i] 0x303 [upTo 60 1 0 1],
  row 0x111 [.s] [.s] [.s, .i] 0x307 [upTo 60 1 0 1],
  row 0x112 [.s] [.s] [.s, .i] 0x307 [upTo 60 1 0 1],
  row 0x113 [.s] [.s] [.s, .i] 0x303 [upTo 60 1 0 1],
  row 0x114 [.s] [.s] [.s, .i] 0x303 [upTo 60 1 0 1],
  row 0x115 [.s] [.s] [.s, .i] 0x303 [upTo 60 1 0 1]]

/-- Group E in format T (07 R145 to R154). -/
def rowsE1 : List OpRow := [
  row 0x116 [.s] [.s] [.s, .i] 0x303 [upTo 60 1 0 1],
  row 0x117 [.w] [.s] [.s, .i] 0x303 [upTo 60 1 0 1],
  row 0x118 [.s] [.s] [.s, .i] 0x303 [upTo 60 1 0 1],
  row 0x119 [.s] [.s] [.s, .i] 0x3B00 [rndOk],
  row 0x11A [.s] [.s] [.s, .i] 0x0 [],
  row 0x11B [.s] [.s, .none] [.none] 0x0 [],
  row 0x11C [.s, .none] [.s] [.s, .i] 0x1F [nbOk, upTo 60 3 0 5, acqOk],
  row 0x11D [.s, .none] [.s] [.s, .i] 0x0 [],
  row 0x11E [.none] [.none] [.none] 0x3E0 [between 68 9 8 1 3, upTo 65 7 5 5],
  row 0x11F [.s] [.s] [.s, .i] 0xE3 [upTo 65 7 5 5, upTo 60 1 0 1],
  row 0x120 [.s] [.s] [.s, .i] 0xE3 [upTo 65 7 5 5, upTo 60 1 0 1],
  { row 0x121 [.s, .none] [.s] [.s, .i] 0x7 [upTo 60 1 0 1] with dOk := waitwOk },
  row 0x122 [.p, .none] [.s] [.s, .i] 0x10 [nbOk],
  row 0x123 [.none] [.s] [.s, .i] 0x0 []]

def rowsE : List OpRow := rowsE0 ++ rowsE1

/-- Group F in format T (07 R156 to R162). -/
def rowsF0 : List OpRow := [
  row 0x142 [.none] [.s, .none] [.none] 0xE0 [upTo 65 7 5 5],
  row 0x143 [.s] [.s, .w] [.none] 0x3F1 [relOnly, upTo 65 7 5 5, nbOk],
  row 0x144 [.s] [.v] [.s, .i] 0x3F1 [relOnly, upTo 65 7 5 5, nbOk],
  row 0x145 [.s] [.v] [.s, .i] 0x3F1 [relOnly, upTo 65 7 5 5, nbOk],
  { row 0x146 [.h, .none] [.s, .i] [.s, .none] 0xFF [upTo 66 7 6 2, upTo 61 3 1 4] with dOk := bindtagD, bOk := bindtagB },
  row 0x147 [.none] [.s, .i] [.none] 0x0 [],
  { row 0x148 [.h] [.s, .i, .none] [.s, .i, .none] 0x3 [] with dOk := noCount TFields.d, aOk := hcfgA, bOk := hcfgB },
  { row 0x149 [.h] [.s, .i] [.none] 0x10 [nbOk] with dOk := noCount TFields.d },
  { row 0x14A [.h] [.s, .i] [.none] 0x10 [nbOk] with dOk := noCount TFields.d },
  { row 0x14B [.s] [.h] [.none] 0x0 [] with aOk := noCount TFields.a },
  row 0x14C [.none] [.s, .i] [.none] 0x0 [],
  row 0x14D [.none] [.s, .i, .none] [.none] 0x0 [],
  row 0x14E [.s, .none] [.s, .i] [.none] 0x0 [],
  row 0x14F [.s] [.s, .i] [.none] 0x0 [],
  row 0x150 [.p, .none] [.s, .i] [.none] 0x0 [],
  row 0x151 [.none] [.s] [.none] 0x0 []]

def rowsF : List OpRow := rowsF0

/-- Group G in format T (07 R163). -/
def rowsG0 : List OpRow := [
  row 0x160 [.p] [.s, .v] [.none] 0x0 [],
  row 0x161 [.none] [.s, .v, .none] [.none] 0x0 [],
  row 0x162 [.s] [.s, .v] [.none] 0x0 [],
  row 0x163 [.none] [.s, .v] [.none] 0x0 [],
  row 0x164 [.s] [.s, .i] [.none] 0x0 [],
  { row 0x165 [.s, .v] [.h] [.none] 0x0 [] with aOk := noCount TFields.a },
  row 0x166 [.none] [.s, .i] [.none] 0x0 [],
  row 0x167 [.s] [.s, .v] [.none] 0x0 [guardNamed]]

def rowsG : List OpRow := rowsG0

/-- Group H in format T (08 R166). -/
def rowsH0 : List OpRow := [
  row 0x170 [.s] [.s] [.none] 0x0 [],
  row 0x171 [.s] [.s] [.none] 0x0 [],
  row 0x172 [.s] [.s] [.s, .i] 0x0 [],
  row 0x173 [.none] [.s] [.s] 0x0 [],
  row 0x174 [.s] [.s] [.s] 0x0 [],
  row 0x175 [.none] [.s] [.none] 0x0 [],
  row 0x176 [.none] [.s] [.none] 0x0 [],
  row 0x177 [.none] [.s] [.none] 0x0 [],
  row 0x178 [.s] [.s] [.none] 0x1 [],
  row 0x179 [.s] [.s] [.s, .i] 0x1 []]

def rowsH : List OpRow := rowsH0

/-- Group I in format T (08 R173 to R184). -/
def rowsI0 : List OpRow := [
  row 0x180 [.s] [.v, .s] [.none] 0xF0 [between 65 7 5 1 5, nbOk],
  row 0x181 [.s] [.v, .s] [.none] 0xF0 [between 65 7 5 1 5, nbOk],
  row 0x182 [.s] [.v, .s] [.none] 0xF0 [between 65 7 5 1 5, nbOk],
  row 0x183 [.s] [.v, .s] [.none] 0xF0 [between 65 7 5 1 5, nbOk],
  row 0x184 [.none] [.s, .i] [.none] 0x0 [],
  row 0x185 [.none] [.s, .i] [.s, .i] 0x0 [],
  row 0x186 [.s] [.s] [.v] 0xF0 [between 65 7 5 1 5, nbOk],
  row 0x187 [.s] [.s, .i] [.none] 0x300 [upTo 68 9 8 1],
  row 0x188 [.v] [.s] [.s, .i] 0x10 [nbOk],
  row 0x189 [.s] [.s] [.none] 0x17 [nbOk, upTo 60 2 0 4],
  row 0x18A [.s] [.v] [.w] 0x0 [],
  row 0x18B [.none] [.s] [.w] 0x0 [],
  row 0x18C [.s] [.s] [.s] 0x10 [nbOk],
  row 0x18D [.s] [.s] [.s, .i] 0x1 [],
  row 0x18E [.s] [.s] [.w] 0x1 [],
  row 0x18F [.s] [.v] [.none] 0x10 [nbOk],
  row 0x190 [.none] [.s, .i] [.none] 0x1 [],
  row 0x191 [.none] [.s, .i] [.none] 0x0 [],
  row 0x192 [.s] [.s] [.none] 0x11 [nbOk],
  row 0x193 [.s] [.s] [.s, .i] 0x10 [nbOk]]

def rowsI : List OpRow := rowsI0

/-- Group J in format T (08 R187). -/
def rowsJ0 : List OpRow := [
  row 0x1B0 [.s] [.s, .i] [.v] 0x10 [nbOk],
  row 0x1B1 [.none] [.s] [.none] 0x300 [relOnly],
  row 0x1B2 [.none] [.s, .i, .none] [.none] 0x0 [],
  row 0x1B3 [.none] [.s, .none] [.none] 0x0 [],
  row 0x1B4 [.s] [.x] [.s, .none] 0x0 [],
  { row 0x1B5 [.x] [.s, .i] [.s, .none] 0x0 [] with dWrites := true },
  row 0x1B6 [.none] [.s, .none] [.s, .none] 0xE0 [between 65 7 5 1 4],
  row 0x1B7 [.w] [.none] [.none] 0x0 [],
  row 0x1B8 [.none] [.s, .i] [.s, .i, .none] 0x0 [],
  row 0x1B9 [.none] [.none] [.none] 0x0 [],
  row 0x1BA [.none] [.s] [.none] 0x0 [],
  row 0x1BB [.none] [.none] [.none] 0x0 [],
  row 0x1BC [.none] [.s, .i, .none] [.none] 0x3 [upTo 60 1 0 2],
  row 0x1BD [.s] [.s, .i] [.none] 0x0 [],
  row 0x1BE [.p, .none] [.v] [.none] 0x10 [nbOk],
  row 0x1BF [.s] [.s, .i] [.none] 0x0 []]

def rowsJ : List OpRow := rowsJ0

/-- Group K in format T (08 R193, R194). -/
def rowsK0 : List OpRow := [
  row 0x1E0 [.s] [.v] [.none] 0x0 [],
  row 0x1E1 [.v] [.s] [.none] 0x0 [],
  row 0x1E2 [.s, .i] [.s, .i] [.s, .i] 0x1 [],
  row 0x1E3 [.s, .i] [.s] [.s, .i] 0x0 [],
  row 0x1E4 [.v] [.s, .i] [.s] 0x0 [],
  row 0x1E5 [.none] [.s, .i, .none] [.none] 0x0 [],
  row 0x1E6 [.s] [.s, .i] [.none] 0xF [planesFmt],
  row 0x1E7 [.s, .i] [.s, .i] [.none] 0x0 [],
  row 0x1E8 [.p] [.s, .i] [.s, .i] 0x0 [],
  row 0x1E9 [.v] [.s] [.s, .i] 0x0 [],
  row 0x1EA [.v] [.s] [.s, .i] 0x0 [],
  row 0x1EB [.v] [.s] [.s, .i] 0x3 [],
  row 0x1EC [.v] [.s] [.s, .i] 0x3 [],
  row 0x1ED [.v] [.v] [.s] 0x3CFF [rndOk, convFmt 64 7 4, convFmt 60 3 0],
  row 0x1EE [.s, .i] [.s] [.none] 0x0 [],
  row 0x1EF [.none] [.v] [.s] 0x0 [],
  row 0x1F0 [.v] [.s] [.none] 0x10 [nbOk],
  row 0x1F1 [.v] [.v] [.s] 0x0 []]

def rowsK : List OpRow := rowsK0

/-- The format L opcodes (04 R87; 05 R92, R99; 07 R156). -/
def rowsL : List OpRowL := [
  rowL 0x020 [.s] 0x0 [],
  { rowL 0x021 [.s] 0x0 [] with immOk := fun f => f.imm.toNat < 2 ^ 24 },
  rowL 0x040 [.none] 0x0 [],
  rowL 0x041 [.s] 0x0 [],
  rowL 0x042 [.s] 0x0 [],
  rowL 0x045 [.s] 0x0 [],
  rowL 0x046 [.s, .x] 0xF [upToL 60 3 0 5],
  rowL 0x140 [.w] 0x3FFF [upToL 70 13 10 0, upToL 67 9 7 4, upToL 65 6 5 2, budgetOk, upToL 60 2 0 4],
  rowL 0x141 [.w] 0x3FFF [upToL 67 9 7 4, upToL 65 6 5 2, budgetOk, upToL 60 2 0 4]]

/-- The format T opcodes of a group. -/
def rowsOf : Group → List OpRow
  | .A => rowsA | .B => rowsB | .C => rowsC | .D => rowsD | .E => rowsE | .F => rowsF
  | .G => rowsG | .H => rowsH | .I => rowsI | .J => rowsJ | .K => rowsK

/-- The row of a format T opcode. -/
def rowT? (op : Nat) : Option OpRow := (rowsOf (groupOf op)).find? (fun r => r.op == op)
/-- The row of a format L opcode. -/
def rowL? (op : Nat) : Option OpRowL := rowsL.find? (fun r => r.op == op)
/-- The opcode map assigns this value (04 R87). -/
def assigned (op : Nat) : Bool := (rowT? op).isSome || (rowL? op).isSome

/-- The fields of a word, by its format. -/
inductive Fields where
  | t (f : TFields)
  | l (f : LFields)
  deriving DecidableEq, Repr

/-- The constructors of group A in format T. -/
def mkA : List (Nat × (TFields → Instr)) := [
  (0x000, .add), (0x001, .sub), (0x002, .mul), (0x003, .mulh),
  (0x004, .mulhu), (0x005, .div), (0x006, .divu), (0x007, .rem),
  (0x008, .remu), (0x009, .and), (0x00A, .or), (0x00B, .xor),
  (0x00C, .andn), (0x00D, .shl), (0x00E, .shr), (0x00F, .sra),
  (0x010, .rol), (0x011, .min), (0x012, .max), (0x013, .minu),
  (0x014, .maxu), (0x015, .abs), (0x016, .neg), (0x017, .clz),
  (0x018, .ctz), (0x019, .popc), (0x01A, .brev), (0x01B, .bswap),
  (0x01C, .sext), (0x01D, .zext), (0x01E, .mov), (0x01F, .sel),
  (0x022, .addW), (0x023, .subW), (0x024, .mulW), (0x025, .madd),
  (0x026, .cmp), (0x027, .cmpu), (0x028, .test), (0x029, .lea),
  (0x02A, .bfx), (0x02B, .bfi)]

/-- The constructors of group B in format T. -/
def mkB : List (Nat × (TFields → Instr)) := [
  (0x043, .callr), (0x044, .ret), (0x047, .nop), (0x048, .yield),
  (0x049, .exit), (0x04A, .bkpt), (0x04B, .waitt), (0x04C, .pand),
  (0x04D, .por), (0x04E, .pxor), (0x04F, .pnot), (0x050, .pmov),
  (0x051, .pset), (0x052, .pany), (0x053, .pall), (0x054, .pcnt),
  (0x055, .pfirst)]

/-- The constructors of group C in format T. -/
def mkC : List (Nat × (TFields → Instr)) := [
  (0x060, .fadd), (0x061, .fsub), (0x062, .fmul), (0x063, .fdiv),
  (0x064, .fsqrt), (0x065, .fma), (0x066, .fms), (0x067, .fnma),
  (0x068, .fmin), (0x069, .fmax), (0x06A, .fabs), (0x06B, .fneg),
  (0x06C, .fsgn), (0x06D, .fabd), (0x06E, .fcmp), (0x06F, .fclass),
  (0x070, .frint), (0x071, .f2i), (0x072, .f2u), (0x073, .i2f),
  (0x074, .u2f), (0x075, .fcvt), (0x076, .fexp2), (0x077, .flog2),
  (0x078, .frcp), (0x079, .frsq), (0x07A, .ftanh), (0x07B, .fsigm),
  (0x07C, .fscalb), (0x07D, .fgetexp), (0x07E, .scenc), (0x07F, .scdec),
  (0x080, .fq8), (0x081, .fdq8)]

/-- The constructors of group D in format T. -/
def mkD : List (Nat × (TFields → Instr)) := [
  (0x0A0, .vadd), (0x0A1, .vsub), (0x0A2, .vmul), (0x0A3, .vmulh),
  (0x0A4, .vmadd), (0x0A5, .vmin), (0x0A6, .vmax), (0x0A7, .vabs),
  (0x0A8, .vneg), (0x0A9, .vand), (0x0AA, .vor), (0x0AB, .vxor),
  (0x0AC, .vshl), (0x0AD, .vshr), (0x0AE, .vsra), (0x0AF, .vcmp),
  (0x0B0, .vsel), (0x0B1, .vfadd), (0x0B2, .vfsub), (0x0B3, .vfmul),
  (0x0B4, .vfma), (0x0B5, .vfms), (0x0B6, .vfmin), (0x0B7, .vfmax),
  (0x0B8, .vfabs), (0x0B9, .vfneg), (0x0BA, .vfcmp), (0x0BB, .vfexp2),
  (0x0BC, .vfrcp), (0x0BD, .vfrsq), (0x0BE, .vftanh), (0x0BF, .vfsigm),
  (0x0C0, .vfcvt), (0x0C1, .vradd), (0x0C2, .vrfadd), (0x0C3, .vrmax),
  (0x0C4, .vrmin), (0x0C5, .vrfmax), (0x0C6, .vrfmin), (0x0C7, .vdot),
  (0x0C8, .vfdot), (0x0C9, .vmov), (0x0CA, .vbcast), (0x0CB, .vext),
  (0x0CC, .vins), (0x0CD, .vperm), (0x0CE, .vshuf), (0x0CF, .vslide),
  (0x0D0, .vcompress), (0x0D1, .vexpand), (0x0D2, .viota), (0x0D3, .vbsenc),
  (0x0D4, .vbsdec), (0x0D5, .vq8), (0x0D6, .vdq8), (0x0D7, .vamax),
  (0x0D8, .vsplit), (0x0D9, .vonline), (0x0DA, .vclamp), (0x0DB, .vscan),
  (0x0DC, .vrng), (0x0DD, .vavg)]

/-- The constructors of group E in format T. -/
def mkE : List (Nat × (TFields → Instr)) := [
  (0x100, (fun f => if f.m.getLsbD 3 then .ldDec f else .ld f)), (0x102, .ldl), (0x101, .ldb), (0x103, .st),
  (0x104, .stwt), (0x105, .vld), (0x106, .vldb), (0x107, .vldl),
  (0x108, .vst), (0x109, .vlds), (0x10A, .vsts), (0x10B, .vldx),
  (0x10C, .vstx), (0x10D, .pref), (0x10E, .flushl), (0x10F, .invl),
  (0x110, .aadd), (0x111, .amin), (0x112, .amax), (0x113, .aand),
  (0x114, .aor), (0x115, .axor), (0x116, .aswap), (0x117, .acas),
  (0x118, .ainc), (0x119, .afadd), (0x11A, .bind), (0x11B, .unbind),
  (0x11C, .acq), (0x11D, .rel), (0x11E, .fence), (0x11F, .lda),
  (0x120, .str), (0x121, (fun f => if f.m.getLsbD 2 then .waitwWake f else .waitw f)), (0x122, .pinsp), (0x123, .unpinsp)]

/-- The constructors of group F in format T. -/
def mkF : List (Nat × (TFields → Instr)) := [
  (0x142, .join), (0x143, .send), (0x144, .sendv), (0x145, .mcast),
  (0x146, .bindtag), (0x147, .unbindtag), (0x148, hcfgOf), (0x149, .hadv),
  (0x14A, .hadvw), (0x14B, .hq), (0x14C, .policy), (0x14D, .raise),
  (0x14E, .waitj), (0x14F, .jobq), (0x150, .sleep), (0x151, .wake)]

/-- The constructors of group G in format T. -/
def mkG : List (Nat × (TFields → Instr)) := [
  (0x160, .symq), (0x161, .symwait), (0x162, .symid), (0x163, .symdrop),
  (0x164, .jobl), (0x165, .rcvl), (0x166, .symlim), (0x167, .sympeek)]

/-- The constructors of group H in format T. -/
def mkH : List (Nat × (TFields → Instr)) := [
  (0x170, .lnfork), (0x171, .lnforkAf), (0x172, .lnpatch), (0x173, .lnrebase),
  (0x174, .lnrebaseChk), (0x175, .lnflat), (0x176, .lndrop), (0x177, .lndropFold),
  (0x178, .lninfo), (0x179, .lnres)]

/-- The constructors of group I in format T. -/
noncomputable def mkI : List (Nat × (TFields → Instr)) := [
  (0x180, .meload), (0x181, .memm), (0x182, .melin), (0x183, .medl),
  (0x184, .medrop), (0x185, .meburst), (0x186, .cuq), (0x187, .cuwp),
  (0x188, .cucq), (0x189, .coll), (0x18A, .attn), (0x18B, .kvmap),
  (0x18C, .kvgrow), (0x18D, .pfxh), (0x18E, .pfxl), (0x18F, .pfxins),
  (0x190, .pfxpin), (0x191, .pfxdel), (0x192, .gather), (0x193, .cuwait)]

/-- The constructors of group J in format T. -/
noncomputable def mkJ : List (Nat × (TFields → Instr)) := [
  (0x1B0, .sysc), (0x1B1, .intr), (0x1B2, .trap), (0x1B3, .eret),
  (0x1B4, .rdx), (0x1B5, .wrx), (0x1B6, .tlbi), (0x1B7, .time),
  (0x1B8, .tmark), (0x1B9, .hlt), (0x1BA, .ckpt), (0x1BB, .ifence),
  (0x1BC, .cctl), (0x1BD, .perf), (0x1BE, .logx), (0x1BF, .spadmap)]

/-- The constructors of group K in format T. -/
noncomputable def mkK : List (Nat × (TFields → Instr)) := [
  (0x1E0, .cimw), (0x1E1, .cimr), (0x1E2, .bpl), (0x1E3, .rbld),
  (0x1E4, .accrd), (0x1E5, .accclr), (0x1E6, .planes), (0x1E7, .dupf),
  (0x1E8, .delta), (0x1E9, .takew), (0x1EA, .taker), (0x1EB, .beatrd),
  (0x1EC, .beatwr), (0x1ED, .conv), (0x1EE, .wpset), (0x1EF, .cmpl),
  (0x1F0, .pktnext), (0x1F1, .scatr)]

/-- The constructors in format L. -/
def mkL : List (Nat × (LFields → Instr)) := [
  (0x020, .li), (0x021, .lih), (0x040, .br), (0x041, .jmp), (0x042, .call), (0x045, .loop), (0x046, .brt), (0x140, .spawn), (0x141, .spawnr)]

/-- The constructors of a group in format T. -/
noncomputable def mkOf : Group → List (Nat × (TFields → Instr))
  | .A => mkA | .B => mkB | .C => mkC | .D => mkD | .E => mkE | .F => mkF
  | .G => mkG | .H => mkH | .I => mkI | .J => mkJ | .K => mkK

/-- The instruction of an assigned opcode with the fields of its format (04 R87). -/
noncomputable def instrOf (op : Nat) : Fields → Option Instr
  | .t f => ((mkOf (groupOf op)).find? (fun r => r.1 == op)).map (fun r => r.2 f)
  | .l f => (mkL.find? (fun r => r.1 == op)).map (fun r => r.2 f)

/-- The special register numbers that are assigned, those of the octet engines, launches, boot and mesh included
(02 R27; 12 R252; 14 R279; 17 R326, R329, R334, R335). -/
def specialAssigned (n : Nat) : Bool :=
  (0x001 ≤ n && n ≤ 0x004) || (0x010 ≤ n && n ≤ 0x016) || n == 0x020 || n == 0x021 || (0x030 ≤ n && n ≤ 0x035)
  || (0x040 ≤ n && n ≤ 0x043) || n == 0x050 || n == 0x060 || (0x100 ≤ n && n ≤ 0x102) || n == 0x200 || n == 0x201
  || (0x310 ≤ n && n ≤ 0x318)

/-- The special register numbers that a write may name (02 R27; 12 R252; 17 R326, R329, R334, R335). -/
def specialWritable (n : Nat) : Bool :=
  (0x001 ≤ n && n ≤ 0x004) || n == 0x030 || n == 0x031 || (0x040 ≤ n && n ≤ 0x043) || n == 0x200
  || n == 0x310 || (0x312 ≤ n && n ≤ 0x316) || n == 0x318

/-- Step 3 for an operand's value: a special register is assigned, and writable where `written` (04 R82). -/
def operandOk (written : Bool) : Operand → Bool
  | .x n => specialAssigned n.toNat && (!written || specialWritable n.toNat)
  | _ => true

/-- Two rows of the table share an opcode and differ in M bits (07 R145, R153, R160). -/
def formOk : Instr → Bool
  | .ld f => !f.m.getLsbD 3
  | .ldDec f => f.m.getLsbD 3
  | .waitw f => !f.m.getLsbD 2
  | .waitwWake f => f.m.getLsbD 2
  | .hcfgBind f => mField f.m 1 0 == 0
  | .hcfgNew f => mField f.m 1 0 == 1
  | .hcfgUnbind f => mField f.m 1 0 == 2
  | .hcfgFree f => mField f.m 1 0 == 3
  | _ => true

/-- Opcode and fields of an instruction with a word of its own; none for the steps of other agents (04 R87). -/
def opFields : Instr → Option (Nat × Fields)
  | .add f => some (0x000, .t f)
  | .sub f => some (0x001, .t f)
  | .mul f => some (0x002, .t f)
  | .mulh f => some (0x003, .t f)
  | .mulhu f => some (0x004, .t f)
  | .div f => some (0x005, .t f)
  | .divu f => some (0x006, .t f)
  | .rem f => some (0x007, .t f)
  | .remu f => some (0x008, .t f)
  | .and f => some (0x009, .t f)
  | .or f => some (0x00A, .t f)
  | .xor f => some (0x00B, .t f)
  | .andn f => some (0x00C, .t f)
  | .shl f => some (0x00D, .t f)
  | .shr f => some (0x00E, .t f)
  | .sra f => some (0x00F, .t f)
  | .rol f => some (0x010, .t f)
  | .min f => some (0x011, .t f)
  | .max f => some (0x012, .t f)
  | .minu f => some (0x013, .t f)
  | .maxu f => some (0x014, .t f)
  | .abs f => some (0x015, .t f)
  | .neg f => some (0x016, .t f)
  | .clz f => some (0x017, .t f)
  | .ctz f => some (0x018, .t f)
  | .popc f => some (0x019, .t f)
  | .brev f => some (0x01A, .t f)
  | .bswap f => some (0x01B, .t f)
  | .sext f => some (0x01C, .t f)
  | .zext f => some (0x01D, .t f)
  | .mov f => some (0x01E, .t f)
  | .sel f => some (0x01F, .t f)
  | .li f => some (0x020, .l f)
  | .lih f => some (0x021, .l f)
  | .addW f => some (0x022, .t f)
  | .subW f => some (0x023, .t f)
  | .mulW f => some (0x024, .t f)
  | .madd f => some (0x025, .t f)
  | .cmp f => some (0x026, .t f)
  | .cmpu f => some (0x027, .t f)
  | .test f => some (0x028, .t f)
  | .lea f => some (0x029, .t f)
  | .bfx f => some (0x02A, .t f)
  | .bfi f => some (0x02B, .t f)
  | .br f => some (0x040, .l f)
  | .jmp f => some (0x041, .l f)
  | .call f => some (0x042, .l f)
  | .callr f => some (0x043, .t f)
  | .ret f => some (0x044, .t f)
  | .loop f => some (0x045, .l f)
  | .brt f => some (0x046, .l f)
  | .nop f => some (0x047, .t f)
  | .yield f => some (0x048, .t f)
  | .exit f => some (0x049, .t f)
  | .bkpt f => some (0x04A, .t f)
  | .waitt f => some (0x04B, .t f)
  | .pand f => some (0x04C, .t f)
  | .por f => some (0x04D, .t f)
  | .pxor f => some (0x04E, .t f)
  | .pnot f => some (0x04F, .t f)
  | .pmov f => some (0x050, .t f)
  | .pset f => some (0x051, .t f)
  | .pany f => some (0x052, .t f)
  | .pall f => some (0x053, .t f)
  | .pcnt f => some (0x054, .t f)
  | .pfirst f => some (0x055, .t f)
  | .fadd f => some (0x060, .t f)
  | .fsub f => some (0x061, .t f)
  | .fmul f => some (0x062, .t f)
  | .fdiv f => some (0x063, .t f)
  | .fsqrt f => some (0x064, .t f)
  | .fma f => some (0x065, .t f)
  | .fms f => some (0x066, .t f)
  | .fnma f => some (0x067, .t f)
  | .fmin f => some (0x068, .t f)
  | .fmax f => some (0x069, .t f)
  | .fabs f => some (0x06A, .t f)
  | .fneg f => some (0x06B, .t f)
  | .fsgn f => some (0x06C, .t f)
  | .fabd f => some (0x06D, .t f)
  | .fcmp f => some (0x06E, .t f)
  | .fclass f => some (0x06F, .t f)
  | .frint f => some (0x070, .t f)
  | .f2i f => some (0x071, .t f)
  | .f2u f => some (0x072, .t f)
  | .i2f f => some (0x073, .t f)
  | .u2f f => some (0x074, .t f)
  | .fcvt f => some (0x075, .t f)
  | .fexp2 f => some (0x076, .t f)
  | .flog2 f => some (0x077, .t f)
  | .frcp f => some (0x078, .t f)
  | .frsq f => some (0x079, .t f)
  | .ftanh f => some (0x07A, .t f)
  | .fsigm f => some (0x07B, .t f)
  | .fscalb f => some (0x07C, .t f)
  | .fgetexp f => some (0x07D, .t f)
  | .scenc f => some (0x07E, .t f)
  | .scdec f => some (0x07F, .t f)
  | .fq8 f => some (0x080, .t f)
  | .fdq8 f => some (0x081, .t f)
  | .vadd f => some (0x0A0, .t f)
  | .vsub f => some (0x0A1, .t f)
  | .vmul f => some (0x0A2, .t f)
  | .vmulh f => some (0x0A3, .t f)
  | .vmadd f => some (0x0A4, .t f)
  | .vmin f => some (0x0A5, .t f)
  | .vmax f => some (0x0A6, .t f)
  | .vabs f => some (0x0A7, .t f)
  | .vneg f => some (0x0A8, .t f)
  | .vand f => some (0x0A9, .t f)
  | .vor f => some (0x0AA, .t f)
  | .vxor f => some (0x0AB, .t f)
  | .vshl f => some (0x0AC, .t f)
  | .vshr f => some (0x0AD, .t f)
  | .vsra f => some (0x0AE, .t f)
  | .vcmp f => some (0x0AF, .t f)
  | .vsel f => some (0x0B0, .t f)
  | .vfadd f => some (0x0B1, .t f)
  | .vfsub f => some (0x0B2, .t f)
  | .vfmul f => some (0x0B3, .t f)
  | .vfma f => some (0x0B4, .t f)
  | .vfms f => some (0x0B5, .t f)
  | .vfmin f => some (0x0B6, .t f)
  | .vfmax f => some (0x0B7, .t f)
  | .vfabs f => some (0x0B8, .t f)
  | .vfneg f => some (0x0B9, .t f)
  | .vfcmp f => some (0x0BA, .t f)
  | .vfexp2 f => some (0x0BB, .t f)
  | .vfrcp f => some (0x0BC, .t f)
  | .vfrsq f => some (0x0BD, .t f)
  | .vftanh f => some (0x0BE, .t f)
  | .vfsigm f => some (0x0BF, .t f)
  | .vfcvt f => some (0x0C0, .t f)
  | .vradd f => some (0x0C1, .t f)
  | .vrfadd f => some (0x0C2, .t f)
  | .vrmax f => some (0x0C3, .t f)
  | .vrmin f => some (0x0C4, .t f)
  | .vrfmax f => some (0x0C5, .t f)
  | .vrfmin f => some (0x0C6, .t f)
  | .vdot f => some (0x0C7, .t f)
  | .vfdot f => some (0x0C8, .t f)
  | .vmov f => some (0x0C9, .t f)
  | .vbcast f => some (0x0CA, .t f)
  | .vext f => some (0x0CB, .t f)
  | .vins f => some (0x0CC, .t f)
  | .vperm f => some (0x0CD, .t f)
  | .vshuf f => some (0x0CE, .t f)
  | .vslide f => some (0x0CF, .t f)
  | .vcompress f => some (0x0D0, .t f)
  | .vexpand f => some (0x0D1, .t f)
  | .viota f => some (0x0D2, .t f)
  | .vbsenc f => some (0x0D3, .t f)
  | .vbsdec f => some (0x0D4, .t f)
  | .vq8 f => some (0x0D5, .t f)
  | .vdq8 f => some (0x0D6, .t f)
  | .vamax f => some (0x0D7, .t f)
  | .vsplit f => some (0x0D8, .t f)
  | .vonline f => some (0x0D9, .t f)
  | .vclamp f => some (0x0DA, .t f)
  | .vscan f => some (0x0DB, .t f)
  | .vrng f => some (0x0DC, .t f)
  | .vavg f => some (0x0DD, .t f)
  | .ld f => some (0x100, .t f)
  | .ldDec f => some (0x100, .t f)
  | .ldb f => some (0x101, .t f)
  | .ldl f => some (0x102, .t f)
  | .st f => some (0x103, .t f)
  | .stwt f => some (0x104, .t f)
  | .vld f => some (0x105, .t f)
  | .vldb f => some (0x106, .t f)
  | .vldl f => some (0x107, .t f)
  | .vst f => some (0x108, .t f)
  | .vlds f => some (0x109, .t f)
  | .vsts f => some (0x10A, .t f)
  | .vldx f => some (0x10B, .t f)
  | .vstx f => some (0x10C, .t f)
  | .pref f => some (0x10D, .t f)
  | .flushl f => some (0x10E, .t f)
  | .invl f => some (0x10F, .t f)
  | .aadd f => some (0x110, .t f)
  | .amin f => some (0x111, .t f)
  | .amax f => some (0x112, .t f)
  | .aand f => some (0x113, .t f)
  | .aor f => some (0x114, .t f)
  | .axor f => some (0x115, .t f)
  | .aswap f => some (0x116, .t f)
  | .acas f => some (0x117, .t f)
  | .ainc f => some (0x118, .t f)
  | .afadd f => some (0x119, .t f)
  | .bind f => some (0x11A, .t f)
  | .unbind f => some (0x11B, .t f)
  | .acq f => some (0x11C, .t f)
  | .rel f => some (0x11D, .t f)
  | .fence f => some (0x11E, .t f)
  | .lda f => some (0x11F, .t f)
  | .str f => some (0x120, .t f)
  | .waitw f => some (0x121, .t f)
  | .waitwWake f => some (0x121, .t f)
  | .pinsp f => some (0x122, .t f)
  | .unpinsp f => some (0x123, .t f)
  | .spawn f => some (0x140, .l f)
  | .spawnr f => some (0x141, .l f)
  | .join f => some (0x142, .t f)
  | .send f => some (0x143, .t f)
  | .sendv f => some (0x144, .t f)
  | .mcast f => some (0x145, .t f)
  | .bindtag f => some (0x146, .t f)
  | .unbindtag f => some (0x147, .t f)
  | .hcfgBind f => some (0x148, .t f)
  | .hcfgNew f => some (0x148, .t f)
  | .hcfgUnbind f => some (0x148, .t f)
  | .hcfgFree f => some (0x148, .t f)
  | .hadv f => some (0x149, .t f)
  | .hadvw f => some (0x14A, .t f)
  | .hq f => some (0x14B, .t f)
  | .policy f => some (0x14C, .t f)
  | .raise f => some (0x14D, .t f)
  | .waitj f => some (0x14E, .t f)
  | .jobq f => some (0x14F, .t f)
  | .sleep f => some (0x150, .t f)
  | .wake f => some (0x151, .t f)
  | .symq f => some (0x160, .t f)
  | .symwait f => some (0x161, .t f)
  | .symid f => some (0x162, .t f)
  | .symdrop f => some (0x163, .t f)
  | .jobl f => some (0x164, .t f)
  | .rcvl f => some (0x165, .t f)
  | .symlim f => some (0x166, .t f)
  | .sympeek f => some (0x167, .t f)
  | .lnfork f => some (0x170, .t f)
  | .lnforkAf f => some (0x171, .t f)
  | .lnpatch f => some (0x172, .t f)
  | .lnrebase f => some (0x173, .t f)
  | .lnrebaseChk f => some (0x174, .t f)
  | .lnflat f => some (0x175, .t f)
  | .lndrop f => some (0x176, .t f)
  | .lndropFold f => some (0x177, .t f)
  | .lninfo f => some (0x178, .t f)
  | .lnres f => some (0x179, .t f)
  | .meload f => some (0x180, .t f)
  | .memm f => some (0x181, .t f)
  | .melin f => some (0x182, .t f)
  | .medl f => some (0x183, .t f)
  | .medrop f => some (0x184, .t f)
  | .meburst f => some (0x185, .t f)
  | .cuq f => some (0x186, .t f)
  | .cuwp f => some (0x187, .t f)
  | .cucq f => some (0x188, .t f)
  | .coll f => some (0x189, .t f)
  | .gather f => some (0x192, .t f)
  | .cuwait f => some (0x193, .t f)
  | .kvmap f => some (0x18B, .t f)
  | .kvgrow f => some (0x18C, .t f)
  | .attn f => some (0x18A, .t f)
  | .pfxh f => some (0x18D, .t f)
  | .pfxl f => some (0x18E, .t f)
  | .pfxins f => some (0x18F, .t f)
  | .pfxpin f => some (0x190, .t f)
  | .pfxdel f => some (0x191, .t f)
  | .sysc f => some (0x1B0, .t f)
  | .intr f => some (0x1B1, .t f)
  | .trap f => some (0x1B2, .t f)
  | .eret f => some (0x1B3, .t f)
  | .rdx f => some (0x1B4, .t f)
  | .wrx f => some (0x1B5, .t f)
  | .tlbi f => some (0x1B6, .t f)
  | .time f => some (0x1B7, .t f)
  | .tmark f => some (0x1B8, .t f)
  | .hlt f => some (0x1B9, .t f)
  | .ckpt f => some (0x1BA, .t f)
  | .ifence f => some (0x1BB, .t f)
  | .cctl f => some (0x1BC, .t f)
  | .perf f => some (0x1BD, .t f)
  | .logx f => some (0x1BE, .t f)
  | .spadmap f => some (0x1BF, .t f)
  | .cimw f => some (0x1E0, .t f)
  | .cimr f => some (0x1E1, .t f)
  | .bpl f => some (0x1E2, .t f)
  | .rbld f => some (0x1E3, .t f)
  | .accrd f => some (0x1E4, .t f)
  | .accclr f => some (0x1E5, .t f)
  | .planes f => some (0x1E6, .t f)
  | .dupf f => some (0x1E7, .t f)
  | .delta f => some (0x1E8, .t f)
  | .takew f => some (0x1E9, .t f)
  | .taker f => some (0x1EA, .t f)
  | .beatrd f => some (0x1EB, .t f)
  | .beatwr f => some (0x1EC, .t f)
  | .conv f => some (0x1ED, .t f)
  | .wpset f => some (0x1EE, .t f)
  | .cmpl f => some (0x1EF, .t f)
  | .pktnext f => some (0x1F0, .t f)
  | .scatr f => some (0x1F1, .t f)
  | .map _ _ _ _ => none
  | .decline _ _ => none
  | .valueArrival _ _ => none
  | .symbolPoison _ _ _ => none
  | .waitResume _ _ => none
  | .waittDeadline _ _ => none
  | .sleepTimeout _ _ => none
  | .stealRequest _ => none
  | .stealRetry _ => none
  | .chunkCountPublish _ => none
  | .activationStart _ => none
  | .deposit _ => none
  | .bootCountAdd _ => none
  | .jobStart _ _ => none
  | .rampDown _ => none
  | .burstRampStart _ => none
  | .burstEnd _ => none
  | .takeLookup _ => none
  | .packetTake _ _ _ => none
  | .copy _ _ => none
  | .fill _ _ => none
  | .gatherPacket _ _ => none
  | .gatherRowReturn _ _ _ => none
  | .collPacket _ _ => none
  | .reloc _ _ _ => none
  | .kvgrowComplete _ _ => none
  | .lineageJobEnd _ => none
  | .sauPartial _ _ => none
  | .routerMerge _ _ _ => none
  | .partialArrival _ _ => none
  | .launch _ _ => none
  | .launchStart _ _ => none
  | .launchEnd _ => none
  | .wrsig _ _ => none
  | .wait _ _ => none
  | .barrier _ _ => none
  | .reset _ _ => none
  | .queuePoll _ _ => none
  | .colocationClassify _ _ _ => none
  | .sliceEnd _ _ => none
  | .saveRequest _ _ => none
  | .svcrep _ _ => none
  | .svcrst _ _ => none
  | .attestRequest _ => none
  | .resetNRelease _ _ => none
  | .hbmTrainingEnd _ => none
  | .go _ => none
  | .discoveryDone => none
  | .commit _ => none
  | .ccrel _ => none
  | .measx _ => none
  | .registerWrite _ _ => none
  | .watchdogExpiry _ _ => none
  | .throttleStep _ => none
  | .throttleRaise _ => none
  | .scrubPass _ _ => none
  | .correctableError _ _ => none
  | .uncorrectableError _ => none
  | .fatalError _ _ => none
  | .coreFailed _ _ => none
  | .engineFailed _ _ => none
  | .inboundWrite _ _ _ _ => none
  | .flitReplay _ => none
  | .cxlTimeout _ _ => none
  | .domainAckTimeout _ _ _ => none
  | .latchWrite _ _ _ => none
  | .latchReplay _ => none
  | .halt => none
  | .resume => none
  | .slate => none
  | .slateLatch => none
  | .pcBreakpoint _ _ => none
  | .activationBreakpoint _ => none
  | .sessionOpen _ => none
  | .sessionClose _ => none
  | .checkpoint _ => none
  | .entropyRead _ => none
  | .logInject => none
  | .unassignedOpcode _ => none
  | .l1LineEviction _ _ => none
  | .l2LineEviction _ => none
  | .scratchpadPageMove _ _ _ => none
  | .registerLineEviction _ _ _ => none
  | .resetNAssert => none
  | .peerStoreArrival _ _ _ => none
  | .portDown _ => none
  | .controlCoreStore _ _ _ => none

end Sys2Proof.Machine
end

