-- ==== Sys2Proof/WellFormed.lean ====
section
/-! DEFINITION. Which instruction terms stand for a word: the operand kinds, M bits and values that steps 2 and 3 of
decode accept (04 R81, R82). -/

namespace Sys2Proof

open Sys2Proof.Machine

/-- The fields of format T that an opcode's row accepts. -/
def wfT (r : OpRow) (f : TFields) : Bool :=
  r.kd.contains (kindOf f.d) && r.ka.contains (kindOf f.a) && r.kb.contains (kindOf f.b)
  && f.m &&& ~~~r.named == 0
  && r.checks.all (fun c => c.2 f)
  && operandOk r.dWrites f.d && r.dOk f
  && operandOk false f.a && r.aOk f
  && operandOk false f.b && r.bOk f

/-- The fields of format L that an opcode's row accepts. -/
def wfL (r : OpRowL) (f : LFields) : Bool :=
  r.kd.contains (kindOf f.d) && f.m &&& ~~~r.named == 0 && r.checks.all (fun c => c.2 f)
  && operandOk false f.d && r.immOk f

/-- An instruction term is well formed: its word passes steps 2 and 3 of decode, and it is the row of the table that
its M bits select. An unassigned opcode's word has an unassigned opcode; a step of another agent has no word. -/
def Instr.wf (i : Instr) : Bool :=
  match opFields i with
  | some (op, .t f) => (match rowT? op with | some r => wfT r f | none => false) && formOk i
  | some (op, .l f) => (match rowL? op with | some r => wfL r f | none => false)
  | none => match i with
    | .unassignedOpcode w => !assigned (w.toNat / 2 ^ 87)
    | _ => true

end Sys2Proof
end

