-- ==== Sys2Proof/Decode.lean ====
section
/-! DEFINITION. Instruction words to instructions, with steps 1 to 3 of decode, and back (04 R72 to R83). -/

namespace Sys2Proof

open Sys2Proof.Machine

/-- Why a word is refused: the decode step and the lowest bit of the failing field (04 R83). -/
structure DecErr where
  step : Nat
  fbit : Nat
  deriving DecidableEq, Repr

/-- The kind code of an operand (04 R75). -/
def kindCode : Operand → Nat
  | .none => 0
  | .s _ => 1
  | .v _ => 2
  | .p _ => 3
  | .h _ _ => 4
  | .x _ => 5
  | .imm _ => 6
  | .w _ => 7

/-- The 16-bit VAL of an operand (04 R75). -/
def operandVal : Operand → Nat
  | .none => 0
  | .s n => n.toNat
  | .v n => n.toNat
  | .p n => n.toNat
  | .h n c => n.toNat + 16 * c.toNat
  | .x n => n.toNat
  | .imm x => x.toNat
  | .w e => 2 * e.toNat

/-- The 20-bit field of an operand (04 R75). -/
def operandBits (o : Operand) : BitVec 20 := BitVec.ofNat 20 (kindCode o * 2 ^ 16 + operandVal o)

/-- The kind of a KIND code (04 R75). -/
def rawKind (k : Nat) : Option Kind :=
  match k with
  | 0 => some .none
  | 1 => some .s
  | 2 => some .v
  | 3 => some .p
  | 4 => some .h
  | 5 => some .x
  | 6 => some .i
  | 7 => some .w
  | _ => none

/-- Step 2 for one field: its kind is one that the row accepts (04 R76, R82). -/
def kindAccepted (ks : List Kind) (bits : BitVec 20) : Bool :=
  match rawKind (bits.toNat / 2 ^ 16) with
  | some k => ks.contains k
  | none => false

/-- The VAL bits that the kind does not use are zero, and a pair's index is even (04 R75). -/
def valOk (bits : BitVec 20) : Bool :=
  let v := bits.toNat % 2 ^ 16
  match bits.toNat / 2 ^ 16 with
  | 0 => v == 0
  | 1 => v < 64
  | 2 => v < 32
  | 3 => v < 16
  | 5 => v < 1024
  | 7 => v < 64 && v % 2 == 0
  | _ => true

/-- The operand of a 20-bit field whose kind and value have been checked (04 R75). -/
def operandOf (bits : BitVec 20) : Operand :=
  let v := bits.toNat % 2 ^ 16
  match bits.toNat / 2 ^ 16 with
  | 1 => .s (BitVec.ofNat 6 v)
  | 2 => .v (BitVec.ofNat 5 v)
  | 3 => .p (BitVec.ofNat 4 v)
  | 4 => .h (BitVec.ofNat 4 v) (BitVec.ofNat 12 (v / 16))
  | 5 => .x (BitVec.ofNat 10 v)
  | 6 => .imm (BitVec.ofNat 16 v)
  | 7 => .w (BitVec.ofNat 5 (v / 2))
  | _ => .none

/-- The opcode, bits 95:87 (04 R73). -/
def opOf (w : BitVec 96) : Nat := w.toNat / 2 ^ 87
/-- The guard, bits 86:82 (04 R73). -/
def guardOf (w : BitVec 96) : Guard := ⟨w.getLsbD 86, w.extractLsb' 82 4⟩
/-- Field D, bits 59:40; A, bits 39:20; B, bits 19:0 (04 R73). -/
def fieldD (w : BitVec 96) : BitVec 20 := w.extractLsb' 40 20
def fieldA (w : BitVec 96) : BitVec 20 := w.extractLsb' 20 20
def fieldB (w : BitVec 96) : BitVec 20 := w.extractLsb' 0 20

/-- The fields of a format T word (04 R73). -/
def tFieldsOf (w : BitVec 96) : TFields :=
  { g := guardOf w, h := w.extractLsb' 74 8, m := w.extractLsb' 60 14,
    d := operandOf (fieldD w), a := operandOf (fieldA w), b := operandOf (fieldB w) }

/-- The fields of a format L word (04 R74). -/
def lFieldsOf (w : BitVec 96) : LFields :=
  { g := guardOf w, h := w.extractLsb' 74 8, m := w.extractLsb' 60 14,
    d := operandOf (fieldD w), imm := w.extractLsb' 0 40 }

/-- The error of the first check that fails; each check is true where it passes. -/
def firstErr : List (Nat × Nat × Bool) → Option DecErr
  | [] => none
  | (st, b, ok) :: r => if ok then firstErr r else some ⟨st, b⟩

/-- The checks of a format T word against its row, in the order of 04 R82. -/
def checkT (r : OpRow) (w : BitVec 96) : Option DecErr :=
  let f := tFieldsOf w
  let unnamed := f.m &&& ~~~r.named
  firstErr ([(2, 40, kindAccepted r.kd (fieldD w)), (2, 20, kindAccepted r.ka (fieldA w)),
      (2, 0, kindAccepted r.kb (fieldB w)), (3, 60 + lowestBit unnamed.toNat 14 0, unnamed == 0)]
    ++ r.checks.map (fun c => (3, c.1, c.2 f))
    ++ [(3, 40, valOk (fieldD w) && operandOk r.dWrites f.d && r.dOk f),
      (3, 20, valOk (fieldA w) && operandOk false f.a && r.aOk f),
      (3, 0, valOk (fieldB w) && operandOk false f.b && r.bOk f)])

/-- The checks of a format L word against its row (04 R82). -/
def checkL (r : OpRowL) (w : BitVec 96) : Option DecErr :=
  let f := lFieldsOf w
  let unnamed := f.m &&& ~~~r.named
  firstErr ([(2, 40, kindAccepted r.kd (fieldD w)), (3, 60 + lowestBit unnamed.toNat 14 0, unnamed == 0)]
    ++ r.checks.map (fun c => (3, c.1, c.2 f))
    ++ [(3, 40, valOk (fieldD w) && operandOk false f.d), (3, 0, r.immOk f)])

/-- Decode a word: steps 1 to 3 of 04 R82, without the hart's own set of opcodes (`legalOn`, which step and exec
apply). An unassigned opcode is the row UNASSIGNED_OPCODE, whose meaning traps (04 R88). -/
noncomputable def decode (w : BitVec 96) : Except DecErr Instr :=
  match rowT? (opOf w) with
  | some r =>
    match checkT r w with
    | some e => .error e
    | none => match instrOf (opOf w) (.t (tFieldsOf w)) with
      | some i => .ok i
      | none => .ok (.unassignedOpcode w)
  | none =>
    match rowL? (opOf w) with
    | some r =>
      match checkL r w with
      | some e => .error e
      | none => match instrOf (opOf w) (.l (lFieldsOf w)) with
        | some i => .ok i
        | none => .ok (.unassignedOpcode w)
    | none => .ok (.unassignedOpcode w)

/-- The kinds of hart (04 R85). -/
inductive HartKind where
  | core
  | engine
  | copyUnit
  deriving DecidableEq, Repr

/-- The opcodes that a hart of a kind executes (04 R85). -/
def legalOn (k : HartKind) (op : Nat) : Bool :=
  match k with
  | .core => groupOf op != .K
  | .engine => op < 0x140 && !([0x102, 0x107, 0x122, 0x123].contains op)
      || [0x1B2, 0x1B3, 0x1B7, 0x1B8, 0x1BB, 0x1BD, 0x1BE].contains op
      || [0x1E0, 0x1E1, 0x1E2, 0x1E3, 0x1E4, 0x1E5, 0x1E6, 0x1E7, 0x1E8, 0x1E9, 0x1EA, 0x1EF].contains op
  | .copyUnit => op < 0x140 && !([0x102, 0x107, 0x122, 0x123].contains op)
      || [0x1B2, 0x1B3, 0x1B7, 0x1B8, 0x1BB, 0x1BD, 0x1BE].contains op
      || [0x1EB, 0x1EC, 0x1ED, 0x1EE, 0x1EF, 0x1F0, 0x1F1].contains op

/-- The privileged opcodes: RDX, WRX, TLBI, HLT, CKPT, CCTL (04 R85). -/
def privileged (op : Nat) : Bool := [0x1B4, 0x1B5, 0x1B6, 0x1B9, 0x1BA, 0x1BC].contains op

/-- %eval of a decode trap: word 2 of the instruction, the step and the field's lowest bit (04 R83). -/
def decodeEval (w : BitVec 96) (e : DecErr) : Word :=
  BitVec.ofNat 64 (w.toNat / 2 ^ 64 * 2 ^ 32 + e.step * 2 ^ 8 + e.fbit)

/-- The bits of a word above its operand fields: OP, G, H and M (04 R73). -/
def headBits (op : Nat) (g : Guard) (h : BitVec 8) (m : BitVec 14) : Nat :=
  op * 2 ^ 87 + (if g.neg then 2 ^ 86 else 0) + g.p.toNat * 2 ^ 82 + h.toNat * 2 ^ 74 + m.toNat * 2 ^ 60

/-- The word of format T fields under an opcode (04 R73). -/
def encodeT (op : Nat) (f : TFields) : BitVec 96 :=
  BitVec.ofNat 96 (headBits op f.g f.h f.m + (operandBits f.d).toNat * 2 ^ 40 + (operandBits f.a).toNat * 2 ^ 20
    + (operandBits f.b).toNat)

/-- The word of format L fields under an opcode (04 R74). -/
def encodeL (op : Nat) (f : LFields) : BitVec 96 :=
  BitVec.ofNat 96 (headBits op f.g f.h f.m + (operandBits f.d).toNat * 2 ^ 40 + f.imm.toNat)

/-- The word of an instruction; none for a step of another agent. -/
def encode (i : Instr) : Option (BitVec 96) :=
  match opFields i with
  | some (op, .t f) => some (encodeT op f)
  | some (op, .l f) => some (encodeL op f)
  | none => match i with
    | .unassignedOpcode w => some w
    | _ => none

/-- The instruction that twelve bytes hold, word 0 at the lowest address, each word little-endian (04 R72). -/
noncomputable def decodeBytes (bs : List Byte) : Except DecErr Instr := decode (BitVec.ofNat 96 (ofBytes bs))

/-- What the decoder reads from an instruction whose bits, numbered from the first stored word, are `w`. -/
noncomputable def decodeTableWord (nbits w : Nat) : Option Instr :=
  match decodeBytes (bytesOf 12 (w % 2 ^ nbits)) with
  | .ok i => some i
  | .error _ => none

end Sys2Proof
end

