-- ==== Sys2Proof/Config.lean ====
section
/-! DEFINITION. Values the spec leaves open, as constants without a body: nothing can evaluate them, so a claim
that holds of the model holds whatever they are. -/

namespace Sys2Proof.Config

/-- A fresh open value, applied to the counter `freeCtr` of the state (log entry 2). -/
opaque freeNat : Nat → Nat

/-- For each approximated function and each FP32 input, whether the result that is not exact is the
neighbour of larger magnitude (05 R109: the choice is fixed for each input; log entry 6). -/
opaque faithfulUp : Nat → BitVec 32 → Bool

/-- The SM3 digest, named but not given by the spec (17 R325; log entry 7). -/
opaque sm3 : List Byte → BitVec 256

/-- Whether an SM2 signature verifies: public key, digest, signature (17 R325; log entry 7). -/
opaque sm2Verify : List Byte → BitVec 256 → List Byte → Bool

/-- The SM2 signature (r, s) of the attestation unit over a digest (18 R351; log entry 7). -/
opaque sm2Sign : BitVec 256 → BitVec 256 → BitVec 512

/-- The public key of the device secret (18 R351; log entry 7). -/
opaque sm2PublicKey : BitVec 256 → BitVec 512

/-- The class of the flash error that a boot meets, 0 for none (17 R326; log entry 53). -/
opaque flashError : Nat → Nat

end Sys2Proof.Config
end

