-- ==== Sys2Proof/Machine/Flags.lean ====
section
/-! DEFINITION. Element formats, rounding and the floating-point and saturation flags, to the bit (03 R39 to R66). -/

namespace Sys2Proof.Machine

/-- The six flags: NV, DZ, OF, UF, NX, SAT in bits 0 to 5 (02 R29). -/
abbrev Flags := BitVec 6

def fNV : Flags := 1
def fDZ : Flags := 2
def fOF : Flags := 4
def fUF : Flags := 8
def fNX : Flags := 16
def fSAT : Flags := 32

/-- Rounding modes (03 R44); SR carries the value drawn for the result (R45). -/
inductive Mode where
  | rne | rtz | rdn | rup | rna
  | sr (d : Nat)
  deriving DecidableEq, Repr

/-- XorshiftNext (03 R45). -/
def xorshift (x : BitVec 32) : BitVec 32 :=
  let x := x ^^^ (x <<< 13)
  let x := x ^^^ (x >>> 17)
  x ^^^ (x <<< 5)

/-- A floating-point format: exponent bits, mantissa bits, bias, and whether it has infinity (03 R41). -/
structure FFmt where
  e      : Nat
  m      : Nat
  bias   : Nat
  hasInf : Bool
  deriving DecidableEq, Repr

def fp32 : FFmt := ⟨8, 23, 127, true⟩
def fp16 : FFmt := ⟨5, 10, 15, true⟩
def bf16 : FFmt := ⟨8, 7, 127, true⟩
def e5m2 : FFmt := ⟨5, 2, 15, true⟩
def e4m3 : FFmt := ⟨4, 3, 7, false⟩

/-- The width of a floating-point format. -/
def FFmt.width (f : FFmt) : Nat := f.e + f.m + 1

/-- The canonical NaN (03 R42). -/
def FFmt.canon (f : FFmt) : Nat :=
  if f.hasInf then (2 ^ f.e - 1) * 2 ^ f.m + 2 ^ (f.m - 1) else (2 ^ f.e - 1) * 2 ^ f.m + (2 ^ f.m - 1)

/-- The bits of infinity, for a format that has it. -/
def FFmt.inf (f : FFmt) (neg : Bool) : Nat := (if neg then 2 ^ (f.e + f.m) else 0) + (2 ^ f.e - 1) * 2 ^ f.m

/-- The bits of the largest finite value (03 R41). -/
def FFmt.maxFin (f : FFmt) (neg : Bool) : Nat :=
  (if neg then 2 ^ (f.e + f.m) else 0)
    + (if f.hasInf then (2 ^ f.e - 2) * 2 ^ f.m + (2 ^ f.m - 1) else (2 ^ f.e - 1) * 2 ^ f.m + (2 ^ f.m - 2))

/-- The exact value of an element: NaN, an infinity, or a signed fraction num / den with den > 0. -/
inductive FV where
  | nan (sig : Bool)
  | inf (neg : Bool)
  | fin (neg : Bool) (num den : Nat)
  deriving DecidableEq, Repr

def FV.zero : FV := .fin false 0 1

/-- The value of an integer. -/
def FV.ofInt (x : Int) : FV := .fin (x < 0) x.natAbs 1

/-- num · 2^e as a fraction. -/
def FV.scaled (neg : Bool) (num : Nat) (e : Int) : FV :=
  if 0 ≤ e then .fin neg (num * 2 ^ e.toNat) 1 else .fin neg num (2 ^ (-e).toNat)

/-- Decode floating-point bits (03 R41, R42). -/
def decodeF (f : FFmt) (x : Nat) : FV :=
  let neg := x.testBit (f.e + f.m)
  let ex := bitsOf x (f.e + f.m - 1) f.m
  let man := x % 2 ^ f.m
  if f.hasInf && ex == 2 ^ f.e - 1 then
    if man = 0 then .inf neg else .nan (!man.testBit (f.m - 1))
  else if !f.hasInf && ex == 2 ^ f.e - 1 && man == 2 ^ f.m - 1 then .nan false
  else if ex = 0 then FV.scaled neg man (1 - (f.bias : Int) - f.m)
  else FV.scaled neg (man + 2 ^ f.m) ((ex : Int) - f.bias - f.m)

/-! ### Exact positive reals: a floor oracle -/

/-- A positive real x: the floor of its base-2 logarithm, and for each k the floor of x·2^k with whether that is
exact. -/
structure PReal where
  log2 : Int
  fl   : Int → Nat × Bool

/-- Num / den as a positive real; both are nonzero. -/
def PReal.ofFrac (num den : Nat) : PReal :=
  { log2 :=
      let l := (Nat.log2 num : Int) - Nat.log2 den
      if (if 0 ≤ l then den * 2 ^ l.toNat ≤ num else den ≤ num * 2 ^ (-l).toNat) then l else l - 1
    fl := fun k =>
      let n := if 0 ≤ k then num * 2 ^ k.toNat else num
      let d := if 0 ≤ k then den else den * 2 ^ (-k).toNat
      (n / d, n % d == 0) }

/-- One bit of an integer square root: r·r ≤ n. -/
def isqrtGo (n : Nat) : Nat → Nat → Nat
  | 0, r => r
  | k + 1, r => let c := r + 2 ^ k; isqrtGo n k (if c * c ≤ n then c else r)

/-- The integer square root. -/
def isqrt (n : Nat) : Nat := isqrtGo n (Nat.log2 n / 2 + 1) 0

/-- The square root of num / den. -/
def PReal.sqrt (num den : Nat) : PReal :=
  { log2 := (PReal.ofFrac num den).log2 / 2
    fl := fun k =>
      let (n, ex) := (PReal.ofFrac num den).fl (2 * k)
      let r := isqrt n
      (r, ex && r * r == n) }

/-! ### Rounding (03 R44 to R47) -/

/-- A result and the flags that it raises. -/
structure Rd where
  bits : Nat
  fl   : Flags
  deriving DecidableEq, Repr

/-- Whether the magnitude x, between n and n + 1 units of 2^q, rounds up (03 R44, R45). `exact` says x is n units. -/
def roundsUp (mode : Mode) (neg : Bool) (x : PReal) (q : Int) (n : Nat) (exact : Bool) : Bool :=
  if exact then false
  else match mode with
    | .rne => let (h, ex) := x.fl (1 - q); h % 2 == 1 && (!ex || n % 2 == 1)
    | .rtz => false
    | .rdn => neg
    | .rup => !neg
    | .rna => (x.fl (1 - q)).1 % 2 == 1
    | .sr d => d < (x.fl (32 - q)).1 - n * 2 ^ 32

/-- The magnitude x in units of 2^q, rounded, and whether it was inexact. -/
def roundUnits (mode : Mode) (neg : Bool) (x : PReal) (q : Int) : Nat × Bool :=
  let (n, ex) := x.fl (-q)
  (if roundsUp mode neg x q n ex then n + 1 else n, !ex)

/-- A nonzero result rounded into a floating-point format (03 R44 to R47). -/
def roundF (f : FFmt) (mode : Mode) (neg : Bool) (x : PReal) : Rd :=
  let emin : Int := 1 - (f.bias : Int)
  let q := max x.log2 emin - f.m
  let (n, inexact) := roundUnits mode neg x q
  let q' := if n = 2 ^ (f.m + 1) then q + 1 else q
  let n' := if n = 2 ^ (f.m + 1) then 2 ^ f.m else n
  let be : Nat := if n' < 2 ^ f.m then 0 else (q' + f.m + f.bias).toNat
  let man := if n' < 2 ^ f.m then n' else n' - 2 ^ f.m
  let sign := if neg then 2 ^ (f.e + f.m) else 0
  let big := if f.hasInf then 2 ^ f.e - 1 ≤ be else 2 ^ f.e - 1 < be ∨ (be = 2 ^ f.e - 1 ∧ man = 2 ^ f.m - 1)
  if big then
    if f.hasInf then
      let toMax := match mode with | .rtz => true | .rdn => !neg | .rup => neg | _ => false
      ⟨if toMax then f.maxFin neg else f.inf neg, fOF ||| fNX⟩
    else ⟨f.maxFin neg, fOF ||| fNX ||| fSAT⟩
  else
    let (u, _) := roundUnits mode neg x (x.log2 - f.m)
    let tiny := x.log2 < emin - 1 || (x.log2 == emin - 1 && u != 2 ^ (f.m + 1))
    ⟨sign + be * 2 ^ f.m + man, if inexact then (if tiny then fNX ||| fUF else fNX) else 0⟩

/-- An exact value encoded into a floating-point format (03 R42, R46, R49). -/
def encodeF (f : FFmt) (mode : Mode) : FV → Rd
  | .nan sig => ⟨f.canon, if sig then fNV else 0⟩
  | .inf neg => if f.hasInf then ⟨f.inf neg, 0⟩ else ⟨f.maxFin neg, fSAT⟩
  | .fin neg num den =>
    if num = 0 then ⟨if neg then 2 ^ (f.e + f.m) else 0, 0⟩ else roundF f mode neg (PReal.ofFrac num den)

/-- Some operand is a signalling NaN: NV (03 R42). -/
def sigNaN : List FV → Bool
  | [] => false
  | .nan true :: _ => true
  | _ :: r => sigNaN r

def isNaN : FV → Bool
  | .nan _ => true
  | _ => false

def isZero : FV → Bool
  | .fin _ 0 _ => true
  | _ => false

def signOf : FV → Bool
  | .nan _ => false
  | .inf n => n
  | .fin n _ _ => n

/-- The value with its sign inverted. -/
def negV : FV → FV
  | .nan s => .nan s
  | .inf n => .inf (!n)
  | .fin n a b => .fin (!n) a b

/-- The signed numerator over a common denominator. -/
def signedNum (neg : Bool) (n : Nat) : Int := if neg then -(n : Int) else n

/-- The exact sum; none for an invalid one (∞ − ∞). An exact zero of opposite signs is +0, and −0 under RDN
(03 R43). -/
def addV (rdn : Bool) : FV → FV → Option FV
  | .nan _, _ => some (.nan false)
  | _, .nan _ => some (.nan false)
  | .inf a, .inf b => if a = b then some (.inf a) else none
  | .inf a, _ => some (.inf a)
  | _, .inf b => some (.inf b)
  | .fin a n d, .fin b m c =>
    let t := signedNum a (n * c) + signedNum b (m * d)
    if t = 0 then some (.fin (if n = 0 ∧ m = 0 then (if a = b then a else rdn) else rdn) 0 1)
    else some (.fin (t < 0) t.natAbs (d * c))

/-- The exact product; none for 0 × ∞. -/
def mulV : FV → FV → Option FV
  | .nan _, _ => some (.nan false)
  | _, .nan _ => some (.nan false)
  | .inf a, .inf b => some (.inf (a != b))
  | .inf a, .fin b m _ => if m = 0 then none else some (.inf (a != b))
  | .fin a n _, .inf b => if n = 0 then none else some (.inf (a != b))
  | .fin a n d, .fin b m c => some (.fin (a != b) (n * m) (d * c))

def isRdn : Mode → Bool
  | .rdn => true
  | _ => false

/-- Finish a computing operation on operands: an invalid result or a signalling NaN raises NV alone (03 R42, R47). -/
def finish (f : FFmt) (mode : Mode) (ops : List FV) (v : Option FV) : Rd :=
  match v with
  | none => ⟨f.canon, fNV⟩
  | some x => if ops.any isNaN then ⟨f.canon, if sigNaN ops then fNV else 0⟩ else encodeF f mode x

def addF (f : FFmt) (mode : Mode) (a b : FV) : Rd := finish f mode [a, b] (addV (isRdn mode) a b)
def subF (f : FFmt) (mode : Mode) (a b : FV) : Rd := finish f mode [a, b] (addV (isRdn mode) a (negV b))
def mulF (f : FFmt) (mode : Mode) (a b : FV) : Rd := finish f mode [a, b] (mulV a b)

/-- a·b + c, rounded once (03 R61). 0 × ∞ is invalid also when c is a NaN. -/
def fmaF (f : FFmt) (mode : Mode) (a b c : FV) : Rd :=
  match mulV a b with
  | none => ⟨f.canon, fNV⟩
  | some p => finish f mode [a, b, c] (addV (isRdn mode) p c)

/-- a / b (05 R105). -/
def divF (f : FFmt) (mode : Mode) (a b : FV) : Rd :=
  match a, b with
  | .inf _, .inf _ => ⟨f.canon, fNV⟩
  | .inf x, .fin y _ _ => encodeF f mode (.inf (x != y))
  | .fin x _ _, .inf y => encodeF f mode (.fin (x != y) 0 1)
  | .fin x n d, .fin y m c =>
    if m = 0 then (if n = 0 then ⟨f.canon, fNV⟩ else
      let r := encodeF f mode (.inf (x != y)); ⟨r.bits, r.fl ||| fDZ⟩)
    else encodeF f mode (.fin (x != y) (n * c) (d * m))
  | _, _ => finish f mode [a, b] (some (.nan false))

/-- The square root (05 R105). -/
def sqrtF (f : FFmt) (mode : Mode) : FV → Rd
  | .nan s => ⟨f.canon, if s then fNV else 0⟩
  | .inf neg => if neg then ⟨f.canon, fNV⟩ else encodeF f mode (.inf false)
  | .fin neg n d =>
    if n = 0 then encodeF f mode (.fin neg 0 1)
    else if neg then ⟨f.canon, fNV⟩ else roundF f mode false (PReal.sqrt n d)

/-- Order of two values; none when unordered. −0 equals +0. -/
def cmpV : FV → FV → Option Ordering
  | .nan _, _ => none
  | _, .nan _ => none
  | .inf a, .inf b => some (if a = b then .eq else if a then .lt else .gt)
  | .inf a, .fin _ _ _ => some (if a then .lt else .gt)
  | .fin _ _ _, .inf b => some (if b then .gt else .lt)
  | .fin a n d, .fin b m c => some (compare (signedNum a (n * c)) (signedNum b (m * d)))

/-- A value rounded to an integer, and whether it was inexact; the value is finite. -/
def roundInt (mode : Mode) (neg : Bool) (num den : Nat) : Int × Bool :=
  if num = 0 then (0, false)
  else
    let (n, ix) := roundUnits mode neg (PReal.ofFrac num den) 0
    (signedNum neg n, ix)

/-- A float converted to an integer of w bits (03 R49). -/
def toInt (lo hi : Int) (w : Nat) (mode : Mode) (v : FV) : Rd :=
  let enc (x : Int) : Nat := (x % (2 ^ w : Nat)).toNat
  match v with
  | .nan _ => ⟨0, fNV⟩
  | .inf neg => ⟨enc (if neg then lo else hi), fNV ||| fSAT⟩
  | .fin neg num den =>
    let (q, ix) := roundInt mode neg num den
    if q < lo then ⟨enc lo, fNV ||| fSAT⟩
    else if hi < q then ⟨enc hi, fNV ||| fSAT⟩
    else ⟨enc q, if ix then fNX else 0⟩

/-- A value converted to INT4: clamped with SAT and no NX, UF where a nonzero value becomes zero (03 R47, R49). -/
def toInt4 (mode : Mode) (v : FV) : Rd :=
  let enc (x : Int) : Nat := (x % 16).toNat
  match v with
  | .nan _ => ⟨0, fNV⟩
  | .inf neg => ⟨enc (if neg then -8 else 7), fSAT⟩
  | .fin neg num den =>
    let (q, ix) := roundInt mode neg num den
    if q < -8 then ⟨enc (-8), fSAT⟩
    else if 7 < q then ⟨enc 7, fSAT⟩
    else ⟨enc q, (if ix then fNX else 0) ||| (if q = 0 ∧ num ≠ 0 then fUF else 0)⟩

/-- Clamp an exact integer to a range: SAT when it clamps (03 R48). -/
def clampInt (lo hi x : Int) : Int × Flags := if x < lo then (lo, fSAT) else if hi < x then (hi, fSAT) else (x, 0)

/-- The range of a w-bit integer. -/
def intLo (signed : Bool) (w : Nat) : Int := if signed then -(2 ^ (w - 1) : Nat) else 0
def intHi (signed : Bool) (w : Nat) : Int := if signed then (2 ^ (w - 1) : Nat) - 1 else (2 ^ w : Nat) - 1

/-- An integer narrowed to w bits: wrapped, or clamped with SAT (03 R48, R49). -/
def narrow (signed sat : Bool) (w : Nat) (x : Int) : Rd :=
  if sat then
    let (y, fl) := clampInt (intLo signed w) (intHi signed w) x
    ⟨(y % (2 ^ w : Nat)).toNat, fl⟩
  else ⟨(x % (2 ^ w : Nat)).toNat, 0⟩

/-! ### Formats by FMT code (03 R50) -/

/-- The element width of a FMT code, in bits; RAW and KV4 elements are bytes. -/
def fmtBits (c : Nat) : Nat :=
  if c = 3 ∨ c = 8 ∨ c = 9 then 16 else if c = 4 ∨ c = 10 then 32 else if c = 5 then 64
  else if c = 12 ∨ c = 14 then 4 else 8

/-- The floating-point format of a FMT code. -/
def fmtFloat (c : Nat) : Option FFmt :=
  if c = 6 then some e4m3 else if c = 7 then some e5m2 else if c = 8 then some bf16
  else if c = 9 then some fp16 else if c = 10 then some fp32 else none

/-- A FMT code that any access refuses (03 R50). -/
def fmtReserved (c : Nat) : Bool := c == 11 || 15 ≤ c

/-- The exact value of an element that is not BS4 or KV4 (03 R39, R41). -/
def decodeElem (c x : Nat) : FV :=
  match fmtFloat c with
  | some f => decodeF f x
  | none => if c = 2 then FV.ofInt (x % 256 : Nat) else FV.ofInt (sext x (fmtBits c))

/-- Encode an exact value into a format that is not BS4, KV4 or RAW. `isInt` says that the value is an integer
format's, which narrows by wrapping or saturation (03 R49). -/
def encodeElem (c : Nat) (mode : Mode) (sat isInt : Bool) (v : FV) : Rd :=
  match fmtFloat c with
  | some f => encodeF f mode v
  | none =>
    let w := fmtBits c
    let signed := c != 2
    if c = 14 then toInt4 mode v
    else match isInt, v with
      | true, .fin neg num den => narrow signed sat w (signedNum neg (num / den))
      | _, _ => toInt (intLo signed w) (intHi signed w) w mode v

/-- A conversion from a format takes part in the draws of SR: it rounds, where a wider float holds every value of a
narrower one, FP32 every BS4, KV4 and INT4 value, and an integer lane narrows an integer without rounding (03 R45, R49). -/
def drawsFor (c : Nat) (dst : Option FFmt) : Bool :=
  match dst with
  | none => (fmtFloat c).isSome || c == 12
  | some f =>
    match fmtFloat c with
    | some g => f.width ≤ g.width
    | none => if c = 12 ∨ c = 13 ∨ c = 14 then f.width < 32 else true

/-! ### BS4 codes (03 R51 to R54) -/

/-- The magnitude of code c, 0 to 7, of a type, in half units (03 R52). -/
def bs4Mag (t c : Nat) : Nat :=
  if t = 0 then 2 * c
  else if t = 1 then [0, 1, 2, 3, 4, 6, 8, 12].getD c 0
  else if t = 2 then [0, 2, 4, 8, 16, 32, 64, 128].getD c 0
  else [0, 2, 4, 6, 8, 12, 16, 24].getD c 0

/-- The value of a code at factor 1, in half units, and its sign (03 R52). -/
def bs4Half (t c : Nat) : Bool × Nat :=
  if c < 8 then (false, bs4Mag t c)
  else if t = 0 then (true, 2 * (16 - c))
  else (true, bs4Mag t (c - 8))

/-- DecodeBS4: none marks an invalid block, which raises SAT (03 R53). -/
def decodeBS4 (code sb : Nat) : Option FV :=
  let e := sb % 64
  if e = 63 then none
  else
    let (neg, h) := bs4Half (sb / 64) code
    some (FV.scaled neg h ((e : Int) - 33))

/-- Q of a type, in half units (03 R54). -/
def bs4Q (t : Nat) : Nat := if t = 0 then 14 else if t = 1 then 12 else if t = 2 then 128 else 24

/-- |num/den| ≤ h half units at exponent e. -/
def leHalf (num den h : Nat) (e : Int) : Bool :=
  let k := e - 33
  if 0 ≤ k then num ≤ h * 2 ^ k.toNat * den else num * 2 ^ (-k).toNat ≤ h * den

/-- The largest code magnitude index, counting up to 7, whose value is at most num/den half units. -/
def bs4Below (t num den : Nat) : Nat → Nat
  | 0 => 0
  | c + 1 => if bs4Mag t (c + 1) * den ≤ num then c + 1 else bs4Below t num den c

/-- The code of the magnitude num/den (in half units) rounded to the type's grid (03 R44, R45, R54). -/
def bs4Round (t : Nat) (mode : Mode) (neg : Bool) (num den : Nat) : Nat × Bool :=
  let c := bs4Below t num den 7
  let lo := bs4Mag t c
  if lo * den = num then (c, true)
  else
    let hi := bs4Mag t (c + 1)
    let up := match mode with
      | .rne => (lo + hi) * den < 2 * num || ((lo + hi) * den == 2 * num && c % 2 == 1)
      | .rtz => false
      | .rdn => neg
      | .rup => !neg
      | .rna => (lo + hi) * den ≤ 2 * num
      | .sr d => d < (num - lo * den) * 2 ^ 32 / ((hi - lo) * den)
    (if up then c + 1 else c, false)

/-- The code with magnitude index c and a sign; type 0 has no negative zero and uses two's complement (03 R54). -/
def bs4Code (t : Nat) (neg : Bool) (c : Nat) : Nat :=
  if neg then (if t = 0 then (if c = 0 then 0 else 16 - c) else 8 + c) else c

/-- The least scale exponent that holds every magnitude, counting from e (03 R54). -/
def bs4Exp (t : Nat) (xs : List (Nat × Nat)) : Nat → Nat → Nat
  | 0, e => e
  | n + 1, e => if xs.all (fun x => leHalf x.1 x.2 (bs4Q t) e) then e else bs4Exp t xs n (e + 1)

/-- One element of a BS4 block at scale exponent e; a clamped one differs from the exact value, so it raises NX too
(03 R47, R54). -/
def bs4Elem (t : Nat) (e : Nat) (mode : Mode) : FV → Rd
  | .nan _ => ⟨0, 0⟩
  | .inf neg => ⟨bs4Code t neg 7, fSAT ||| fOF ||| fNX⟩
  | .fin neg num den =>
    let k : Int := 33 - (e : Int)
    let n := if 0 ≤ k then num * 2 ^ k.toNat else num
    let d := if 0 ≤ k then den else den * 2 ^ (-k).toNat
    if bs4Q t * d < n then ⟨bs4Code t neg 7, fSAT ||| fOF ||| fNX⟩
    else
      let (c, ex) := bs4Round t mode neg n d
      ⟨bs4Code t neg c, (if ex then 0 else fNX) ||| (if c = 0 ∧ num ≠ 0 then fUF else 0)⟩

/-- EncodeBS4Block: the scale byte, the codes and the flags; `modes` gives each element its mode, with its draw under
SR (03 R54). -/
def encodeBS4 (t : Nat) (modes : List Mode) (xs : List FV) : Nat × List Nat × Flags :=
  if xs.any isNaN then (t * 64 + 63, xs.map (fun _ => 0), fNV)
  else
    let mags := xs.map (fun x => match x with | .fin _ n d => (n, d) | _ => (2 ^ 200, 1))
    let e := bs4Exp t mags 62 0
    let rs := (xs.zip modes).map (fun p => bs4Elem t e p.2 p.1)
    (t * 64 + e, rs.map (·.bits), rs.foldl (fun f r => f ||| r.fl) 0)

end Sys2Proof.Machine
end

