-- ==== Sys2Proof/Machine/State.lean ====
section
/-! DEFINITION. The state of the package as plain data, the reasons a step can stop, and the state after reset. -/

namespace Sys2Proof.Machine

/-- Run states (02 R36). -/
inductive RunState where
  | free | ready | running | waitLate | waitChannel | waitJob | waitAcq | waitTime
  deriving DecidableEq, Repr

/-- A hart (04 R85). An engine has a hart context for the running job of each of its eight queues, and a copy unit
one for each of its eight channels, and channel 8 for lineage jobs (12 R244, R251, R255). -/
inductive HartId where
  | core (c t : Nat)
  | me (octet queue : Nat)
  | cu (octet chan : Nat)
  deriving DecidableEq, Repr

/-- A recorded floating-point step of a late register: op, mode, M field and constant (02 R37, 11 R236). -/
structure LateStep where
  op   : Nat
  mode : Nat
  m    : BitVec 14
  c    : Word
  deriving DecidableEq, Repr

/-- A late register: its symbol and its transform, an integer pair (K = 0) or up to three floating-point steps (K = 1)
(02 R33, R37). -/
structure Late where
  sym   : Nat
  a     : Word
  b     : Word
  steps : List LateStep
  k     : Bool
  deriving DecidableEq, Repr

/-- A hart's registers (02 R24 to R37). `late` is keyed by scalar index, or 64 + vector index. -/
structure Ctx where
  s       : SMap Word
  v       : SMap Vec
  p       : SMap Pred
  late    : SMap (Option Late)
  handles : SMap (Option Nat)
  fmt     : BitVec 6
  rm      : BitVec 3
  flags   : BitVec 6
  srseed  : BitVec 32
  frame   : Word
  joinc   : Word
  policy  : BitVec 4
  lo      : Word
  hi      : Word
  launch  : Word
  tvec    : Word
  cause   : BitVec 8
  epc     : Word
  eval    : Word
  pc      : Word
  run     : RunState
  low     : Bool
  halted  : Bool
  wake    : Bool
  quota   : BitVec 8
  waitObj : Word
  waitCnt : Word
  deriving DecidableEq, Repr

/-- A continuation record (09 R200). -/
structure Record where
  code   : Word
  frame  : Word
  joinc  : Word
  lo     : Word
  hi     : Word
  grain  : Word
  parent : Word
  dom    : Nat
  low    : Bool
  range  : Bool
  bud    : Nat
  pol    : Nat
  launch : Option Nat      -- the launch whose record it is; none in the boot context
  addr   : Nat             -- its address in the spill area; 0 in the hardware deque
  deriving DecidableEq, Repr

/-- A route-tagged packet (07 R158). -/
structure Packet where
  ten     : Nat
  src     : Nat             -- source logical core
  srcThr  : Nat
  dst     : Nat             -- logical core, or position with phys
  tag     : Nat
  phys    : Bool
  payload : List Byte
  launch  : Option Nat
  past    : Bool           -- an activation breakpoint has matched it (20 R368)
  num     : Nat            -- its place among its source thread's packets (20 R377)
  deriving DecidableEq, Repr

/-- What a unit of work started from (09 R212; 07 R157). -/
inductive Start where
  | none
  | record (r : Record) (lo hi : Word)
  | activation (pk : Packet) (pc : Word) (pol bud : Nat) (low : Bool)
  | join (pc frame joinc : Word) (pol bud : Nat) (low : Bool)
  | boot (pc : Word)
  deriving DecidableEq, Repr

/-- The parent unit that an inline child suspends (07 R156). -/
structure Inline where
  ctx   : Ctx
  start : Start
  ctr   : SMap Word
  deriving DecidableEq, Repr

/-- What an access is for, as a page-fault record says (14 R292). -/
inductive Access where
  | read | write | fetch | atomic
  deriving DecidableEq, Repr

/-- The walk of containment over the frames: the next block, whether it kills, the action so far, the frames killed, and
the blocks whose COUNT was 0 (09 R212). -/
structure FailWalk where
  block  : Nat
  kill   : Bool
  act    : Nat
  frames : List Nat
  zeros  : List Nat
  deriving DecidableEq, Repr

/-- A trap whose containment is still to be completed (09 R215): whether it may be ignored, the destinations of its
instruction, and the walk, once it is under way. -/
structure Pend where
  cause : Nat
  ign   : Bool
  dests : List Operand
  walk  : Option FailWalk
  deriving DecidableEq, Repr

/-- A hardware thread of a tenant's context on a core. -/
structure Thread where
  ctx     : Ctx
  start   : Start
  ctr     : SMap Word
  inl     : Option Inline
  stamp   : Nat
  sys     : Bool
  launch  : Option Nat
  stall   : Bool
  waiting : Option (Nat × TFields)      -- opcode and fields of the instruction that waits
  saved   : Bool           -- its image has been saved while it is out (14 R294)
  skip    : Bool           -- a PC comparator has matched its next issue (20 R367)
  due     : Bool           -- a WATCHDOG trap reaches it when it next runs (19 R360)
  pend    : Option Pend
  deriving DecidableEq, Repr

/-- The conversion that a late load's data takes when it arrives (07 R155). -/
inductive Conv where
  | raw
  | scalar (fmt : Nat) (rm : Nat)
  | vector (fmt : Nat) (lfmt : BitVec 6) (mode : Nat) (sat : Bool) (scales : List Nat)
  deriving DecidableEq, Repr

/-- Where a symbol's value comes from (11 R240). -/
inductive Source where
  | load (bits : Nat) (conv : Conv) (fault : Nat)      -- the bits read at the program point; the cause of a late fault, or 0
  | slots (chan : Nat) (first k : Nat)                 -- RCVL's claim
  | job (id : Nat)
  | service (cl : Nat) (seq : Nat)
  | device (port : Nat)
  deriving DecidableEq, Repr

/-- The state of a symbol (11 R233). -/
inductive SymState where
  | pending
  | value (x : Nat)
  | poison (cause : Nat)
  deriving DecidableEq, Repr

/-- A symbol table entry (11 R233). -/
structure Sym where
  ten    : Nat
  thread : Nat
  vec    : Bool
  state  : SymState
  src    : Source
  deriving DecidableEq, Repr

/-- A tag table entry (09 R204). -/
structure Tag where
  v      : Bool
  deposit : Bool
  pol    : Nat
  bud    : Nat
  low    : Bool
  target : Word
  deriving DecidableEq, Repr

/-- A channel descriptor (09 R206). -/
structure Chan where
  v    : Bool
  ten  : Nat
  lcnt : Nat
  lsz  : Nat
  base : Nat
  wp   : BitVec 32
  rp   : BitVec 32
  clm  : BitVec 32
  deriving DecidableEq, Repr

/-- A binding (07 R150). -/
structure Binding where
  thread    : Nat
  obj       : Nat
  base      : Nat
  len       : Nat
  suspended : Bool
  deriving DecidableEq, Repr

/-- The core's record of a job id (07 R162). -/
structure JobRec where
  id    : Nat
  state : Nat
  cause : Nat
  deriving DecidableEq, Repr

/-- The steal walk of an idle core (09 R198). -/
structure Walk where
  tried : List Nat
  until_ : Nat
  deriving DecidableEq, Repr

/-- A core (09, 20). -/
structure Core where
  tenant    : Nat
  jobCtr    : Nat
  jobs      : List JobRec
  starvedS  : Nat
  starvedV  : Nat
  walk      : Walk
  sent      : BitVec 32
  received  : BitVec 32
  ctr       : SMap Word
  halted    : Bool
  haltCause : Nat
  bootCount : Nat
  bootAdded : Bool
  failed    : Bool
  cycle0    : Nat
  deriving DecidableEq, Repr

/-- An L1 word that is valid (10 R219). -/
structure L1Word where
  value  : Word
  dirty  : Bool
  own    : Bool
  poison : Bool
  ten    : Nat
  deriving DecidableEq, Repr

/-- A cached translation: the leaf and its level (14 R289, R291). -/
structure TlbVal where
  pte : Word
  lvl : Nat
  deriving DecidableEq, Repr

/-- Who waits for a page-fault answer (14 R292; 09 R202). -/
inductive Requester where
  | hart (h : HartId)
  | pop (core thread : Nat)
  | split (victim thief : Nat)
  | mailbox (octet queue : Nat)
  | record (octet chan : Nat)      -- the completion record of a copy packet (12 R259)
  deriving DecidableEq, Repr

/-- A page-fault record (14 R292); `PageFault.bytes` gives its 32 bytes. -/
structure PageFault where
  va   : Nat
  ten  : Nat
  acc  : Access
  who  : Requester
  deriving DecidableEq, Repr

/-- A valid entry of a die's take directory (15 R298). -/
structure TakeDir where
  ten    : Nat
  layer  : Nat
  stamp  : BitVec 32
  units  : Nat
  offset : Nat
  deriving DecidableEq, Repr

/-- A matrix engine job under way: what it has read before its first tile step, and how far its tile steps have come
(12 R248, R251). -/
structure Prog where
  map    : List Nat                    -- its duplication map
  fmt    : Nat                         -- format and geometry of A
  geom   : Nat
  kb     : Nat                         -- K blocks per row, the twins' included
  kids   : List Nat                    -- the descendants of a MELIN
  q      : List (List (List Int))      -- A of an MEDL as quantised, row by row and block by block
  scales : List Nat                    -- the scales of an MEDL
  take   : Option (Nat × TakeDir)      -- the directory index and the place of the take that an MEDL updates or makes
  pos    : Nat                         -- tile steps done or skipped
  acc    : List Nat                    -- accumulators of the elements under way
  ys     : SMap Nat                    -- the elements of an MEDL's Y
  spent  : SMap Nat                    -- planes spent by each macro
  deriving DecidableEq, Repr

/-- A matrix engine job (12 R249; 08 R174). -/
structure Job where
  packet  : List Byte
  id      : Nat
  ten     : Nat
  core    : Nat
  thread  : Nat
  launch  : Option Nat
  running : Bool
  micro   : Bool
  waitTake : Bool
  cyc     : Nat
  path    : Bool           -- the delta path was taken
  done    : Bool           -- its entry is free: the mailbox is written, or the failure recorded
  ending  : Option Nat     -- the cause with which it ends, while its mailbox write waits for a page
  prog    : Option Prog    -- its tile steps, where the engine performs them without a trace of its microcode
  deriving DecidableEq, Repr

/-- The tag of a resident tile (12 R246). -/
structure TileTag where
  ten  : Nat
  node : Nat
  ver  : Nat
  k    : Nat
  n    : Nat
  kb   : Nat
  nb   : Nat
  deriving DecidableEq, Repr

/-- A compute-in-memory tile: code type, 32 rows of 32 four-bit cells (row k, column n at nibble 32k + n), the scale bytes of
the BS4 blocks that it holds (of rows 16h to 16h + 15 of column n at 32h + n), tag and last use (08 R192, 12 R246). -/
structure Tile where
  typ   : Nat
  cells : Nat
  scales : List Nat
  tag   : Option TileTag
  used  : Nat
  deriving DecidableEq, Repr

/-- The plane register: the 32 values of the current block, whether the block is not a number, its format and its
index in the row buffer, and the B rows that twin positions read (08 R192, R193; 03 R64 to R66). -/
structure Planes where
  vals  : List Int
  nan   : Bool
  fmt   : Nat
  block : Nat
  redir : List (Nat × Nat)
  deriving DecidableEq, Repr

/-- An exact block sum in half units, and whether it is not a number (08 R193). -/
structure BankSum where
  num : Int
  nan : Bool
  deriving DecidableEq, Repr

/-- A copy packet in progress on a channel (12 R255 to R260). -/
structure CuRun where
  packet : List Byte
  queue  : Nat
  qaddr  : Nat
  seq    : Nat
  ten    : Nat
  micro  : Bool
  rows   : List (Nat × Nat)   -- gather rows still to return: position and address
  next   : Nat             -- list positions that the streamer has read
  oor    : Nat
  bytes  : Nat
  sats   : Nat
  fills  : Nat
  fault  : Option (Nat × Nat)   -- cause and address of the first fault
  abort  : Bool
  done   : Bool            -- its completion record is written
  ending : Option Nat      -- the status with which it ends, while its record's write waits for a page
  deriving DecidableEq, Repr

/-- A lineage job of a copy unit (08 R168 to R170, 13 R271 to R273). -/
structure LnJob where
  kind   : Nat              -- 1 LNFORK.AF, 2 LNFLAT, 3 LNDROP.FOLD, 4 LNREBASE.CHK
  ten    : Nat
  octet  : Nat
  node   : Nat              -- the source, the node flattened or folded, the child rebased
  other  : Nat              -- the child created, the old parent, the new parent
  thread : Nat
  core   : Nat
  thresh : BitVec 32
  serial : Nat              -- names the job to the thread that waits for it
  held   : List Nat         -- the nodes that it holds
  kept   : List Nat         -- the granules that it has reserved
  ended  : Option (Nat × Nat)   -- cause and result, once it has ended and until its thread takes them
  deriving DecidableEq, Repr

/-- A ramp declaration and the engine's ramp state (12 R254). -/
structure Ramp where
  start : Nat
  stop  : Nat
  on    : Bool
  declared : Bool
  stepped : Bool           -- a tile step has run since the declaration
  deriving DecidableEq, Repr

/-- An octet's engine and copy unit (12). -/
structure Octet where
  queues   : SMap (List Job)
  wrr      : Nat              -- the queue whose turn it is, the tile steps left to it, and the weights of the round (12 R251)
  credit   : Nat
  round    : BitVec 32
  mewt     : BitVec 32
  tiles    : SMap (Option Tile)
  rowbuf   : SMap Byte
  planes   : Planes
  banks    : SMap BankSum
  wp       : SMap Word
  wpDests  : SMap (List (Nat × Nat × Nat))   -- destinations of the packets that moved a pointer: tenant, address, length (10 R226)
  chans    : SMap (Option CuRun)
  cuTurn   : SMap Nat         -- the queue that each channel served last (12 R255)
  meCtx    : SMap Ctx
  cuCtx    : SMap Ctx
  ramp     : Ramp
  halted   : Bool
  meFailed : Bool
  cuFailed : Bool
  ctr      : SMap Word
  deriving DecidableEq, Repr

/-- BUSY of a layer: the engine queue whose job is between its lookup and its end (15 R298, R307). -/
structure TakeBusy where
  ten   : Nat
  layer : Nat
  octet : Nat
  queue : Nat
  deriving DecidableEq, Repr

/-- A transom pair of a die (16 R314). -/
structure Transom where
  ten  : Nat
  seq  : Nat
  old  : Nat
  new  : Nat
  mark : Nat
  die  : Nat
  pair : Nat
  base : Nat               -- WPB of its relocation packet, once taken
  deriving DecidableEq, Repr

/-- A running launch (14 R283 to R288). -/
structure Launch where
  ten     : Nat
  cl      : Nat
  queue   : Nat            -- physical address of its queue descriptor
  seq     : Nat
  desc    : Word
  entry   : Word
  lo      : Word
  hi      : Word
  grain   : Word
  dom     : Nat
  low     : Bool
  sys     : Bool
  fuse    : Bool
  acq     : Bool
  coloc   : Bool
  policy  : BitVec 4
  slice   : Nat
  frame   : Word
  compl   : Word
  sink    : Word
  faultRing : Word
  logRing : Word
  mask    : Nat
  hmap    : List Byte
  buffers : List (Nat × Bool × Bool)
  chanList : List Word
  root    : Word
  started : Bool
  startAt : Nat
  classed : Bool           -- the classifier has judged it (14 R288)
  busy0   : Nat            -- busy ACLK of its octets' engines when it started (14 R288)
  failed  : Option (Nat × Nat × Nat × Nat × Nat)   -- cause, core, thread, %epc, %eval of the unit that ended it
  status  : Nat
  deriving DecidableEq, Repr

/-- A command queue attached to a command processor (14 R280, R281). -/
structure CpQueue where
  desc    : Nat             -- physical address of the descriptor
  wi      : Nat             -- WI as last read (14 R280)
  step    : Nat             -- 0 no packet is between its steps, 1 a WRSIG is to send its signal, 2 a WAIT, 3 a BARRIER or 4 a RESET waits
  packet  : List Byte       -- that packet
  seq     : Nat             -- its sequence
  place   : Nat             -- where co-location puts its next launch: 0 anywhere, 1 + 2·cluster + half (14 R288)
  cls     : Nat             -- 0 neither, 1 compute-bound, 2 memory-bound (14 R288)
  deriving DecidableEq, Repr

/-- A hazard table entry (14 R287). -/
structure Hazard where
  buf     : Nat
  writer  : Option Nat
  readers : List Nat
  written : Bool
  deriving DecidableEq, Repr

/-- A tenant that has been admitted (14 R277, R278). -/
structure Tenant where
  desc  : Nat
  grant : Nat
  deriving DecidableEq, Repr

/-- A service request that waits for its reply (18 R342). -/
structure Service where
  cl   : Nat
  seq  : Nat
  core : Nat
  thread : Nat
  sym  : Nat
  ten  : Nat
  deriving DecidableEq, Repr

/-- A partial or merged attention triple (08 R183). -/
structure Triple where
  o     : List Nat
  m     : Nat
  l     : Nat
  cnt   : Nat
  cause : Nat
  deriving DecidableEq, Repr

/-- An attention request in flight (16 R316). -/
structure Attn where
  core   : Nat
  ten    : Nat
  addr   : Nat              -- offset of the triple area in the core's scratchpad
  query  : Vec
  seq    : Nat
  head   : Nat
  lo     : Nat
  hi     : Nat
  dim    : Nat              -- head dimension of the entry
  pages  : List (Nat × Nat) -- page groups that have not formed their partial, with the page's address
  parts  : List Triple      -- partials in the return network
  acc    : Triple
  deriving DecidableEq, Repr

/-- A tenant as a checkpoint of a reel keeps it: the bytes of its frames, and what its cores hold (20 R376; log
entry 40). -/
structure Snap where
  mem      : List Host.Cell
  threads  : SMap Thread
  deques   : SMap (List Record)
  spills   : SMap (List Record)
  msgs     : SMap (List Packet)
  tags     : SMap Tag
  chans    : SMap Chan
  claims   : SMap (List (Nat × Nat))
  bindings : SMap (List Binding)
  syms     : SMap (Option Sym)
  scratch  : SMap Byte
  spoison  : SMap Bool
  launches : SMap (Option Launch)
  net      : List Packet
  deriving DecidableEq, Repr

/-- A port's write in the ingress of a die, not yet performed at its home (10 R228). -/
structure Inflow where
  agent : Nat
  addr  : Nat
  bytes : List Byte
  deriving DecidableEq, Repr

/-- The state in which a control core starts when %ccrel releases it: mode, pc, `mhartid` and the arguments a0 and a1
(17 R334, 18 R336). -/
structure CcStart where
  mmode  : Bool
  pc     : Word
  hartid : Word
  a0     : Word
  a1     : Word
  deriving DecidableEq, Repr

/-- A reel (20 R376 to R378): its tenant, the physical address of its descriptor, its STATE, the time of the last
checkpoint, the checkpoints, the HOME entries that each agent has in the log, and the log entries that play has used. -/
structure Reel where
  ten    : Nat
  addr   : Nat
  mode   : Nat
  last   : Nat
  snaps  : List Snap
  counts : SMap Nat
  used   : SMap Bool
  deriving DecidableEq, Repr

/-- Boot and reset phases (17 R321). -/
inductive Phase where
  | inReset | training | rom | running | stopped
  deriving DecidableEq, Repr

/-- What another agent, whose own behaviour has no row of the table, does to the machine (log entry 1). -/
inductive Act where
  | dropIcache (core word : Nat)
  | dropTlb (key : Nat)
  | tileStep (octet : Nat)
  | enrol (ten desc grant : Nat)
  | remove (ten : Nat)
  | attachQueue (cl desc : Nat)
  | runTenant (core ten : Nat)
  | throttleCause (die : Nat) (on : Bool)
  | peerAck (thread addr : Nat)
  | peerWrite (addr : Nat) (bytes : List Byte)
  | ingress (die k : Nat)
  | flushTrace (session core : Nat)
  | loadFlash (off : Nat) (bytes : List Byte)
  | burnFuses (off : Nat) (bytes : List Byte)
  | setStraps (pkg mode : Nat)
  deriving DecidableEq, Repr

/-- One entry of the schedule: which agent moves next (log entry 1). -/
inductive Turn where
  | issue (h : HartId)
  | caught (h : HartId)                    -- a pre-emption may catch the unit in each step of its containment (09 R215)
  | slot (core : Nat) (vec : Bool)
  | event (i : Instr)
  | tick (ns : Nat) (aclk : List Nat)      -- ns of package time, ACLK cycles of each die
  | act (a : Act)
  deriving DecidableEq, Repr

/-- Why the machine stops with a fault: every other fault of the spec is an exception that the machine takes, or an error
that an engine records. -/
inductive Fault where
  | fatal               -- raised by a step with nothing scheduled, after FATAL_ERROR has stopped every agent (19 R356); safe
  deriving DecidableEq, Repr

/-- Why a step is refused. -/
inductive Refusal where
  | notModelled (mnemonic : String)   -- raised by an arm that has no meaning yet; safe
  deriving DecidableEq, Repr

/-- The package (00 to 20). Composite keys: a thread (tenant·1024 + core)·16 + thread, a tenant's core tenant·1024 + core;
tenant 16 is the boot context. A core is keyed by its logical number; before a map is committed, by the entry that the
canonical map would give its position, spares 960 to 1023 (log entry 8). -/
structure State where
  schedule  : List Turn
  hart      : HartId
  freeCtr   : Nat
  caught    : Bool
  time      : Nat
  aclk      : SMap Nat
  phase     : Phase
  threads   : SMap Thread
  cores     : SMap Core
  deques    : SMap (List Record)
  spills    : SMap (List Record)
  msgs      : SMap (List Packet)
  tags      : SMap Tag
  chans     : SMap Chan
  claims    : SMap (List (Nat × Nat))
  bindings  : SMap (List Binding)
  preempts  : SMap (BitVec 32)
  undeliv   : SMap (BitVec 32)
  syms      : SMap (Option Sym)
  l1        : SMap (Option L1Word)
  icache    : SMap (Option Word)
  tlb       : SMap (Option TlbVal)
  mem       : List Host.Cell
  poison    : SMap Bool
  owner     : SMap Nat
  scratch   : SMap Byte
  spoison   : SMap Bool
  resident  : SMap Bool
  pins      : SMap Nat
  octets    : SMap Octet
  clflags   : SMap (BitVec 6)
  faults    : SMap (List PageFault)
  services  : List Service
  fused     : SMap Bool
  wdog      : SMap Nat
  wdogFired : SMap Bool
  takes     : SMap (Option TakeDir)
  takeBusy  : List TakeBusy
  transoms  : List Transom
  chunks    : SMap Nat
  tenants   : SMap (Option Tenant)
  launches  : SMap (Option Launch)
  nextLaunch : Nat
  posted    : List (Nat × Nat × Nat)   -- copy packets of a launch: descriptor, sequence, launch
  queues    : SMap (List CpQueue)
  cpTurn    : SMap Nat              -- the place of the queue that each command processor served last (14 R280)
  hazards   : SMap (List Hazard)
  slices    : SMap Nat
  lastSlice : SMap Nat              -- the slice, in ns, of the launch last started, by tenant·32 + cluster (14 R293)
  lnJobs    : List LnJob
  net       : List Packet
  ingress   : SMap (List Inflow)
  ccores    : SMap (Option CcStart)
  bootCnt   : Option Nat            -- %meshcnt as COMMIT handed it to the boot agents (17 R333)
  attns     : List Attn
  irqs      : List (Nat × Nat)
  latches   : SMap (List (Nat × Word))
  portDown  : SMap Bool
  peerStores : List (Nat × Nat)
  thrCause  : SMap Bool
  thrLast   : SMap Nat              -- package time of a die's last step, or of its cause's end (19 R361)
  ctl       : SMap Word
  sysRegs   : SMap Word
  fuses     : SMap Byte
  flash     : SMap Byte
  good      : SMap Bool
  routers   : SMap Bool
  logical   : SMap (Option Nat)
  omitted   : SMap Bool             -- spare keys of good positions that the committed map names nowhere (17 R333)
  meas      : SMap (BitVec 256)
  traceBuf  : SMap (List (List Byte))
  slate     : Option Nat
  reels     : List Reel
  replayPos : Nat
  fatal     : Bool
  deriving DecidableEq, Repr

/-- The package right after reset (17 R321): RESET_N is asserted, every hart is FREE, memory lists nothing, and package
time is 0. A record that no list names reads as its zero record: the registers of a thread as 02 R27 resets them
(`Ctx.zero`), an octet with the engine weights 0x1111_1111 (`Octet.zero`), a core in the boot context (`Core.zero`). The
values that the spec does not give are named in log entries 3, 4 and 5. -/
def State.reset : State :=
  { schedule := [], hart := .core 0 0, freeCtr := 0, caught := false, time := 0, aclk := [], phase := .inReset, threads := [], cores := [],
    deques := [], spills := [], msgs := [], tags := [], chans := [], claims := [], bindings := [], preempts := [],
    undeliv := [], syms := [], l1 := [], icache := [], tlb := [], mem := [], poison := [], owner := [], scratch := [],
    spoison := [], resident := [], pins := [], octets := [], clflags := [], faults := [], services := [], fused := [],
    wdog := [], wdogFired := [], takes := [], takeBusy := [], transoms := [], chunks := [], tenants := [], launches := [], nextLaunch := 0, posted := [],
    queues := [], cpTurn := [], hazards := [], slices := [], lastSlice := [], lnJobs := [], net := [], ingress := [], ccores := [], bootCnt := none, attns := [], irqs := [], latches := [],
    portDown := [], peerStores := [], thrCause := [], thrLast := [], ctl := [], sysRegs := [], fuses := [], flash := [],
    good := [], routers := [], logical := [], omitted := [], meas := [], traceBuf := [], slate := none, reels := [], replayPos := 0,
    fatal := false }

end Sys2Proof.Machine
end

