-- ==== Sys2Proof/Machine/Mem.lean ====
section
/-! DEFINITION. Memory: homes, owners and poison (10 R216 to R222), the L1 (R219), scratchpad bytes (R224), physical
regions (18 R339), worlds (R350), translation (14 R289 to R291). -/

namespace Sys2Proof.Machine

/-! ### Records by key -/

/-- The registers of a hart that has run nothing (02 R27, R32). -/
def Ctx.zero : Ctx :=
  { s := [], v := [], p := [], late := [], handles := [], fmt := 2, rm := 0, flags := 0, srseed := 0x9E3779B9,
    frame := 0, joinc := 0, policy := 0, lo := 0, hi := 0, launch := 0, tvec := 0, cause := 0, epc := 0, eval := 0,
    pc := 0, run := .free, low := false, halted := false, wake := false, quota := 32, waitObj := 0, waitCnt := 0 }

/-- A FREE hardware thread. -/
def Thread.zero : Thread :=
  { ctx := Ctx.zero, start := .none, ctr := [], inl := none, stamp := 0, sys := false, launch := none,
    stall := false, waiting := none, saved := false, skip := false, due := false, pend := none }

/-- A core that runs the boot context (17 R327). -/
def Core.zero : Core :=
  { tenant := 16, jobCtr := 1, jobs := [], starvedS := 0, starvedV := 0, walk := ⟨[], 0⟩, sent := 0,
    received := 0, ctr := [], halted := false, haltCause := 0, bootCount := 0, bootAdded := false, failed := false,
    cycle0 := 0 }

def Tag.zero : Tag := { v := false, deposit := false, pol := 0, bud := 0, low := false, target := 0 }

def Chan.zero : Chan := { v := false, ten := 0, lcnt := 0, lsz := 0, base := 0, wp := 0, rp := 0, clm := 0 }

def Planes.zero : Planes := { vals := [], nan := false, fmt := 0, block := 0, redir := [] }

def Octet.zero : Octet :=
  { queues := [], wrr := 0, credit := 0, round := 0, mewt := 0x11111111, tiles := [], rowbuf := [], planes := Planes.zero, banks := [],
    wp := [], wpDests := [], chans := [], cuTurn := [], meCtx := [], cuCtx := [], ramp := ⟨0, 0, false, false, false⟩, halted := false, meFailed := false,
    cuFailed := false, ctr := [] }

/-- The core with logical number c. -/
def State.core (s : State) (c : Nat) : Core := s.cores.get Core.zero c
def State.setCore (s : State) (c : Nat) (x : Core) : State := { s with cores := s.cores.set Core.zero c x }

/-- The key of a tenant's context on a core. -/
def tcKey (ten core : Nat) : Nat := ten * 1024 + core

/-- The key of a hardware thread in a tenant's context. -/
def thKey (ten core t : Nat) : Nat := tcKey ten core * 16 + t

/-- Hardware thread t of core c, in the context of the tenant that the core runs. -/
def State.thread (s : State) (c t : Nat) : Thread := s.threads.get Thread.zero (thKey (s.core c).tenant c t)
def State.setThread (s : State) (c t : Nat) (x : Thread) : State :=
  { s with threads := s.threads.set Thread.zero (thKey (s.core c).tenant c t) x }

def State.octet (s : State) (o : Nat) : Octet := s.octets.get Octet.zero o
def State.setOctet (s : State) (o : Nat) (x : Octet) : State := { s with octets := s.octets.set Octet.zero o x }

/-- Add n to counter i of a thread, and to counter i of a core (20 R374). -/
def State.countThread (s : State) (c t i n : Nat) : State :=
  let x := s.thread c t
  s.setThread c t { x with ctr := x.ctr.set 0 i (x.ctr.get 0 i + BitVec.ofNat 64 n) }
def State.countCore (s : State) (c i n : Nat) : State :=
  let x := s.core c
  s.setCore c { x with ctr := x.ctr.set 0 i (x.ctr.get 0 i + BitVec.ofNat 64 n) }
def State.countOctet (s : State) (o i n : Nat) : State :=
  let x := s.octet o
  s.setOctet o { x with ctr := x.ctr.set 0 i (x.ctr.get 0 i + BitVec.ofNat 64 n) }

/-- Add n to counter i of a cluster; the record stands with the cluster's first core (20 R374). -/
def State.countCluster (s : State) (cl i n : Nat) : State := s.countCore (48 * cl) i n

/-- The registers of a hart. -/
def State.ctxOf (s : State) : HartId → Ctx
  | .core c t => (s.thread c t).ctx
  | .me o q => (s.octet o).meCtx.get Ctx.zero q
  | .cu o ch => (s.octet o).cuCtx.get Ctx.zero ch

def State.setCtxOf (s : State) (h : HartId) (x : Ctx) : State :=
  match h with
  | .core c t => s.setThread c t { s.thread c t with ctx := x }
  | .me o q => s.setOctet o { s.octet o with meCtx := (s.octet o).meCtx.set Ctx.zero q x }
  | .cu o ch => s.setOctet o { s.octet o with cuCtx := (s.octet o).cuCtx.set Ctx.zero ch x }

/-- The tenant key under which a hart runs (09 R197; 12 R244). -/
def State.tenOf (s : State) : HartId → Nat
  | .core c _ => (s.core c).tenant
  | .me o q => match (s.octet o).queues.get [] q with
    | j :: _ => j.ten
    | [] => 16
  | .cu o ch => match (s.octet o).chans.get none ch with
    | some r => r.ten
    | none => 16

/-- The octet, the cluster and the die of a core (00 R3); a spare belongs to its die (17 R332). -/
def octetOfCore (c : Nat) : Nat := c / 8
def clusterOfCore (c : Nat) : Nat := c / 48
def dieOfCore (c : Nat) : Nat := if c < 960 then c / 240 else (c - 960) / 16

def octetOf : HartId → Nat
  | .core c _ => c / 8
  | .me o _ => o
  | .cu o _ => o

def clusterOf (h : HartId) : Nat := octetOf h / 6
def dieOf : HartId → Nat
  | .core c _ => dieOfCore c
  | .me o _ => o / 30
  | .cu o _ => o / 30

/-- The owner id of a core: its logical number; a spare that runs the boot context has an id of its own
(10 R218, log entry 8). -/
def coreAgent (c : Nat) : Nat := if c < 960 then c else 4096 + c

/-- The core that an owner id names. -/
def agentCore (o : Nat) : Option Nat := if o < 960 then some o else if 4096 ≤ o then some (o - 4096) else none

/-- The owner id of an agent (10 R218). -/
def agentOf : HartId → Nat
  | .core c _ => coreAgent c
  | .me o _ => 960 + o
  | .cu o _ => 1080 + o

/-! ### Home memory -/

/-- What a byte of memory that nothing has written reads as (log entry 4). -/
def unlistedByte : Byte := 0

/-- The canonical form of memory. -/
def Memory.wf (m : List Host.Cell) : Bool := SMap.wf unlistedByte m

/-- A byte at its home. -/
def State.homeByte (s : State) (a : Nat) : Byte := SMap.get unlistedByte s.mem a

/-- Bytes at their homes, from a upward. -/
def State.homeBytes (s : State) (a n : Nat) : List Byte := (List.range n).map (fun i => s.homeByte (a + i))

/-- The word with index w at its home. -/
def State.homeWord (s : State) (w : Nat) : Word := BitVec.ofNat 64 (ofBytes (s.homeBytes (8 * w) 8))

/-- The little-endian number in n bytes at a. -/
def State.homeNat (s : State) (a n : Nat) : Nat := ofBytes (s.homeBytes a n)

/-- Write bytes from address a upward. -/
def writeBytes (m : List Host.Cell) (a : Nat) : List Byte → List Host.Cell
  | [] => m
  | b :: r => writeBytes (SMap.set unlistedByte m a b) (a + 1) r

/-- The member L1 that holds a word for a core: its own, or the fused cluster's, by PA[47:8] mod 48 (10 R223). -/
def State.l1Of (s : State) (core w : Nat) : Nat :=
  if s.fused.get false (clusterOfCore core) then clusterOfCore core * 48 + (w / 32 % 2 ^ 40) % 48 else core

/-- The key of a word in an L1. -/
def l1Key (l1 w : Nat) : Nat := l1 * 2 ^ 49 + w

/-- Clear the own bit of a word in the L1 that holds it for a core: a loss notice (10 R219). -/
def State.lossNotice (s : State) (core w : Nat) : State :=
  let k := l1Key (s.l1Of core w) w
  match s.l1.get none k with
  | some x => { s with l1 := s.l1.set none k (some { x with own := false }) }
  | none => s

/-- TakeOwner: the owner of a word becomes the writing agent, after a loss notice to the owner before it (10 R219). -/
def State.takeOwner (s : State) (agent w : Nat) : State :=
  let o := s.owner.get 2047 w
  let s := match agentCore o with
    | some c => if o != agent then s.lossNotice c w else s
    | none => s
  { s with owner := s.owner.set 2047 w agent }

/-- The word indexes that n bytes at a touch. -/
def wordsOf (a n : Nat) : List Nat := (List.range ((a + n + 7) / 8 - a / 8)).map (fun i => a / 8 + i)

/-- A write at the homes by an agent: bytes, owners, and the poison bits of whole words cleared (10 R219, 19 R355). -/
def State.homeWrite (s : State) (agent a : Nat) (bs : List Byte) : State :=
  let ws := if bs.isEmpty then [] else wordsOf a bs.length
  let s := ws.foldl (fun s w => s.takeOwner agent w) s
  { s with mem := writeBytes s.mem a bs,
           poison := ws.foldl (fun p w => if a ≤ 8 * w && 8 * w + 8 ≤ a + bs.length then p.set false w false else p) s.poison }

/-- A write at the home of a word's low n bytes. -/
def State.homeWriteNat (s : State) (agent a n x : Nat) : State := s.homeWrite agent a (bytesOf n x)

/-- The port writes of a die's ingress are performed at their homes, in order (10 R228). -/
def State.drainIngress (s : State) (d : Nat) : State :=
  (s.ingress.get [] d).foldl (fun s w => s.homeWrite w.agent w.addr w.bytes) { s with ingress := s.ingress.set [] d [] }

/-- Write k of a die's ingress is performed; a port write does not pass an earlier one to the same word. Which one is next
is left open otherwise (10 R228, R231). -/
def State.performInflow (s : State) (d k : Nat) : State :=
  let q := s.ingress.get [] d
  match q[k]? with
  | some w =>
    let ws := wordsOf w.addr w.bytes.length
    if (q.take k).any (fun v => (wordsOf v.addr v.bytes.length).any ws.contains) then s
    else { s with ingress := s.ingress.set [] d (q.eraseIdx k) }.homeWrite w.agent w.addr w.bytes
  | none => s

/-- Some word of n bytes at a is poisoned at its home. -/
def State.homePoisoned (s : State) (a n : Nat) : Bool := (wordsOf a n).any (fun w => s.poison.get false w)

/-! ### The L1 (10 R219) -/

/-- The owner of a word counts as this L1's own: this core, or any core of a fused cluster (10 R223). -/
def State.ownsWord (s : State) (core w : Nat) : Bool :=
  match agentCore (s.owner.get 2047 w) with
  | some c => if s.fused.get false (clusterOfCore core) then clusterOfCore c == clusterOfCore core else c == core
  | none => false

/-- Fill one word that is not valid. -/
def State.fillWord (s : State) (core ten w : Nat) : State :=
  let k := l1Key (s.l1Of core w) w
  match s.l1.get none k with
  | some _ => s
  | none => { s with l1 := s.l1.set none k (some { value := s.homeWord w, dirty := false, own := s.ownsWord core w,
                                                   poison := s.poison.get false w, ten := ten }) }

/-- Fill the 128-byte sector of a word. -/
def State.fill (s : State) (core ten w : Nat) : State :=
  (List.range 16).foldl (fun s i => s.fillWord core ten (w / 16 * 16 + i)) s

/-- The word as the L1 holds it, if valid. -/
def State.l1Get (s : State) (core w : Nat) : Option L1Word := s.l1.get none (l1Key (s.l1Of core w) w)

/-- The word in an L1 line changed by n bytes at offset off. -/
def patchWord (x : Word) (off : Nat) (bs : List Byte) : Word :=
  BitVec.ofNat 64 (ofBytes (patchBytes (bytesOf 8 x.toNat) off bs))

/-- Store bytes of one word into the L1; a part of a word that is not valid fills first (10 R219). -/
def State.l1Store (s : State) (core ten w off : Nat) (bs : List Byte) : State :=
  let s := if bs.length < 8 && (s.l1Get core w).isNone then s.fill core ten w else s
  let k := l1Key (s.l1Of core w) w
  let x := (s.l1.get none k).getD { value := 0, dirty := false, own := false, poison := false, ten := ten }
  { s with l1 := s.l1.set none k (some { x with value := patchWord x.value off bs, dirty := true,
                                                poison := x.poison && bs.length < 8, ten := ten }) }

/-- WriteBack of the L1 entry of key k, held for a core (10 R219). -/
def State.writeBackKey (s : State) (k : Nat) : State :=
  let core := k / 2 ^ 49
  let w := k % 2 ^ 49
  match s.l1.get none k with
  | some x =>
    if x.dirty then
      let s := s.takeOwner (coreAgent core) w
      { s with mem := writeBytes s.mem (8 * w) (bytesOf 8 x.value.toNat),
               poison := s.poison.set false w x.poison,
               l1 := s.l1.set none k (some { x with dirty := false, own := true }) }
    else s
  | none => s

/-- SelfInvalidate of the L1 entry of key k (10 R219). -/
def State.selfInvalKey (s : State) (k : Nat) : State :=
  match s.l1.get none k with
  | some x => if x.dirty || x.own then s else { s with l1 := s.l1.set none k none }
  | none => s

/-- The keys of the words that an L1 holds. -/
def State.l1Keys (s : State) (l1 : Nat) : List Nat := (SMap.keys s.l1).filter (fun k => k / 2 ^ 49 == l1)

/-- The member L1s that a core uses: its own, or all of its fused cluster's. -/
def State.l1Members (s : State) (core : Nat) : List Nat :=
  if s.fused.get false (clusterOfCore core) then (List.range 48).map (fun j => clusterOfCore core * 48 + j) else [core]

/-- Evict a line of an L1: write back, then clear every word of the line (10 R219). -/
def State.evictLine (s : State) (l1 line : Nat) : State :=
  let ks := (List.range 32).map (fun i => l1Key l1 (line * 32 + i))
  let s := ks.foldl State.writeBackKey s
  { s with l1 := ks.foldl (fun m k => m.set none k none) s.l1 }

/-! ### Physical regions, descriptors and worlds -/

/-- The regions of the physical space (18 R339). -/
inductive Region where
  | hbm | cxl | pcie | control | peer (p : Nat) | unlisted
  deriving DecidableEq, Repr

/-- Control-space words are held by offset / 8. -/
def State.ctlWord (s : State) (off : Nat) : Word := s.ctl.get 0 (off / 8)
def State.setCtl (s : State) (off : Nat) (x : Word) : State := { s with ctl := s.ctl.set 0 (off / 8) x }

/-- The package number, PKG of %meshst (17 R329). -/
def State.pkg (s : State) : Nat := bitsOf (s.sysRegs.get 0 0x311).toNat 21 16

/-- The region of a physical address (18 R339). -/
def State.regionOf (s : State) (pa : Nat) : Region :=
  if pa < 0xC000000000 then .hbm
  else if 0x1000000000000 ≤ pa && pa < 0x1100000000000 then .cxl
  else if 0x2000000000000 ≤ pa && pa < 0x2100000000000 then .pcie
  else if 0x4000000000000 ≤ pa && pa < 0x4000001000000 then .control
  else if 0x8000000000000 ≤ pa && pa < 0x10000000000000 then
    let p := (pa - 0x8000000000000) / 0x200000000000
    if p == s.pkg || 0xC000000000 ≤ (pa - 0x8000000000000) % 0x200000000000 then .unlisted else .peer p
  else .unlisted

/-- The home slice of a physical address under a HOME policy, die × 64 + slice (10 R217): package-interleaved, die-local, or
near-core, by the position of the core whose window holds the page; a page outside every window is homed as die-local. -/
def homeOf (home pa : Nat) (pos : Option Nat) : Nat :=
  let die := pa / 0x3000000000
  let near := die * 64 + Nat.xor (bitsOf pa 13 8) (bitsOf pa 19 14)
  match home, pos with
  | 0, _ => Nat.xor (bitsOf pa 15 8) (bitsOf pa 23 16)
  | 2, some p => (p / 32 / 16 * 2 + p % 32 / 16) * 64 + (p / 32 % 16 / 2) * 8 + p % 32 % 16 / 2
  | _, _ => near

/-- Word k of a tenant's address-space descriptor; zero in the boot context (14 R277, 17 R327). -/
def State.descWord (s : State) (ten k : Nat) : Nat :=
  match s.tenants.get none ten with
  | some t => s.homeNat (t.desc + 8 * k) 8
  | none => 0

/-- The world of a tenant; the boot context is secure (14 R277, 17 R327). -/
def State.worldOf (s : State) (ten : Nat) : Bool := if ten = 16 then true else (s.descWord ten 0).testBit 0

/-- The world of a physical frame: the lowest valid entry of the world table that covers it (18 R350). -/
def State.frameWorld (s : State) (pa : Nat) : Bool :=
  match (List.range 64).find? (fun i =>
      let w0 := (s.ctlWord (0x30000 + 16 * i)).toNat
      let w1 := (s.ctlWord (0x30000 + 16 * i + 8)).toNat
      w0.testBit 63 && bitsOf w0 51 12 ≤ pa / 4096 && pa / 4096 ≤ bitsOf w1 51 12) with
  | some i => (s.ctlWord (0x30000 + 16 * i)).toNat.testBit 62
  | none => false

/-! ### Translation (14 R289 to R291) -/

/-- The bytes of a page by its SZ code (14 R290). -/
def pageSize (sz : Nat) : Nat := if sz = 0 then 0x1000 else if sz = 1 then 0x10000 else if sz = 2 then 0x200000 else 0x40000000

/-- Fields of a page table entry (14 R290). -/
def pteSz (e : Nat) : Nat := bitsOf e 5 4
def ptePfn (e : Nat) : Nat := bitsOf e 59 20
def pteLn (e : Nat) : Bool := e.testBit 14

/-- A leaf at a level, or none for FAULT: reserved bit 19 set, or a PFN not aligned to the page size. -/
def leafOk (e : Nat) : Bool := !e.testBit 19 && (pteLn e || ptePfn e * 4096 % pageSize (pteSz e) == 0)

/-- Walk the four levels from table frame t; `lvl` counts the levels left (14 R289). -/
def State.walk (s : State) (va : Nat) : Nat → Nat → Option TlbVal
  | 0, _ => none
  | lvl + 1, t =>
    let e := s.homeNat (t * 4096 + 8 * bitsOf va (12 + 9 * lvl + 8) (12 + 9 * lvl)) 8
    if !e.testBit 0 then none
    else if (lvl = 2 ∧ pteSz e = 3) ∨ (lvl = 1 ∧ pteSz e = 2) ∨ (lvl = 0 ∧ pteSz e < 2) then
      if leafOk e then some ⟨BitVec.ofNat 64 e, lvl⟩ else none
    else if lvl = 0 ∨ pteSz e ≠ 0 then none
    else s.walk va lvl (ptePfn e)

/-- The key of a cached translation: cache 0–959 a core's, 960 + cluster a cluster's; its tenant; the first frame of the
page of size code sz that holds va, and sz. A key below 2^38 within its cache and tenant. -/
def tlbKey (cache ten va sz : Nat) : Nat := (cache * 32 + ten) * 2 ^ 38 + (va / pageSize sz * pageSize sz / 4096) * 4 + sz

/-- The entry of a cache that holds the page of va, of whatever size (14 R291). -/
def State.tlbFind (s : State) (cache ten va : Nat) : Option TlbVal :=
  (List.range 4).findSome? (fun sz => s.tlb.get none (tlbKey cache ten va sz))

/-- Keep a translation in a cache. -/
def State.tlbKeep (s : State) (cache ten va : Nat) (e : TlbVal) : State :=
  { s with tlb := s.tlb.set none (tlbKey cache ten va (pteSz e.pte.toNat)) (some e) }

/-- A miss of the core TLB counts for the thread, one of the cluster TLB and its walk for the cluster (20 R374). -/
def State.countTlb (s : State) (h : HartId) (walk : Bool) : State :=
  let s := match h with | .core c t => s.countThread c t 13 1 | _ => s
  if walk then (s.countCluster (clusterOf h) 48 1).countCluster (clusterOf h) 49 1 else s

/-- Translate by the core's TLB, the cluster's, then a walk, which both caches keep (14 R291). -/
def State.translate (s : State) (h : HartId) (ten va : Nat) : State × Option TlbVal :=
  let low := 960 + clusterOf h
  let up := match h with | .core c _ => c | _ => low
  match s.tlbFind up ten va with
  | some e => (s, some e)
  | none =>
    match s.tlbFind low ten va with
    | some e => ((s.tlbKeep up ten va e).countTlb h false, some e)
    | none =>
      match s.walk va 4 (bitsOf (s.descWord ten 0) 51 12) with
      | some e => (((s.tlbKeep low ten va e).tlbKeep up ten va e).countTlb h true, some e)
      | none => (s.countTlb h true, none)

/-- The attributes of a page (14 R290; 10 R224; 17 R327). -/
structure Page where
  fmt  : Nat
  geom : Nat
  w    : Bool
  x    : Bool
  nc   : Bool
  s    : Bool
  home : Nat
  deriving DecidableEq, Repr

/-- Where a virtual address leads: device memory, a scratchpad byte, or a byte of a lineage node. -/
inductive Loc where
  | dev (pa : Nat)
  | scr (key off : Nat)
  | ln (node off : Nat)
  deriving DecidableEq, Repr

/-- The page attributes in a leaf. -/
def pageOf (e : Nat) : Page :=
  { fmt := bitsOf e 10 6, geom := bitsOf e 13 11, w := e.testBit 1, x := e.testBit 2, nc := e.testBit 17,
    s := e.testBit 3, home := bitsOf e 16 15 }

/-- The scratchpad window base of a tenant, aligned to 16 MiB; bits below that are ignored (14 R277, 17 R327, log entry 55). -/
def State.windowBase (s : State) (ten : Nat) : Nat := if ten = 16 then 0xF00000000000 else s.descWord ten 9 / 2 ^ 24 * 2 ^ 24

/-- Where a virtual address below 2^48 leads for a hart; none where the walk answers FAULT. -/
def State.locate (s : State) (h : HartId) (ten va : Nat) : State × Option (Loc × Page) :=
  let base := s.windowBase ten
  if base ≤ va && va < base + 48 * 0x40000 then
    (s, some (.scr (tcKey ten (clusterOf h * 48 + (va - base) / 0x40000)) ((va - base) % 0x40000),
      { fmt := 0, geom := 0, w := true, x := ten == 16, nc := true, s := s.worldOf ten, home := 0 }))
  else if ten = 16 then
    (s, some (.dev va, { fmt := 0, geom := 0, w := true, x := true, nc := false, s := true, home := 1 }))
  else
    match s.translate h ten va with
    | (s, none) => (s, none)
    | (s, some e) =>
      let p := e.pte.toNat
      let size := pageSize (pteSz p)
      if pteLn p then (s, some (.ln (bitsOf p 43 20) (bitsOf p 59 44 * size + va % size), pageOf p))
      else (s, some (.dev (ptePfn p * 4096 / size * size + va % size), pageOf p))

/-! ### Scratchpad bytes (10 R224) -/

/-- The key of a scratchpad byte of a tenant's core. -/
def scrKey (key off : Nat) : Nat := key * 2 ^ 18 + off

def State.scrBytes (s : State) (key off n : Nat) : List Byte :=
  (List.range n).map (fun i => s.scratch.get 0 (scrKey key (off + i)))

def State.scrWrite (s : State) (key off : Nat) (bs : List Byte) : State :=
  let ws := if bs.isEmpty then [] else wordsOf off bs.length
  { s with scratch := writeBytes s.scratch (scrKey key off) bs,
           spoison := ws.foldl (fun p w => if off ≤ 8 * w && 8 * w + 8 ≤ off + bs.length
             then p.set false (key * 2 ^ 15 + w) false else p) s.spoison }

def State.scrPoisoned (s : State) (key off n : Nat) : Bool :=
  (wordsOf off n).any (fun w => s.spoison.get false (key * 2 ^ 15 + w))

end Sys2Proof.Machine
end

