-- ==== Sys2Proof/Machine/Lines.lean ====
section
/-! DEFINITION. Lineage storage: node descriptors, line maps, the line pool, resolution and aperture stores
(13 R262 to R268, 08 R167, R172). -/

namespace Sys2Proof.Machine

/-- A node descriptor (13 R262). -/
structure Node where
  state   : Nat
  depth   : Nat
  geom    : Nat
  fmt     : Nat
  parent  : Nat
  kids    : Nat
  version : Nat
  count   : Nat
  lines   : Nat
  mapg    : Nat
  owned   : Nat
  job     : Nat
  deriving DecidableEq, Repr

/-- The base of the node table, and the number of nodes it holds; none in the boot context (14 R277, 17 R327). -/
def State.nodeTable (s : State) (ten : Nat) : Nat := s.descWord ten 2
def State.nodeCap (s : State) (ten : Nat) : Nat := if ten = 16 then 0 else 2 ^ (s.descWord ten 3 % 32)
def State.poolBase (s : State) (ten : Nat) : Nat := s.descWord ten 4
def State.poolSize (s : State) (ten : Nat) : Nat := bitsOf (s.descWord ten 3) 39 8

/-- The address of a node's descriptor (08 R167). -/
def State.nodeAddr (s : State) (ten n : Nat) : Nat := s.nodeTable ten + 128 * n

/-- Node n's descriptor (13 R262). -/
def State.node (s : State) (ten n : Nat) : Node :=
  let a := s.nodeAddr ten n
  let w (i : Nat) : Nat := s.homeNat (a + 8 * i) 8
  { state := bitsOf (w 0) 63 62, depth := bitsOf (w 0) 58 56, geom := bitsOf (w 0) 55 53, fmt := bitsOf (w 0) 52 48,
    parent := bitsOf (w 0) 23 0, kids := bitsOf (w 1) 63 32, version := bitsOf (w 1) 31 0, count := bitsOf (w 2) 39 0,
    lines := bitsOf (w 3) 63 32, mapg := bitsOf (w 3) 31 0, owned := bitsOf (w 4) 63 32, job := bitsOf (w 4) 31 24 }

/-- Write node n's descriptor at its home; the hart that moves becomes the owner (10 R218). -/
def State.setNode (s : State) (ten n : Nat) (x : Node) : State :=
  let w0 := x.state * 2 ^ 62 + x.depth * 2 ^ 56 + x.geom * 2 ^ 53 + x.fmt * 2 ^ 48 + x.parent
  let w1 := x.kids % 2 ^ 32 * 2 ^ 32 + x.version % 2 ^ 32
  let w3 := x.lines * 2 ^ 32 + x.mapg
  let w4 := x.owned * 2 ^ 32 + x.job * 2 ^ 24
  let bs := bytesOf 8 w0 ++ bytesOf 8 w1 ++ bytesOf 8 x.count ++ bytesOf 8 w3 ++ bytesOf 8 w4
  s.homeWrite (agentOf s.hart) (s.nodeAddr ten n) bs

/-- The id names no node: beyond the table, 0, or FREE (08 R167). -/
def State.nodeInvalid (s : State) (ten n : Nat) : Bool :=
  n == 0 || s.nodeCap ten ≤ n || (s.node ten n).state == 0

/-- Granules of a line map (13 R263). -/
def mapGranules (lines : Nat) : Nat := ceilDiv (4 * lines) 256

/-- The address of a granule. -/
def State.granAddr (s : State) (ten g : Nat) : Nat := s.poolBase ten + 256 * g

/-- Line entry L of a node: its code and granule (13 R263). -/
def State.lineEntry (s : State) (ten : Nat) (x : Node) (l : Nat) : Nat × Nat :=
  let e := s.homeNat (s.granAddr ten x.mapg + 4 * l) 4
  (bitsOf e 31 30, bitsOf e 29 0)

def State.setLineEntry (s : State) (ten : Nat) (x : Node) (l code gran : Nat) : State :=
  s.homeWriteNat (agentOf s.hart) (s.granAddr ten x.mapg + 4 * l) 4 (code * 2 ^ 30 + gran)

/-- The pairs of a sparse record: position and value (13 R263). -/
def State.recPairs (s : State) (ten g : Nat) : List (Nat × Nat) :=
  let a := s.granAddr ten g
  (List.range (s.homeNat a 1)).map (fun j => (s.homeNat (a + 4 + 2 * j) 2, s.homeNat (a + 64 + 8 * j) 8))

def State.setRecPairs (s : State) (ten g : Nat) (ps : List (Nat × Nat)) : State :=
  let idx := ps.flatMap (fun p => bytesOf 2 p.1)
  let vals := ps.flatMap (fun p => bytesOf 8 p.2)
  let bs := [BitVec.ofNat 8 ps.length, 0, 0, 0] ++ idx ++ List.replicate (60 - idx.length) 0
    ++ vals ++ List.replicate (448 - vals.length) 0
  s.homeWrite (agentOf s.hart) (s.granAddr ten g) bs

/-- Pair (q, v) in a record: the value replaces that of the pair at position q, or a new pair stands last (13 R263). -/
def State.putPair (s : State) (ten g q v : Nat) : State :=
  let a := s.granAddr ten g
  let ps := s.recPairs ten g
  match findIdx? (fun (p : Nat × Nat) => p.1 == q) ps 0 with
  | some (j, _) => s.homeWriteNat (agentOf s.hart) (a + 64 + 8 * j) 8 v
  | none => ((s.homeWriteNat (agentOf s.hart) (a + 64 + 8 * ps.length) 8 v).homeWriteNat (agentOf s.hart)
      (a + 4 + 2 * ps.length) 2 q).homeWriteNat (agentOf s.hart) a 1 (ps.length + 1)

/-- Element position p of width e of a line. -/
def lineElem (e p : Nat) (line : List Byte) : Nat :=
  if e < 8 then elemOf (fieldAt line (p / 2) 1) 4 (p % 2) else fieldAt line (p * (e / 8)) (e / 8)

/-- Set element position p of width e of a line. -/
def setLineElem (e p v : Nat) (line : List Byte) : List Byte :=
  if e < 8 then patchBytes line (p / 2) [BitVec.ofNat 8 (setElem (fieldAt line (p / 2) 1) 4 (p % 2) v)]
  else patchBytes line (p * (e / 8)) (bytesOf (e / 8) v)

/-- ResolveLine: the base line and the pairs that apply to it, nearer nodes first; none for a line entry with CODE 11.
`fuel` counts the nodes left to walk (13 R267). -/
def State.resolveGo (s : State) (ten l : Nat) : Nat → Nat → List (Nat × Nat) → Option (List Byte × List (Nat × Nat))
  | 0, _, ps => some (List.replicate 256 0, ps)
  | fuel + 1, n, ps =>
    let d := s.node ten n
    let (code, g) := s.lineEntry ten d l
    if code = 3 then none
    else if code = 2 then some (s.homeBytes (s.granAddr ten g) 256, ps)
    else
      let ps := if code = 1 then ps ++ (s.recPairs ten g).filter (fun p => !(ps.any (fun q => q.1 == p.1))) else ps
      if d.parent = 0 then some (List.replicate 256 0, ps) else s.resolveGo ten l fuel d.parent ps

/-- Line l of node n as resolved (13 R267). -/
def State.resolveLine (s : State) (ten n l : Nat) : Option (List Byte) :=
  let e := fmtBits (s.node ten n).fmt
  match s.resolveGo ten l 8 n [] with
  | some (base, ps) => some (ps.foldl (fun b p => setLineElem e p.1 p.2 b) base)
  | none => none

/-- The words of line l of node n, as resolved, that are poisoned: those of the base granule, and those that a poisoned
pair value reaches; the whole line where its entry or the head of a record is poisoned, or the entry has CODE 11
(13 R267, 19 R355). `seen` holds the positions that nearer pairs give. -/
def State.poisonGo (s : State) (ten l e : Nat) : Nat → Nat → List Nat → List Nat → List Nat
  | 0, _, _, bad => bad
  | fuel + 1, n, seen, bad =>
    let d := s.node ten n
    let (code, g) := s.lineEntry ten d l
    if code = 3 ∨ s.homePoisoned (s.granAddr ten d.mapg + 4 * l) 4 = true then List.range 32
    else if code = 2 then bad ++ (List.range 32).filter (fun w => s.poison.get false (s.granAddr ten g / 8 + w))
    else
      let ps := if code = 1 then s.recPairs ten g else []
      if code = 1 ∧ s.homePoisoned (s.granAddr ten g) (4 + 2 * ps.length) = true then List.range 32
      else
        let bad := bad ++ (ps.zipIdx.filter (fun p => !seen.contains p.1.1
          && s.poison.get false (s.granAddr ten g / 8 + 8 + p.2))).map (fun p => p.1.1 * e / 64)
        if d.parent = 0 then bad else s.poisonGo ten l e fuel d.parent (seen ++ ps.map (·.1)) bad

/-- The poisoned words of line l of node n. -/
def State.badWords (s : State) (ten n l : Nat) : List Nat := s.poisonGo ten l (fmtBits (s.node ten n).fmt) 8 n [] []

/-- A line entry of a node cannot be used: CODE 11, or its word is poisoned (13 R267). -/
def State.entryDead (s : State) (ten n l : Nat) : Bool :=
  let d := s.node ten n
  (s.lineEntry ten d l).1 == 3 || s.homePoisoned (s.granAddr ten d.mapg + 4 * l) 4

/-- A word of a sparse record that holds its count, a position or a value is poisoned. -/
def State.recPoisoned (s : State) (ten g : Nat) : Bool :=
  let n := s.homeNat (s.granAddr ten g) 1
  s.homePoisoned (s.granAddr ten g) (4 + 2 * n) || s.homePoisoned (s.granAddr ten g + 64) (8 * n)

/-- Some word of line l of node n is poisoned. -/
def State.linePoisoned (s : State) (ten n l : Nat) : Bool := !(s.badWords ten n l).isEmpty

/-- Bytes of a node from byte offset `off`; none where a word of them is poisoned (13 R265, R267; 19 R355). -/
def State.nodeBytes (s : State) (ten n off len : Nat) : Option (List Byte) :=
  let ls := (List.range ((off + len + 255) / 256 - off / 256)).map (fun i => off / 256 + i)
  if ls.any (fun l => (s.badWords ten n l).any (fun w => off < 256 * l + 8 * w + 8 && 256 * l + 8 * w < off + len)) then none
  else
    let all := ls.flatMap (fun l => (s.resolveLine ten n l).getD (List.replicate 256 0))
    some ((all.drop (off % 256)).take len)

/-! ### The pool (13 R264) -/

/-- The nodes whose descriptor has been written. -/
def State.knownNodes (s : State) (ten : Nat) : List Nat :=
  let b := s.nodeTable ten
  let e := b + 128 * s.nodeCap ten
  ((SMap.keys s.mem).filter (fun a => b ≤ a && a < e)).foldl
    (fun l a => let n := (a - b) / 128; if l.contains n then l else l ++ [n]) []

/-- The granules of a node: its map, and those of its records and full lines. -/
def State.granulesOf (s : State) (ten n : Nat) : List Nat :=
  let x := s.node ten n
  if x.state = 0 then []
  else (List.range (mapGranules x.lines)).map (fun i => x.mapg + i)
    ++ (List.range x.lines).flatMap (fun l =>
      let (code, g) := s.lineEntry ten x l
      if code = 2 then [g] else if code = 1 then [g, g + 1] else [])

/-- Every granule in use or reserved by a lineage job. -/
def State.usedGranules (s : State) (ten : Nat) : List Nat :=
  (s.knownNodes ten).flatMap (s.granulesOf ten) ++ (s.lnJobs.filter (fun j => j.ten == ten)).flatMap (·.kept)

/-- The first k consecutive free granules from g, wrapping, where g is a multiple of `step`. -/
def findGranules (used : List Nat) (size k step : Nat) : Nat → Nat → Option Nat
  | 0, _ => none
  | fuel + 1, g =>
    let g := if size < g + k then 0 else g
    if g + k ≤ size && !(used.any (fun u => g ≤ u && u < g + k)) then some g
    else findGranules used size k step fuel (g + step)

/-- Take k consecutive granules, the first a multiple of `step`; which ones is left open (log entry 2). -/
def State.takeGranules (s : State) (ten k step : Nat) (used : List Nat) : Option (State × Nat) :=
  let size := s.poolSize ten
  let g := if size = 0 then 0 else Config.freeNat s.freeCtr % size / step * step
  match findGranules used size k step ((used.length + 1) * (k + 1) + 1) g with
  | some g => some ({ s with freeCtr := s.freeCtr + 1 }, g)
  | none => none

/-- Line l of node n becomes a full line in granule g, its words in `bad` poisoned; `fresh` where the node owned no line
there (13 R264, 19 R355). -/
def State.fullLineAt (s : State) (ten n l g : Nat) (fresh : Bool) (line : List Byte) (bad : List Nat) : State :=
  let x := s.node ten n
  let s := (s.setLineEntry ten x l 2 g).homeWrite (agentOf s.hart) (s.granAddr ten g) line
  let s := { s with poison := bad.foldl (fun p w => p.set false (s.granAddr ten g / 8 + w) true) s.poison }
  if fresh then s.setNode ten n { x with owned := x.owned + 1 } else s

/-- A full line for line l of node n, in the granule that it may reuse or in a free one; none where the pool has no free
granule (13 R264). -/
def State.putFullLine (s : State) (ten n l : Nat) (line : List Byte) (bad : List Nat) : Option State :=
  let (code, g) := s.lineEntry ten (s.node ten n) l
  if code = 2 ∨ code = 1 then some (s.fullLineAt ten n l g false line bad)
  else match s.takeGranules ten 1 1 (s.usedGranules ten) with
    | some (s, g) => some (s.fullLineAt ten n l g true line bad)
    | none => none

/-! ### The take directory (15 R297 to R299) -/

/-- The base and size of a tenant's part on a die; no take area has size 0. -/
def State.takePart (s : State) (ten d : Nat) : Nat × Nat :=
  let a := s.descWord ten 8
  if a = 0 then (0, 0) else (s.homeNat (a + 8 * d) 8, s.homeNat (a + 32) 4)

/-- The address of a take's line. -/
def State.takeLine (s : State) (d : Nat) (e : TakeDir) (line : Nat) : Nat := (s.takePart e.ten d).1 + 4096 * e.offset + 256 * line

/-- Invalidate the take of directory entry k: the entry is free, and the header mirrors it. -/
def State.dropTake (s : State) (k : Nat) : State :=
  match s.takes.get none k with
  | some e =>
    let a := s.takeLine (k / 4096) e 0
    let w := s.homeNat a 8
    { s with takes := s.takes.set none k none }.homeWriteNat (agentOf s.hart) a 8 (w % 2 ^ 63)
  | none => s

/-- The entries of takes that meet a test. -/
def State.takesWith (s : State) (p : Nat → TakeDir → Bool) : List Nat :=
  (s.takes.filter (fun e => match e.2 with | some x => p e.1 x | none => false)).map (·.1)

/-- Drop the tiles, and invalidate the takes, whose tag carries a node, when its version wraps (13 R272). -/
def State.dropTags (s : State) (ten n : Nat) : State :=
  let s := (s.takesWith (fun k e => e.ten == ten && bitsOf (s.homeNat (s.takeLine (k / 4096) e 0) 8) 23 0 == n)).foldl State.dropTake s
  { s with octets := s.octets.map (fun (o, x) => (o, { x with tiles := x.tiles.filter (fun (_, t) =>
      match t with | some t => (match t.tag with | some g => !(g.ten == ten && g.node == n) | none => true) | none => true) })) }

/-- Bump a node's version (13 R272). -/
def State.bump (s : State) (ten n : Nat) : State :=
  let x := s.node ten n
  let s := s.setNode ten n { x with version := (x.version + 1) % 2 ^ 32 }
  if x.version = 2 ^ 32 - 1 then s.dropTags ten n else s

/-- Store bytes into a node, one line at a time: into a full line in place, else into a full line made of the resolved one;
none where the pool has no free granule (13 R264). -/
def State.nodeStore (s : State) (ten n off : Nat) : List Byte → Nat → Option State
  | _, 0 => some s
  | bs, fuel + 1 =>
    if bs.isEmpty then some s
    else
      let l := off / 256
      let k := 256 - off % 256
      let part := bs.take k
      let (code, g) := s.lineEntry ten (s.node ten n) l
      let r := if code = 2 then some (s.homeWrite (agentOf s.hart) (s.granAddr ten g + off % 256) part)
        else
          let line := (s.resolveLine ten n l).getD (List.replicate 256 0)
          let bad := (s.badWords ten n l).filter (fun w => !(off % 256 ≤ 8 * w && 8 * w + 8 ≤ off % 256 + part.length))
          s.putFullLine ten n l (patchBytes line (off % 256) part) bad
      match r with
      | some s => s.nodeStore ten n (off + part.length) (bs.drop k) fuel
      | none => none

/-- Some line of a node that n bytes at `off` touch has an entry with CODE 11, which its first use finds poisoned
(13 R267). -/
def State.deadLine (s : State) (ten n off len : Nat) : Bool :=
  (List.range ((off + len + 255) / 256 - off / 256)).any (fun i => (s.lineEntry ten (s.node ten n) (off / 256 + i)).1 == 3)

end Sys2Proof.Machine
end

