-- ==== Sys2Proof/Machine/Mesh.lean ====
section
/-! DEFINITION. The mesh map: positions, discovery, commit, and the registers of 17 R329 to R335. -/

namespace Sys2Proof.Machine

/-- The die of a position y·32 + x (17 R332). -/
def dieOfPos (p : Nat) : Nat := p % 32 / 16 + 2 * (p / 32 / 16)

/-- Positions of die d in row-major scan order of its local (y, x) (17 R332). -/
def diePositions (d : Nat) : List Nat :=
  (List.range 256).map (fun i => (16 * (d / 2) + i / 16) * 32 + 16 * (d % 2) + i % 16)

/-- The good positions of a die, in scan order. -/
def State.goodOf (s : State) (d : Nat) : List Nat := (diePositions d).filter (fun p => s.good.get false p)

/-- The entry of the canonical map that names a position: 0–959 a logical core, 960 + 16d + k a spare (17 R332). -/
def State.canonEntry (s : State) (p : Nat) : Option Nat :=
  match findIdx? (fun q => q == p) (s.goodOf (dieOfPos p)) 0 with
  | some (i, _) => some (if i < 240 then 240 * dieOfPos p + i else 960 + 16 * dieOfPos p + (i - 240))
  | none => none

/-- The canonical map (17 R332). -/
def State.canonMap (s : State) : SMap (Option Nat) :=
  (List.range 4).foldl (fun m d =>
    ((s.goodOf d).zipIdx).foldl (fun m (p, i) =>
      if i < 240 then m.set none (240 * d + i) (some p)
      else if i < 256 then m.set none (960 + 16 * d + (i - 240)) (some p) else m) m) []

/-- A map is in force (17 R329). -/
def State.mapped (s : State) : Bool := (s.sysRegs.get 0 0x311).getLsbD 2
def State.meshBusy (s : State) : Bool := (s.sysRegs.get 0 0x311).getLsbD 1

/-- %cid of a core: its logical number once a map is in force, else 0; a spare has none (17 R327, R333). -/
def State.cidOf (s : State) (c : Nat) : Nat := if s.mapped && c < 960 then c else 0

/-- The core that runs on a position. -/
def State.coreAt (s : State) (p : Nat) : Option Nat :=
  match s.logical.find? (fun e => e.2 == some p) with
  | some e => some e.1
  | none => none

/-- The boot core's position: the first good one of die 0 in scan order (17 R323). -/
def State.bootPos (s : State) : Option Nat := (s.goodOf 0).head?

/-- The core is the boot core. -/
def State.isBootCore (s : State) (c : Nat) : Bool :=
  match s.bootPos with
  | some p => s.logical.get none c == some p
  | none => false

def State.sysReg (s : State) (n : Nat) : Word := s.sysRegs.get 0 n
def State.setSysReg (s : State) (n : Nat) (x : Word) : State := { s with sysRegs := s.sysRegs.set 0 n x }

/-- Set bits hi:lo of a number. -/
def setBits (x hi lo v : Nat) : Nat := x - bitsOf x hi lo * 2 ^ lo + (v % 2 ^ (hi + 1 - lo)) * 2 ^ lo

def State.setMeshst (s : State) (hi lo v : Nat) : State :=
  s.setSysReg 0x311 (BitVec.ofNat 64 (setBits (s.sysReg 0x311).toNat hi lo v))

/-- The boot reaches a stage. A boot that has stopped keeps STAGE, and no stage follows a later one (17 R326, R328). -/
def State.bootStage (s : State) (n : Nat) : State :=
  let x := (s.sysReg 0x317).toNat
  if bitsOf x 15 8 = 0 then s.setSysReg 0x317 (BitVec.ofNat 64 (setBits x 3 0 (max n (bitsOf x 3 0)))) else s

/-- GO: the flood starts (17 R330). -/
def State.meshGo (s : State) : State := s.setMeshst 1 1 1

/-- The neighbours of a position with their PARENT codes, in the order N, E, S, W (17 R330, R331). -/
def neighbours (p : Nat) : List (Nat × Nat) :=
  (if 32 ≤ p then [(1, p - 32)] else []) ++ (if p % 32 < 31 then [(2, p + 1)] else [])
    ++ (if p < 992 then [(3, p + 32)] else []) ++ (if p % 32 = 0 then [] else [(4, p - 1)])

/-- Breadth-first hops from the boot router through participating routers (17 R330). -/
def State.floodGo (s : State) : Nat → Nat → List Nat → SMap (Option Nat) → SMap (Option Nat)
  | 0, _, _, m => m
  | fuel + 1, h, front, m =>
    let next := (front.flatMap (fun p => (neighbours p).map (·.2))).foldl
      (fun l p => if s.routers.get false p && (m.get none p).isNone && !(l.contains p) then l ++ [p] else l) []
    if next.isEmpty then m
    else s.floodGo fuel (h + 1) next (next.foldl (fun m p => m.set none p (some (h + 1))) m)

def State.flood (s : State) : SMap (Option Nat) :=
  match s.bootPos with
  | some b => s.floodGo 1024 0 [b] [(b, some 0)]
  | none => []

/-- The record of a position (17 R331). -/
def State.floodRecord (s : State) (m : SMap (Option Nat)) (p : Nat) : Nat :=
  match m.get none p with
  | none => 0
  | some h =>
    let parent := match (neighbours p).find? (fun n => h != 0 && m.get none n.2 == some (h - 1)) with
      | some n => n.1
      | none => 0
    h % 64 * 32 + parent * 4 + 2 + (if s.good.get false p then 1 else 0)

/-- The flood ends: every record is written at its home, then DONE is set (17 R330). Routers have no owner id; the
words' owner becomes none. -/
def State.meshDone (s : State) : State :=
  let m := s.flood
  let bs := (List.range 1024).flatMap (fun p => bytesOf 2 (s.floodRecord m p))
  let s := s.homeWrite 2047 (bitsOf (s.sysReg 0x312).toNat 51 0) bs
  (s.setMeshst 1 1 0).setMeshst 0 0 1

/-- The map table in memory (17 R332). -/
def State.mapTable (s : State) : List Nat :=
  (List.range 1024).map (fun i => s.homeNat (bitsOf (s.sysReg 0x313).toNat 51 0 + 2 * i) 2)

/-- The place of a position in its die's scan order. -/
def scanIndex (p : Nat) : Nat := (p / 32 % 16) * 16 + p % 16

/-- Entry i of the map table keeps every rule of 17 R333. -/
def State.mapEntryOk (s : State) (t : List Nat) (i : Nat) : Bool :=
  let p := t.getD i 0xFFFF
  let fresh := !((t.take i).contains p)
  let good (d : Nat) : Bool := p < 1024 && s.good.get false p && dieOfPos p == d
  if i < 960 then
    good (i / 240) && fresh && (i % 240 == 0 || scanIndex (t.getD (i - 1) 0) < scanIndex p)
  else if p = 0xFFFF then true
  else good ((i - 960) / 16) && fresh && (i % 16 == 0 || t.getD (i - 1) 0xFFFF != 0xFFFF)

/-- A map with its keys renamed. -/
def rekeyMap {α : Type} (f : Nat → Nat) (m : SMap α) : SMap α := m.foldl (fun r e => SMap.put r (f e.1) e.2) []

/-- Rename the cores: every core's state moves to its new number (17 R333). -/
def State.renumber (s : State) (f : Nat → Nat) : State :=
  let g (k : Nat) : Nat := k / 1024 * 1024 + f (k % 1024)
  let at_ (n : Nat) (k : Nat) : Nat := g (k / n) * n + k % n
  { s with
    threads := rekeyMap (at_ 16) s.threads, cores := rekeyMap f s.cores, deques := rekeyMap g s.deques,
    spills := rekeyMap g s.spills, msgs := rekeyMap g s.msgs, tags := rekeyMap (at_ 64) s.tags, chans := rekeyMap (at_ 64) s.chans,
    claims := rekeyMap (at_ 64) s.claims, bindings := rekeyMap g s.bindings, preempts := rekeyMap g s.preempts,
    undeliv := rekeyMap g s.undeliv, syms := rekeyMap (fun k => f (k / 256) * 256 + k % 256) s.syms,
    l1 := rekeyMap (fun k => f (k / 2 ^ 49) * 2 ^ 49 + k % 2 ^ 49) s.l1,
    icache := rekeyMap (fun k => f (k / 2 ^ 49) * 2 ^ 49 + k % 2 ^ 49) s.icache,
    scratch := rekeyMap (at_ (2 ^ 18)) s.scratch, spoison := rekeyMap (at_ (2 ^ 15)) s.spoison,
    resident := rekeyMap (at_ 64) s.resident, pins := rekeyMap (at_ 64) s.pins,
    services := s.services.map (fun r => { r with core := f r.core }),
    lnJobs := s.lnJobs.map (fun j => { j with core := f j.core }), attns := s.attns.map (fun a => { a with core := f a.core }),
    peerStores := s.peerStores.map (fun p => (f (p.1 / 16) * 16 + p.1 % 16, p.2)),
    octets := s.octets.map (fun e => (e.1, { e.2 with queues := e.2.queues.map (fun q =>
      (q.1, q.2.map (fun j => { j with core := f j.core }))) })),
    owner := s.owner.map (fun e => match agentCore e.2 with | some c => (e.1, coreAgent (f c)) | none => e) }

/-- The good positions of a die that a map names nowhere, each with a spare key that the map leaves free: they receive no
logical number (17 R333). -/
def State.omittedBy (s : State) (t : List Nat) : List (Nat × Nat) :=
  (List.range 4).flatMap (fun d => (((s.goodOf d).filter (fun p => !t.contains p)).zipIdx).map (fun (p, j) => (960 + 16 * d + 15 - j, p)))

/-- COMMIT: check the entries in order, then load the map and hand %meshcnt to the boot agents, or record the first that
fails (17 R333). -/
def State.meshCommit (s : State) : State :=
  let t := s.mapTable
  match (List.range 1024).find? (fun i => !(s.mapEntryOk t i)) with
  | some i => (s.setMeshst 47 38 i).setMeshst 3 3 1
  | none =>
    let listed : SMap (Option Nat) := t.zipIdx.foldl (fun m (p, i) => if p = 0xFFFF then m else m.put i (some p)) []
    let rest := s.omittedBy t
    let new := rest.foldl (fun (m : SMap (Option Nat)) (e : Nat × Nat) => m.set none e.1 (some e.2)) listed
    let ren (c : Nat) : Nat := match s.logical.get none c with
      | some p => (match new.find? (fun e => e.2 == some p) with | some e => e.1 | none => c)
      | none => c
    let s := if new = s.logical then s else { s.renumber ren with logical := new }
    let s := { s with omitted := rest.foldl (fun (m : SMap Bool) (e : Nat × Nat) => m.set false e.1 true) [], bootCnt := some (bitsOf (s.sysReg 0x314).toNat 51 0) }
    ((s.setMeshst 3 3 0).setMeshst 2 2 1).bootStage 7

/-- A write of %meshctl by a core; none where it raises ILLEGAL_OPERAND, as GO and COMMIT do from any other agent than the
boot core (17 R329). -/
def State.writeMeshctl (s : State) (writer : Option Nat) (v : Word) : Option State :=
  let x := v.toNat
  if 4 ≤ x then none
  else if x = 0 then some s
  else if !(writer.any s.isBootCore) || s.meshBusy || x = 3 then none
  else if x = 1 then (if s.mapped then none else some s.meshGo)
  else some s.meshCommit

/-- Control core n starts: M-mode at %ccpc, with its number in mhartid and a0, and %meshmap in a1; one that is released
already goes on (17 R334). -/
def State.startCc (s : State) (n : Nat) : State :=
  if (s.sysReg 0x315).getLsbD n then s
  else { s with ccores := s.ccores.set none n (some { mmode := true, pc := s.sysReg 0x316, hartid := BitVec.ofNat 64 n,
                                                      a0 := BitVec.ofNat 64 n, a1 := s.sysReg 0x313 }) }

/-- A write of %ccrel; none where it raises ILLEGAL_OPERAND (17 R334). Stage 8 is reached with the first release. -/
def State.writeCcrel (s : State) (v : Word) : Option State :=
  if 2 ^ 24 ≤ v.toNat || !s.mapped then none
  else
    let s := ((List.range 24).filter (fun n => v.getLsbD n)).foldl State.startCc s
    let s := s.setSysReg 0x315 (s.sysReg 0x315 ||| v)
    some (if v = 0 then s else s.bootStage 8)

/-- A write of %measx; none where it raises ILLEGAL_OPERAND (17 R335). -/
def State.writeMeasx (s : State) (v : Word) : Option State :=
  let x := v.toNat
  let n := x % 8
  if n < 2 || bitsOf x 4 3 != 0 || 2 ^ 52 ≤ x then none
  else
    let a := bitsOf x 51 5 * 32
    some { s with meas := s.meas.set 0 n (Config.sm3 (bytesOf 32 (s.meas.get 0 n).toNat ++ s.homeBytes a 32)) }

end Sys2Proof.Machine
end

