-- ==== Sys2Proof/Machine/Operands.lean ====
section
/-! DEFINITION. Reading and writing registers and operands: general, special and late registers, handles, predicates
(02 R24 to R33, 04 R76, R77, 06 R116, 11 R233 to R236). -/

namespace Sys2Proof.Machine

/-- Why an instruction does not complete. -/
inductive Stop where
  | trap (cause val : Nat)                       -- no effect but the trap (01 R23)
  | trapAfter (s : State) (cause val : Nat)      -- a trap after steps that stay done (07 R164)
  | raise (val : Nat)                            -- RAISE: SOFTWARE, straight to containment (09 R210)
  | bkpt (val : Nat)                             -- BKPT: BREAKPOINT, which an armed core halts on (09 R210)
  | page (va : Nat) (acc : Access)               -- PAGE_FAULT, posted before it may trap (14 R292)
  | wait (run : RunState) (obj cnt : Nat)        -- the instruction waits and has no effect yet (07 R164)
  | waitAfter (s : State) (run : RunState) (obj cnt : Nat)   -- it waits for a job that it has started
  | report                                       -- reported through the guard predicate (07 R144)

/-- A step of an instruction's effect. -/
abbrev M (α : Type) := StateT State (Except Stop) α

def stop {α : Type} (x : Stop) : M α := fun _ => .error x
def trap {α : Type} (cause val : Nat) : M α := stop (.trap cause val)

/-- Cause codes (04 R84). -/
def cILLEGAL_OPCODE : Nat := 0x01
def cILLEGAL_OPERAND : Nat := 0x02
def cILLEGAL_BLOCK : Nat := 0x03
def cPRIVILEGE : Nat := 0x04
def cMISALIGNED : Nat := 0x08
def cPAGE_FAULT : Nat := 0x09
def cPROTECTION : Nat := 0x0A
def cWORLD : Nat := 0x0B
def cFORMAT : Nat := 0x0C
def cFORMAT_AXIS : Nat := 0x0D
def cNODE_RETIRED : Nat := 0x10
def cNODE_FROZEN : Nat := 0x11
def cLINEAGE_DEPTH : Nat := 0x12
def cNODE_INVALID : Nat := 0x13
def cNODE_EXHAUSTED : Nat := 0x14
def cSYMBOL_LOST : Nat := 0x18
def cPOISON : Nat := 0x19
def cHANDLE : Nat := 0x20
def cBINDING : Nat := 0x21
def cQUEUE_FULL : Nat := 0x22
def cPIN_LIMIT : Nat := 0x23
def cJOIN_COUNT : Nat := 0x24
def cSOFTWARE : Nat := 0x30
def cBREAKPOINT : Nat := 0x31
def cWATCHDOG : Nat := 0x38
def cHW_ERROR : Nat := 0x3F

def illegal {α : Type} (val : Nat) : M α := trap cILLEGAL_OPERAND val

/-- Check a condition, or raise ILLEGAL_OPERAND with a value (04 R379). -/
def require (ok : Bool) (val : Nat) : M Unit := if ok then pure () else illegal val

def getHart : M HartId := fun s => .ok (s.hart, s)
def getCtx : M Ctx := fun s => .ok (s.ctxOf s.hart, s)
def modCtx (f : Ctx → Ctx) : M Unit := fun s => .ok ((), s.setCtxOf s.hart (f (s.ctxOf s.hart)))
def getTen : M Nat := fun s => .ok (s.tenOf s.hart, s)

/-- An open value, and one picked from a list (log entry 2). -/
def freeValue : M Nat := fun s => .ok (Config.freeNat s.freeCtr, { s with freeCtr := s.freeCtr + 1 })
def pickFrom (l : List Nat) : M Nat := do
  let x ← freeValue
  pure (l.getD (x % l.length) 0)

/-- The core and thread of a core hart; an engine hart has none. -/
def coreThread : HartId → Option (Nat × Nat)
  | .core c t => some (c, t)
  | _ => none

/-! ### Flags and rounding modes -/

/-- OR flags into %flags and, for a core thread, into the cluster's accumulator of its tenant (02 R29, R30). -/
def State.raiseFlags (s : State) (h : HartId) (fl : Flags) : State :=
  if fl = 0 then s
  else
    let c := s.ctxOf h
    let s := s.setCtxOf h { c with flags := c.flags ||| fl }
    match h with
    | .core _ _ =>
      let k := clusterOf h * 32 + s.tenOf h
      { s with clflags := s.clflags.set 0 k (s.clflags.get 0 k ||| fl) }
    | _ => s

def raiseF (fl : Flags) : M Unit := fun s => .ok ((), s.raiseFlags s.hart fl)

/-- The effective mode, 0 RNE to 5 SR, of an RND field (03 R44). -/
def modeCode (c : Ctx) (rnd : Nat) : Nat := if rnd = 0 then c.rm.toNat else rnd - 1

/-- The mode of a code below 5. -/
def plainMode (k : Nat) : Mode := if k = 0 then .rne else if k = 1 then .rtz else if k = 2 then .rdn else if k = 3 then .rup else .rna

/-- The mode for one element result: under SR a draw is taken where the result is rounded, that is, finite (03 R45). -/
def modeFor (rnd : Nat) (rounds : Bool) : M Mode := do
  let c ← getCtx
  let k := modeCode c rnd
  if k < 5 then pure (plainMode k)
  else if rounds then do
    let d := xorshift c.srseed
    modCtx (fun c => { c with srseed := d })
    pure (.sr d.toNat)
  else pure .rne

/-- Round one element result: k gives the result under a mode; the result takes part in the draws where it is finite. -/
def roundWith (f : FFmt) (rnd : Nat) (k : Mode → Rd) : M Nat := do
  let finite := match decodeF f (k .rtz).bits with | .fin _ _ _ => true | _ => false
  let m ← modeFor rnd finite
  let r := k m
  raiseF r.fl
  pure r.bits

/-! ### Lanes (02 R25, R28) -/

/-- The lane width in bits, and Lanes(). -/
def laneWidth (c : Ctx) : Nat := if c.fmt.toNat % 4 = 0 then 8 else if c.fmt.toNat % 4 = 1 then 16 else 32
def lanes (c : Ctx) : Nat := 2048 / laneWidth c
/-- The lane format, bits 5:2 of %fmt. -/
def laneFmt (c : Ctx) : Nat := c.fmt.toNat / 4
def laneSigned (c : Ctx) : Bool := laneFmt c != 1
/-- The floating-point lane format, if it is one. -/
def laneFloat (c : Ctx) : Option FFmt :=
  let k := laneFmt c
  if k = 2 then some fp16 else if k = 3 then some bf16 else if k = 4 then some fp32
  else if k = 5 then some e4m3 else if k = 6 then some e5m2 else none

/-- The elements of a number, element 0 first. -/
def elems (w n x : Nat) : List Nat := (List.range n).map (fun i => elemOf x w i)

/-- A predicate with bits n−1:0 set. -/
def onesBelow (n : Nat) : Pred := BitVec.ofNat 256 (2 ^ n - 1)

/-! ### Late registers (02 R33; 11 R233 to R240) -/

/-- The key of a late entry. -/
def lateKeyS (n : Nat) : Nat := n
def lateKeyV (n : Nat) : Nat := 64 + n

/-- A symbol of a core. -/
def State.sym (s : State) (core i : Nat) : Option Sym := s.syms.get none (core * 256 + i)
def State.setSym (s : State) (core i : Nat) (x : Option Sym) : State := { s with syms := s.syms.set none (core * 256 + i) x }

/-- The cause of a late register's poisoned symbol. -/
def State.poisonOf (s : State) (h : HartId) (l : Late) : Option Nat :=
  match coreThread h with
  | some (c, _) => (match s.sym c l.sym with
    | some y => (match y.state with | .poison k => some k | _ => none)
    | none => none)
  | none => none

/-- The symbols that a context's late registers refer to, without repeats. -/
def Ctx.symRefs (c : Ctx) : List Nat :=
  c.late.foldl (fun l e => match e.2 with | some x => if l.contains x.sym then l else l ++ [x.sym] | none => l) []

/-- Free a symbol that no register of the hart refers to (11 R233). -/
def State.freeUnref (s : State) (h : HartId) (i : Nat) : State :=
  match coreThread h with
  | some (c, _) => if (s.ctxOf h).symRefs.contains i then s else s.setSym c i none
  | none => s

/-- Set or clear the late entry of a register; a symbol that loses its last reference is freed (11 R233). -/
def State.setLate (s : State) (h : HartId) (key : Nat) (x : Option Late) : State :=
  let c := s.ctxOf h
  let old := c.late.get none key
  let s := s.setCtxOf h { c with late := c.late.set none key x }
  match old with
  | some l => s.freeUnref h l.sym
  | none => s

/-- A blocking use of a register: it waits while the register is late, and traps on a poisoned symbol (11 R239, R240). That
the wait object is the symbol's index is the model's choice (log entry 91). -/
def needPresent (key : Nat) : M Unit := fun s =>
  match (s.ctxOf s.hart).late.get none key with
  | none => .ok ((), s)
  | some l =>
    match s.poisonOf s.hart l with
    | some k => .error (.trap cSYMBOL_LOST (l.sym + 256 * k))
    | none => .error (.wait .waitLate l.sym 0)

/-! ### General registers (02 R24) -/

/-- Scalar register n of a context; s0 reads zero. -/
def Ctx.getS (c : Ctx) (n : Nat) : Word := if n = 0 then 0 else c.s.get 0 n
def Ctx.getV (c : Ctx) (n : Nat) : Vec := c.v.get 0 n
/-- Predicate register n of a context; p0 reads all ones. -/
def Ctx.getP (c : Ctx) (n : Nat) : Pred := if n = 0 then BitVec.allOnes 256 else c.p.get 0 n

/-- Write scalar register n of a hart: it becomes present; a write to s0 is discarded. -/
def State.writeS (s : State) (h : HartId) (n : Nat) (x : Word) : State :=
  if n = 0 then s
  else
    let s := s.setLate h (lateKeyS n) none
    let c := s.ctxOf h
    s.setCtxOf h { c with s := c.s.set 0 n x }

def State.writeV (s : State) (h : HartId) (n : Nat) (x : Vec) : State :=
  let s := s.setLate h (lateKeyV n) none
  let c := s.ctxOf h
  s.setCtxOf h { c with v := c.v.set 0 n x }

def State.writeP (s : State) (h : HartId) (n : Nat) (x : Pred) : State :=
  if n = 0 then s
  else
    let c := s.ctxOf h
    s.setCtxOf h { c with p := c.p.set 0 n x }

/-- A register becomes late with a transform (11 R235). -/
def State.writeLate (s : State) (h : HartId) (key : Nat) (l : Late) : State :=
  if key = 0 then s else s.setLate h key (some l)

def readS (n : Nat) : M Word := do
  if n = 0 then pure 0
  else do
    needPresent (lateKeyS n)
    let c ← getCtx
    pure (c.getS n)

def readV (n : Nat) : M Vec := do
  needPresent (lateKeyV n)
  let c ← getCtx
  pure (c.getV n)

def readP (n : Nat) : M Pred := do
  let c ← getCtx
  pure (c.getP n)

def writeS (n : Nat) (x : Word) : M Unit := fun s => .ok ((), s.writeS s.hart n x)
def writeV (n : Nat) (x : Vec) : M Unit := fun s => .ok ((), s.writeV s.hart n x)
def writeP (n : Nat) (x : Pred) : M Unit := fun s => .ok ((), s.writeP s.hart n x)

/-! ### Special registers (02 R27 to R30; 12 R252; 14 R279; 17 R326 to R335) -/

/-- Package time as its readers see it: %time, TIME, WAITT, the prefix index, and the `time` CSR and mtime of a control core
(18 R336, R337). -/
def State.timeNow (s : State) : Nat := s.time % 2 ^ 64

/-- A PC value as a register may hold it: a slot of 0 to 4, bits 5:3 and 63:48 zero (04 R69, 02 R27). -/
def pcOk (x : Nat) : Bool := x < 2 ^ 48 && x % 8 < 5 && bitsOf x 5 3 == 0

/-- The register pairs of %fmt that are legal (02 R28). -/
def fmtLegal (x : Nat) : Bool :=
  x < 64 && (match x / 4 with
    | 0 => x % 4 < 3
    | 1 => x % 4 < 3
    | 2 => x % 4 == 1
    | 3 => x % 4 == 1
    | 4 => x % 4 == 2
    | 5 => x % 4 == 0
    | 6 => x % 4 == 0
    | _ => false)

/-- Symbols of a core that are in use. -/
def State.symsUsed (s : State) (core : Nat) : Nat := ((List.range 256).filter (fun i => (s.sym core i).isSome)).length

/-- %symfree: free entries, unused quota, quota (02 R27). -/
def State.symFree (s : State) (h : HartId) : Nat :=
  match coreThread h with
  | some (c, _) =>
    let x := s.ctxOf h
    (256 - s.symsUsed c) + (x.quota.toNat - x.symRefs.length) * 2 ^ 16 + x.quota.toNat * 2 ^ 24
  | none => 0

/-- The tag of a tile names a version that its node no longer has (12 R247). -/
def State.tileStale (s : State) (g : TileTag) : Bool := (s.node g.ten g.node).version != g.ver

/-- Resident tiles: those that carry the tag of their node's version (12 R247, R252). -/
def State.residentTiles (s : State) (o : Nat) : Nat :=
  ((s.octet o).tiles.filter (fun e => match e.2 with
    | some t => (match t.tag with | some g => !(s.tileStale g) | none => false)
    | none => false)).length

/-- The special registers that an engine hart, or a register marked WO, gives no value to: they read an open value in the
bits that are not marked zero. -/
def specialOpen (h : HartId) (n : Nat) : Bool :=
  n == 0x310 || n == 0x315 || n == 0x318
    || (match h with | .core _ _ => false | _ => [0x010, 0x011, 0x015, 0x035, 0x050, 0x060, 0x100, 0x101, 0x102].contains n)

/-- The value of a special register, as a thread of hart h reads it. -/
def State.special (s : State) (h : HartId) (n : Nat) : Nat :=
  let c := s.ctxOf h
  let core := match h with | .core c _ => c | _ => 0
  let ten := s.tenOf h
  let isCore := match h with | .core _ _ => true | _ => false
  match n with
  | 0x001 => c.fmt.toNat
  | 0x002 => c.rm.toNat
  | 0x003 => c.flags.toNat
  | 0x004 => c.srseed.toNat
  | 0x010 => match h with | .core _ t => t | _ => 0
  | 0x011 => s.cidOf core
  | 0x012 => if isCore then octetOfCore (s.cidOf core) else octetOf h
  | 0x013 => if isCore then clusterOfCore (s.cidOf core) else clusterOf h
  | 0x014 => if isCore then dieOfCore (s.cidOf core) else dieOf h
  | 0x015 => (s.logical.get none core).getD 0
  | 0x016 => ten % 16
  | 0x020 => (s.aclk.get 0 (dieOf h) - (if isCore then (s.core core).cycle0 else 0)) % 2 ^ 64
  | 0x021 => s.timeNow
  | 0x030 => c.frame.toNat
  | 0x031 => c.joinc.toNat
  | 0x032 => c.policy.toNat
  | 0x033 => c.lo.toNat
  | 0x034 => c.hi.toNat
  | 0x035 => c.launch.toNat
  | 0x040 => c.tvec.toNat
  | 0x041 => c.cause.toNat
  | 0x042 => c.epc.toNat
  | 0x043 => c.eval.toNat
  | 0x050 => s.symFree h
  | 0x060 => (s.clflags.get 0 (clusterOf h * 32 + ten)).toNat
  | 0x100 => s.slices.get 0 core - s.time
  | 0x101 => (s.preempts.get 0 (tcKey ten core)).toNat
  | 0x102 => (s.undeliv.get 0 (tcKey ten core)).toNat
  | 0x200 => (s.octet (octetOf h)).mewt.toNat
  | 0x201 => s.residentTiles (octetOf h)
  | n => (s.sysReg n).toNat

/-- The bits of a register that are not marked zero (00 R8; 02 R27; 14 R279; 17 R329, R334, R335). -/
def openMask (n : Nat) : Nat :=
  match n with
  | 0x010 => 15
  | 0x011 => 1023
  | 0x015 => 1023
  | 0x050 => 0xFFFF01FF
  | 0x060 => 63
  | 0x101 => 2 ^ 32 - 1
  | 0x102 => 2 ^ 32 - 1
  | 0x310 => 3
  | 0x315 => 2 ^ 24 - 1
  | 0x318 => 2 ^ 52 - 32 + 7
  | _ => 2 ^ 64 - 1

def readSpecial (n : Nat) : M Word := do
  let h ← getHart
  if specialOpen h n then do
    let x ← freeValue
    pure (BitVec.ofNat 64 x &&& BitVec.ofNat 64 (openMask n))
  else fun s => .ok (BitVec.ofNat 64 (s.special h n), s)

/-- A write of a special register of a hart, made by the hart that moves; none where the value is reserved, which raises
ILLEGAL_OPERAND and leaves the register unchanged (02 R27 to R29; 04 R70; 12 R252; 17 R329, R334, R335). -/
def State.setSpecial (s : State) (h : HartId) (n : Nat) (v : Word) : Option State :=
  let c := s.ctxOf h
  let x := v.toNat
  let put (ok : Bool) (c : Ctx) : Option State := if ok then some (s.setCtxOf h c) else none
  match n with
  | 0x001 => put (fmtLegal x) { c with fmt := BitVec.ofNat 6 x }
  | 0x002 => put (x < 6) { c with rm := BitVec.ofNat 3 x }
  | 0x003 =>
    if 64 ≤ x then none
    else some ((s.setCtxOf h { c with flags := 0 }).raiseFlags h (BitVec.ofNat 6 x))
  | 0x004 => put (0 < x && x < 2 ^ 32) { c with srseed := BitVec.ofNat 32 x }
  | 0x030 => put true { c with frame := v }
  | 0x031 => put true { c with joinc := v }
  | 0x040 => put (pcOk x) { c with tvec := v }
  | 0x041 => put (x < 256) { c with cause := BitVec.ofNat 8 x }
  | 0x042 => put (x % 8 ≤ 4) { c with epc := v }
  | 0x043 => put true { c with eval := v }
  | 0x200 =>
    if x < 2 ^ 32 && (List.range 8).all (fun j => elemOf x 4 j != 0)
    then some (s.setOctet (octetOf h) { s.octet (octetOf h) with mewt := BitVec.ofNat 32 x }) else none
  | 0x310 => s.writeMeshctl (match s.hart with | .core c _ => some c | _ => none) v
  | 0x312 => if x < 2 ^ 52 && x % 2048 == 0 then some (s.setSysReg 0x312 v) else none
  | 0x313 => if x < 2 ^ 52 && x % 2048 == 0 then some (s.setSysReg 0x313 v) else none
  | 0x314 => if x < 2 ^ 52 && x % 8 == 0 then some (s.setSysReg 0x314 v) else none
  | 0x315 => s.writeCcrel v
  | 0x316 => if x < 2 ^ 52 && x % 4 == 0 then some (s.setSysReg 0x316 v) else none
  | 0x318 => s.writeMeasx v
  | _ => none

/-- Some vector register is late. -/
def Ctx.anyLateV (c : Ctx) : Bool := c.late.any (fun e => 64 ≤ e.1 && e.2.isSome)

/-- A write to %fmt waits while a vector register of the thread is late (11 R238). -/
def writeSpecial (n : Nat) (v : Word) : M Unit := do
  let h ← getHart
  let c ← getCtx
  if n = 0x001 && c.anyLateV then
    match c.late.find? (fun e => 64 ≤ e.1 && e.2.isSome) with
    | some e => needPresent e.1
    | none => pure ()
  fun s => match s.setSpecial h n v with
    | some s => .ok ((), s)
    | none => .error (.trap cILLEGAL_OPERAND v.toNat)

/-! ### Operand fields (04 R76) -/

/-- An integer source operand. A predicate, handle or vector field is not one and reads zero. -/
def readOp : Operand → M Word
  | .s n => readS n.toNat
  | .x n => readSpecial n.toNat
  | .imm v => pure (v.signExtend 64)
  | .w e => readS (2 * e.toNat)
  | _ => pure 0

/-- U(x) of an integer source. -/
def readNat (o : Operand) : M Nat := do
  let x ← readOp o
  pure x.toNat

/-- The two words of a pair (04 R75). -/
def readPair : Operand → M (Word × Word)
  | .w e => do
    let a ← readS (2 * e.toNat)
    let b ← readS (2 * e.toNat + 1)
    pure (a, b)
  | _ => pure (0, 0)

/-- Write an integer destination (01 R23). -/
def writeOp (o : Operand) (x : Word) : M Unit :=
  match o with
  | .s n => writeS n.toNat x
  | .x n => writeSpecial n.toNat x
  | .w e => writeS (2 * e.toNat) x
  | _ => pure ()

def writePair (o : Operand) (a b : Word) : M Unit :=
  match o with
  | .w e => do
    writeS (2 * e.toNat) a
    writeS (2 * e.toNat + 1) b
  | _ => pure ()

/-- A predicate destination set to x in bits Lanes()−1:0 (02 R25). -/
def writePredBool (o : Operand) (x : Bool) : M Unit :=
  match o with
  | .p n => do
    let c ← getCtx
    writeP n.toNat (if x then onesBelow (lanes c) else 0)
  | _ => pure ()

/-- The vector register that a field names. -/
def readVecReg : Operand → M Vec
  | .v n => readV n.toNat
  | _ => pure 0

/-! ### Handles (02 R26; 06 R116; 09 R206) -/

/-- A channel descriptor of the tenant that core c runs. -/
def State.chan (s : State) (c e : Nat) : Chan := s.chans.get Chan.zero (tcKey (s.core c).tenant c * 64 + e)
def State.setChan (s : State) (c e : Nat) (x : Chan) : State :=
  { s with chans := s.chans.set Chan.zero (tcKey (s.core c).tenant c * 64 + e) x }

def Chan.slots (x : Chan) : Nat := 2 ^ x.lcnt
def Chan.slotSize (x : Chan) : Nat := 2 ^ x.lsz
def Chan.filled (x : Chan) : Nat := (x.wp - x.rp).toNat
def Chan.empty (x : Chan) : Nat := x.slots - x.filled
/-- The scratchpad offset of slot j of the ring. -/
def Chan.slotOff (x : Chan) (j : Nat) : Nat := x.base + j % x.slots * x.slotSize

/-- The descriptor entry that a bound handle names; an unbound one raises HANDLE with its number (02 R26, 04 R379). -/
def handleEntry (n : Nat) : M Nat := do
  let c ← getCtx
  match c.handles.get none n with
  | some e => pure e
  | none => trap cHANDLE n

/-- The channel of a bound handle on the issuing core. -/
def chanOf (n : Nat) : M (Nat × Chan) := do
  let e ← handleEntry n
  let h ← getHart
  match h with
  | .core c _ => fun s => .ok ((e, s.chan c e), s)
  | _ => trap cHANDLE n

/-- Wake the threads of a core that wait on a channel, each by the handle it recorded: they are ready to re-evaluate their condition (07 R161). -/
def State.wakeChan (s : State) (c e : Nat) : State :=
  (List.range 16).foldl (fun s t =>
    let x := s.thread c t
    if x.ctx.run = .waitChannel ∧ x.ctx.handles.get none x.ctx.waitObj.toNat = some e then
      s.setThread c t { x with ctx := { x.ctx with run := .ready }, stamp := s.aclk.get 0 (dieOfCore c) } else s) s

end Sys2Proof.Machine
end

