-- ==== Sys2Proof/Machine/Access.lean ====
section
/-! DEFINITION. Data accesses: the checks of 07 R142 in their order, reads and writes through the L1, at the homes, in
scratchpads and through lineage apertures; write-back and self-invalidation (07 R143, R146, R151, R152; 10 R219). -/

namespace Sys2Proof.Machine

/-- The access writes. -/
def Access.writes : Access → Bool
  | .write => true
  | .atomic => true
  | _ => false

/-- The package p cannot be reached: its route mask is empty, or all of its ports are down (18 R348). -/
def State.unreachable (s : State) (p : Nat) : Bool :=
  let mask := (s.ctlWord (0x10000 + 8 * p)).toNat
  !((List.range 24).any (fun i => mask.testBit i && !(s.portDown.get false i)))

/-- The formats that a path refuses: whether the page is an aperture, and its attributes. -/
abbrev Refuse := Bool → Page → Bool

/-- An access of raw bytes refuses nothing. -/
def anyPage : Refuse := fun _ _ => false
/-- An atomic, and REL, STR, ACQ, WAITW and JOIN, refuse an aperture and a KV4 page (07 R142). -/
def homePage : Refuse := fun ln pg => ln || pg.fmt == 13
/-- An access of RAW bytes only, as of scale bytes (03 R55). -/
def rawPage : Refuse := fun _ pg => pg.fmt != 0

/-- The checks of an aperture onto node n, in the order of 07 R142. `mid` stands after the FORMAT check: the alignment
of a form whose element size the page's format gives. -/
def checkNode (va n : Nat) (pg : Page) (acc : Access) (refuse : Refuse) (mid : Page → M Unit) : M Unit := do
  let ten ← getTen
  let s ← get
  let d := s.node ten n
  let bad := s.nodeInvalid ten n
  if pg.s != s.frameWorld (s.nodeTable ten) then trap cWORLD va
  if acc.writes && !pg.w then trap cPROTECTION va
  if fmtReserved pg.fmt || refuse true pg || pg.home != 0 || pg.nc || (!bad && (pg.fmt != d.fmt || pg.geom != d.geom)) then
    trap cFORMAT va
  mid pg
  if bad then trap cNODE_INVALID va
  if d.state == 3 then trap cNODE_RETIRED va
  if acc.writes then
    if d.state == 2 || d.job == 1 then trap cNODE_FROZEN va
    if d.job != 0 then stop (.wait .waitJob n 0)

/-- Where an address leads, or a page fault: no valid entry, an unlisted region, or a byte beyond a node's lines
(07 R142, 13 R265, 18 R339). -/
def findPage (va : Nat) (acc : Access) : M (Loc × Page) := do
  if 2 ^ 48 ≤ va then stop (.page va acc)
  let h ← getHart
  let ten ← getTen
  let r ← (fun s => let (s, r) := s.locate h ten va; .ok (r, s) : M (Option (Loc × Page)))
  match r with
  | none => stop (.page va acc)
  | some (loc, pg) => do
    let s ← get
    match loc with
    | .ln n off => if !s.nodeInvalid ten n && 256 * (s.node ten n).lines ≤ off then stop (.page va acc)
    | .scr _ _ => pure ()
    | .dev pa =>
      let reg := s.regionOf pa
      if reg == .unlisted || reg == .control || pg.home == 3 then stop (.page va acc)
    pure (loc, pg)

/-- The access checks of 07 R142 but poison: where the address leads and its page. `shadow` gives the address of the scale
byte, whose page must be mapped too (03 R55); `mid` is the alignment check of a form whose element size the page's format
gives, after the FORMAT check. -/
def checkShadowed (va : Nat) (acc : Access) (refuse : Refuse) (shadow : Loc → Page → Option Nat) (mid : Page → M Unit) :
    M (Loc × Page) := do
  let ten ← getTen
  let (loc, pg) ← findPage va acc
  match shadow loc pg with
  | some sva => do
    let _ ← findPage sva acc
    pure ()
  | none => pure ()
  let s ← get
  match loc with
  | .ln n _ => checkNode va n pg acc refuse mid
  | .scr _ _ => do
    if refuse false pg then trap cFORMAT va
    mid pg
  | .dev pa =>
    if ten != 16 && pg.s != s.frameWorld pa then trap cWORLD va
    if acc.writes && !pg.w then trap cPROTECTION va
    if fmtReserved pg.fmt || refuse false pg then trap cFORMAT va
    mid pg
    match s.regionOf pa with
    | .peer p => if s.unreachable p then trap cHW_ERROR va
    | _ => pure ()
  pure (loc, pg)

def checkAccess (va : Nat) (acc : Access) (refuse : Refuse) : M (Loc × Page) :=
  checkShadowed va acc refuse (fun _ _ => none) (fun _ => pure ())

/-- Check alignment. -/
def aligned (va n : Nat) : M Unit := if va % n = 0 then pure () else trap cMISALIGNED va

/-- The L1 holds words of this page for this hart: device memory with NC = 0, read by a core (10 R216, R227). -/
def State.cached (s : State) (h : HartId) (pa : Nat) (pg : Page) : Bool :=
  !pg.nc && (match h with | .core _ _ => true | _ => false)
    && (match s.regionOf pa with | .hbm => true | .cxl => true | _ => false)

/-- Load one word through the L1, filling its sector on a miss (10 R219). -/
def State.l1Load (s : State) (core ten w : Nat) : State × L1Word :=
  let s := if (s.l1Get core w).isNone then s.fill core ten w else s
  (s, (s.l1Get core w).getD { value := 0, dirty := false, own := false, poison := false, ten := ten })

/-- Read n bytes at a physical address through the L1, word by word: the bytes and whether one was poisoned. A load
whose words are all valid counts as a hit (20 R374). -/
def State.l1Read (s : State) (core ten pa n : Nat) : State × List Byte × Bool :=
  let s := if (wordsOf pa n).all (fun w => (s.l1Get core w).isSome) then s.countCore core 19 1 else s
  let r := (wordsOf pa n).foldl (fun (r : State × List Byte × Bool) w =>
    let (s, x) := r.1.l1Load core ten w
    (s, r.2.1 ++ bytesOf 8 x.value.toNat, r.2.2 || x.poison)) (s, [], false)
  (r.1, (r.2.1.drop (pa % 8)).take n, r.2.2)

/-- Read n bytes at a physical address by a load whose hint keeps it out of the L1: a word that is not valid there comes
from its home, and is not kept (07 R146). -/
def State.onceRead (s : State) (core pa n : Nat) : List Byte × Bool :=
  let r := (wordsOf pa n).foldl (fun (r : List Byte × Bool) w => match s.l1Get core w with
    | some x => (r.1 ++ bytesOf 8 x.value.toNat, r.2 || x.poison)
    | none => (r.1 ++ bytesOf 8 (s.homeWord w).toNat, r.2 || s.poison.get false w)) ([], false)
  ((r.1.drop (pa % 8)).take n, r.2)

/-- The path of a read: through the L1, through the L1 without allocating, or at the home. -/
inductive Path where
  | l1 | once | home
  deriving DecidableEq, Repr

/-- Read n bytes of one page by the path of 10 R216: the bytes, and whether one was poisoned. -/
def fetchLoc (loc : Loc) (pg : Page) (n : Nat) (path : Path) : M (List Byte × Bool) := do
  let h ← getHart
  let ten ← getTen
  let s ← get
  let core := match h with | .core c _ => c | _ => 0
  match loc with
  | .dev pa =>
    if s.regionOf pa == .pcie then do
      let x ← freeValue
      pure (bytesOf n x, false)
    else if s.cached h pa pg && path != .home then
      if path == .once then pure (s.onceRead core pa n)
      else do
        let (s, bs, bad) := s.l1Read core ten pa n
        set s
        pure (bs, bad)
    else pure (s.homeBytes pa n, s.homePoisoned pa n)
  | .scr key off => pure (s.scrBytes key off n, s.scrPoisoned key off n)
  | .ln node off =>
    match s.nodeBytes ten node off n with
    | some bs => pure (bs, false)
    | none => pure (List.replicate n 0, true)

/-- A read whose poisoned data raises POISON with address va (07 R142). -/
def readLoc (va : Nat) (loc : Loc) (pg : Page) (n : Nat) (path : Path) : M (List Byte) := do
  let (bs, bad) ← fetchLoc loc pg n path
  if bad then trap cPOISON va
  pure bs

/-- Store bytes into the L1, word by word (10 R219). -/
def State.l1Write (s : State) (core ten pa : Nat) (bs : List Byte) : State :=
  (wordsOf pa bs.length).foldl (fun s w =>
    let lo := if 8 * w < pa then pa - 8 * w else 0
    let from_ := 8 * w + lo - pa
    s.l1Store core ten w lo ((bs.drop from_).take (8 - lo))) s

/-- Update the copies that an L1 holds of the words written through to the home (07 R146). The core owns the home's word
now; a copy counts as owned only where the store wrote the whole word, since other bytes of it may be older than the home's
(10 R219, R230). -/
def State.l1Refresh (s : State) (core pa : Nat) (bs : List Byte) : State :=
  (wordsOf pa bs.length).foldl (fun s w =>
    let k := l1Key (s.l1Of core w) w
    match s.l1.get none k with
    | some x =>
      let lo := if 8 * w < pa then pa - 8 * w else 0
      let part := (bs.drop (8 * w + lo - pa)).take (8 - lo)
      { s with l1 := s.l1.set none k (some { x with value := patchWord x.value lo part, own := x.own || part.length == 8,
                                                    poison := x.poison && part.length < 8 }) }
    | none => s) s

/-- Write bytes of one page. `through` writes the home too, as STWT (07 R146); a store to a page with NC = 1 does so, and
changes a copy that the L1 holds by another mapping (10 R216). Memory of another package is not held in the L1. An aperture
store does not bump the node: the caller bumps it once for the instruction (08 R172). A line with CODE 11 is poisoned
(13 R267). -/
def writeLoc (va : Nat) (loc : Loc) (pg : Page) (bs : List Byte) (through : Bool) : M Unit := do
  let h ← getHart
  let ten ← getTen
  let s ← get
  let core := match h with | .core c _ => c | _ => 0
  match loc with
  | .dev pa =>
    match s.regionOf pa with
    | .pcie => pure ()
    | .peer _ =>
      let s := s.homeWrite (agentOf h) pa bs
      set (match h with | .core c t => { s with peerStores := s.peerStores ++ [(c * 16 + t, va)] } | _ => s)
    | _ =>
      if s.cached h pa pg && !through then set (s.l1Write core ten pa bs)
      else
        let s := s.homeWrite (agentOf h) pa bs
        set (match h with | .core c _ => s.l1Refresh c pa bs | _ => s)
  | .scr key off => set (s.scrWrite key off bs)
  | .ln node off =>
    if s.deadLine ten node off bs.length then trap cPOISON va
    match s.nodeStore ten node off bs (bs.length + 1) with
    | some s => set s
    | none => trap cNODE_EXHAUSTED va

/-- Bump the node of an aperture once (08 R172). -/
def bumpLoc (loc : Loc) : M Unit := do
  let ten ← getTen
  match loc with
  | .ln node _ => modify (fun s => s.bump ten node)
  | _ => pure ()

/-- A scalar load's n bytes at va as an unsigned number (07 R146). -/
def loadNat (va n : Nat) (path : Path) : M Nat := do
  aligned va n
  let (loc, pg) ← checkAccess va .read anyPage
  let bs ← readLoc va loc pg n path
  pure (ofBytes bs)

/-- A block of bytes by the ordinary load path, aligned as the entry requires. -/
def loadBytes (va n align : Nat) : M (List Byte) := do
  aligned va align
  let (loc, pg) ← checkAccess va .read anyPage
  readLoc va loc pg n .l1

/-- The checks of an access at the home of a word, as an atomic's, ACQ's or WAITW's (07 R142). -/
def homeLoc (va align : Nat) (acc : Access) : M (Loc × Page) := do
  aligned va align
  checkAccess va acc homePage

/-- The checks of a read at the home that no rule keeps from an aperture or a KV4 page, as LDA's, CUCQ's and CUWAIT's. -/
def homeReadLoc (va align : Nat) : M (Loc × Page) := do
  aligned va align
  checkAccess va .read anyPage

/-- Write back this core's dirty copy of a word and drop its L1 copy, before a home access (07 R149). -/
def flushCopy (loc : Loc) : M Unit := do
  let h ← getHart
  match h, loc with
  | .core c _, .dev pa => modify (fun s =>
      let k := l1Key (s.l1Of c (pa / 8)) (pa / 8)
      let s := s.writeBackKey k
      { s with l1 := s.l1.set none k none })
  | _, _ => pure ()

/-- Write at the home of a word (or in a scratchpad copy). -/
def writeHome (va : Nat) (loc : Loc) (pg : Page) (bs : List Byte) : M Unit := do
  let h ← getHart
  let s ← get
  match loc with
  | .dev pa =>
    match s.regionOf pa with
    | .pcie => pure ()
    | .peer _ =>
      let s := s.homeWrite (agentOf h) pa bs
      set (match h with | .core c t => { s with peerStores := s.peerStores ++ [(c * 16 + t, va)] } | _ => s)
    | _ => set (s.homeWrite (agentOf h) pa bs)
  | .scr key off => set (s.scrWrite key off bs)
  | .ln _ _ => writeLoc va loc pg bs true

/-! ### Address ranges in physical memory -/

/-- The physical ranges behind the virtual range [va, va + len), one part per 4 KiB; pages that do not lead to device
memory give none. -/
def State.physRanges (s : State) (h : HartId) (ten va len : Nat) : List (Nat × Nat) :=
  (List.range ((va + len + 4095) / 4096 - va / 4096)).filterMap (fun i =>
    let a := max va ((va / 4096 + i) * 4096)
    let b := min (va + len) ((va / 4096 + i + 1) * 4096)
    match (s.locate h ten a).2 with
    | some (.dev pa, _) => some (pa, b - a)
    | _ => none)

/-- The scale-shadow shift s of a GEOM code: 3, 4, 5 or 6 for L = 16 to 128 (03 R55). -/
def shadowShift (geom : Nat) : Nat := 3 + geom % 4

/-- The scale shadow base of a tenant (14 R277). -/
def State.ssb (s : State) (ten : Nat) : Nat := s.descWord ten 1

/-- The physical ranges of a bound region, the scale bytes of its BS4 blocks included (03 R56). -/
def State.regionRanges (s : State) (h : HartId) (ten va len : Nat) : List (Nat × Nat) :=
  s.physRanges h ten va len ++
  (List.range ((va + len + 4095) / 4096 - va / 4096)).flatMap (fun i =>
    let a := max va ((va / 4096 + i) * 4096)
    let b := min (va + len) ((va / 4096 + i + 1) * 4096)
    match (s.locate h ten a).2 with
    | some (.dev _, pg) =>
      if pg.fmt = 12 then
        let sh := 2 ^ shadowShift pg.geom
        s.physRanges h ten (s.ssb ten + a / sh) ((b + sh - 1) / sh - a / sh)
      else []
    | _ => [])

/-- Word w meets one of the ranges. -/
def inRanges (rs : List (Nat × Nat)) (w : Nat) : Bool := rs.any (fun r => r.1 < 8 * w + 8 && 8 * w < r.1 + r.2)

/-- Line of word w meets one of the ranges. -/
def lineInRanges (rs : List (Nat × Nat)) (w : Nat) : Bool :=
  rs.any (fun r => r.1 < w / 32 * 256 + 256 && w / 32 * 256 < r.1 + r.2)

/-- The keys of a core's L1 words that meet a test on their word index. -/
def State.l1Select (s : State) (core : Nat) (p : Nat → L1Word → Bool) : List Nat :=
  let members := s.l1Members core
  (SMap.keys s.l1).filter (fun k => members.contains (k / 2 ^ 49) && (match s.l1.get none k with
    | some x => p (k % 2 ^ 49) x
    | none => false))

/-- Write back the selected dirty words of a core's L1. -/
def State.writeBackSel (s : State) (core : Nat) (p : Nat → L1Word → Bool) : State :=
  (s.l1Select core (fun w x => x.dirty && p w x)).foldl State.writeBackKey s

/-- Self-invalidate the selected words of a core's L1 (07 R143). -/
def State.selfInvalSel (s : State) (core : Nat) (p : Nat → L1Word → Bool) : State :=
  (s.l1Select core p).foldl State.selfInvalKey s

/-- The regions that a thread binds to an object (07 R150, R151). -/
def State.boundRanges (s : State) (h : HartId) (ten obj : Nat) : List (Nat × Nat) :=
  match h with
  | .core c t =>
    ((s.bindings.get [] (tcKey ten c)).filter (fun b => b.thread == t && b.obj == obj && !b.suspended)).flatMap
      (fun b => s.regionRanges h ten b.base b.len)
  | _ => []

/-- WriteBack of every region that the thread binds to an object. -/
def writeBackBound (obj : Nat) : M Unit := fun s =>
  match s.hart with
  | .core c _ =>
    let rs := s.boundRanges s.hart (s.tenOf s.hart) obj
    .ok ((), s.writeBackSel c (fun w _ => inRanges rs w))
  | _ => .ok ((), s)

/-- SelfInvalidate of every line of the regions that the thread binds to an object. -/
def selfInvalBound (obj : Nat) : M Unit := fun s =>
  match s.hart with
  | .core c _ =>
    let rs := s.boundRanges s.hart (s.tenOf s.hart) obj
    .ok ((), s.selfInvalSel c (fun w _ => lineInRanges rs w))
  | _ => .ok ((), s)

/-- The release part of a fence (07 R152): at CORE and wider the L1's dirty words of the tenant are written back. -/
def State.releasePart (s : State) (h : HartId) (scope : Nat) : State :=
  match h with
  | .core c _ => if scope = 0 then s else s.writeBackSel c (fun _ x => x.ten == s.tenOf h)
  | _ => s

/-- The acquire part of a fence (07 R152): at CLUSTER every non-owned word is self-invalidated unless the L1 is fused,
at DIE and wider always, after the port writes in the die's ingress have been performed (10 R228). -/
def State.acquirePart (s : State) (h : HartId) (scope : Nat) : State :=
  let s := if scope < 3 then s else s.drainIngress (dieOf h)
  match h with
  | .core c _ =>
    if scope < 2 ∨ (scope = 2 ∧ s.fused.get false (clusterOfCore c) = true) then s
    else s.selfInvalSel c (fun _ _ => true)
  | _ => s

/-- A release part within an instruction: a DOMAIN release waits for the acknowledgements of the thread's stores to
other packages (07 R152, 18 R348). -/
def fenceRelease (scope : Nat) : M Unit := fun s =>
  match s.hart with
  | .core c t =>
    match (if scope = 5 then s.peerStores.find? (fun p => p.1 == c * 16 + t) else none) with
    | some p => .error (.wait .waitAcq p.2 1)
    | none => .ok ((), s.releasePart s.hart scope)
  | _ => .ok ((), s)

def fenceAcquire (scope : Nat) : M Unit := fun s => .ok ((), s.acquirePart s.hart scope)

end Sys2Proof.Machine
end

