-- ==== Sys2Proof/Machine/Late.lean ====
section
/-! DEFINITION. Late values: symbols, composition, and the replay of a register's transform (02 R33, 07 R155, 11). -/

namespace Sys2Proof.Machine

/-- Count an event of the thread that issues. -/
def countT (i : Nat) : M Unit := fun s => match s.hart with
  | .core c t => .ok ((), s.countThread c t i 1)
  | _ => .ok ((), s)

/-! ### Allocation (11 R233, R234) -/

/-- The free entries of the core's table, and none where the quota is used. `least` is 1 for SYSC, whose quota of 0 counts
as 1. -/
def symRoom (least : Nat) : M (List Nat) := do
  let h ← getHart
  let c ← getCtx
  let s ← get
  match h with
  | .core k _ =>
    if max c.quota.toNat least ≤ c.symRefs.length then pure []
    else pure ((List.range 256).filter (fun i => (s.sym k i).isNone))
  | _ => pure []

/-- Allocate a symbol PENDING for the issuing thread: a free entry of the core's table and unused quota, or the
instruction waits in WAIT_LATE, with the model's own wait object 256 (log entry 91). -/
def allocSym (vec : Bool) (src : Source) (least : Nat) : M Nat := do
  let h ← getHart
  let free ← symRoom least
  match h with
  | .core k t => do
    if free.isEmpty then stop (.wait .waitLate 256 0)
    else do
      let i ← pickFrom free
      modify (fun s => s.setSym k i (some { ten := s.tenOf h, thread := t, vec := vec, state := .pending, src := src }))
      countT 10
      pure i
  | _ => pure 0

/-- D becomes late with the identity transform (07 R155). -/
def bindLate (key sym : Nat) : M Unit := do
  let h ← getHart
  modify (fun s => if key = 0 then s.freeUnref h sym else s.writeLate h key { sym := sym, a := 1, b := 0, steps := [], k := false })

/-! ### Composition (11 R235, R236) -/

/-- The late entry of an operand's register, when its symbol is not poisoned. -/
def lateOf (key : Nat) : M (Option Late) := do
  let h ← getHart
  let c ← getCtx
  let s ← get
  match c.late.get none key with
  | some l => pure (if (s.poisonOf h l).isNone then some l else none)
  | none => pure none

/-- The late-entry key of a scalar or vector operand. -/
def operandKey : Operand → Option Nat
  | .s n => if n = 0 then none else some (lateKeyS n.toNat)
  | .v n => some (lateKeyV n.toNat)
  | _ => none

def lateOperand (o : Operand) : M (Option Late) :=
  match operandKey o with
  | some k => lateOf k
  | none => pure none

/-- Write the composed late value to the destination, and count the composition. -/
def composeTo (o : Operand) (l : Late) : M Unit := do
  let h ← getHart
  match o with
  | .s n => modify (fun s => s.writeLate h (lateKeyS n.toNat) l)
  | .v n => modify (fun s => s.writeLate h (lateKeyV n.toNat) l)
  | _ => pure ()
  countT 11

/-- The pair (a, b) of a late integer register becomes what f gives (11 R235); none where the register has K = 1. -/
def Late.affine (l : Late) (a b : Word) : Option Late :=
  if l.k then none else some { l with a := a, b := b }

/-- A floating-point step is appended: fewer than three steps, or the pair (1, 0) (11 R236). -/
def Late.step (l : Late) (st : LateStep) : Option Late :=
  if !l.k then (if l.a = 1 ∧ l.b = 0 then some { l with steps := [st], k := true } else none)
  else if l.steps.length < 3 then some { l with steps := l.steps ++ [st] } else none

/-! ### Replay (11 R237, R238) -/

/-- One recorded step on a value in format f. -/
def stepF (f : FFmt) (op mode c v : Nat) : Rd :=
  let m := plainMode mode
  let x := decodeF f v
  let k := decodeF f (c % 2 ^ f.width)
  if op = 0 then addF f m x k
  else if op = 1 then subF f m x k
  else if op = 2 then subF f m k x
  else if op = 3 then mulF f m x k
  else ⟨setElem v 1 (f.width - 1) (if v.testBit (f.width - 1) then 0 else 1), 0⟩

/-- The recorded steps on a value, in recording order. -/
def replaySteps (f : FFmt) (steps : List LateStep) (v : Nat) : Rd :=
  steps.foldl (fun r st => let q := stepF f st.op st.mode st.c.toNat r.bits; ⟨q.bits, r.fl ||| q.fl⟩) ⟨v, 0⟩

/-- Resolve of a scalar register (11 R237). -/
def Late.resolveS (l : Late) (x : Nat) : Nat × Flags :=
  if !l.k then ((l.a * BitVec.ofNat 64 x + l.b).toNat, 0)
  else let r := replaySteps fp32 l.steps (x % 2 ^ 32); (r.bits, r.fl)

/-- Resolve of a vector register that is late as a whole, lane by lane (11 R238). -/
def Late.resolveV (l : Late) (c : Ctx) (x : Nat) : Nat × Flags :=
  let w := laneWidth c
  let es := elems w (lanes c) x
  if !l.k then (packElems w (es.map (fun e => l.a.toNat * e + l.b.toNat)), 0)
  else match laneFloat c with
    | some f =>
      let rs := es.map (replaySteps f l.steps)
      (packElems w (rs.map (·.bits)), rs.foldl (fun g r => g ||| r.fl) 0)
    | none => (packElems w es, 0)

/-- Every register of a hart that refers to symbol i takes its resolved value, and the symbol is freed (11 R233,
R237). -/
def State.resolveAll (s : State) (c t i x : Nat) : State :=
  let h := HartId.core c t
  let regs := (s.ctxOf h).late.filterMap (fun e => match e.2 with
    | some l => if l.sym = i then some (e.1, l) else none
    | none => none)
  let s := regs.foldl (fun s r =>
    let c := s.ctxOf h
    let (v, fl) := if r.1 < 64 then r.2.resolveS x else r.2.resolveV c x
    let c := { c with late := c.late.set none r.1 none,
                      s := if r.1 < 64 then c.s.set 0 r.1 (BitVec.ofNat 64 v) else c.s,
                      v := if r.1 < 64 then c.v else c.v.set 0 (r.1 - 64) (BitVec.ofNat 2048 v) }
    (s.setCtxOf h c).raiseFlags h fl) s
  s.setSym c i none

/-- One element of a formatted page decoded and converted to a lane: its bits, flags, and the seed after the draw that a
rounded result takes (03 R45, R49, R53). `sb` is the element's scale byte. -/
def convElem (lfmt : BitVec 6) (fmt mode : Nat) (sat : Bool) (sb x seed : Nat) : Nat × Flags × Nat :=
  let c := { Ctx.zero with fmt := lfmt }
  let w := laneWidth c
  let isInt := fmt != 12 && (fmtFloat fmt).isNone
  let dec : Option FV := if fmt = 12 then decodeBS4 x sb else some (decodeElem fmt x)
  match dec, laneFloat c with
  | none, some f => (f.canon, fSAT, seed)
  | none, none => (0, fSAT, seed)
  | some v, lf =>
    let draws := mode = 5 ∧ drawsFor fmt lf = true ∧ (match v with | .fin _ _ _ => true | _ => false) = true
    let d := (xorshift (BitVec.ofNat 32 seed)).toNat
    let m := if draws then Mode.sr d else plainMode mode
    let q := match lf with
      | some f => encodeF f m v
      | none =>
        let sg := laneSigned c
        match isInt, v with
        | true, .fin neg num den => narrow sg sat w (signedNum neg (num / den))
        | _, _ => toInt (intLo sg w) (intHi sg w) w m v
    (q.bits, q.fl, if draws then d else seed)

/-- The decode or conversion that a load's data takes: the delivered number, its flags and the seed after the draws
(07 R146, R155). -/
def convert (cv : Conv) (x seed : Nat) : Nat × Flags × Nat :=
  match cv with
  | .raw => (x, 0, seed)
  | .scalar fmt rm => convElem 0x12 fmt rm false (x / 16) (if fmt = 12 then x % 16 else x) seed
  | .vector fmt lfmt mode sat scales =>
    let c := { Ctx.zero with fmt := lfmt }
    if fmt = 0 then (x, 0, seed)
    else
      let r := ((elems (fmtBits fmt) (lanes c) x).zipIdx).foldl (fun (r : List Nat × Flags × Nat) e =>
        let q := convElem lfmt fmt mode sat (scales.getD e.2 0) e.1 r.2.2
        (q.1 :: r.1, r.2.1 ||| q.2.1, q.2.2)) ([], 0, seed)
      (packElems (laneWidth c) r.1.reverse, r.2.1, r.2.2)

/-- The symbol's value reaches a thread that runs: conversion, then every referring register (11 R233, R237). -/
def State.deliver (s : State) (c t i x : Nat) (cv : Conv) : State :=
  let h := HartId.core c t
  let k := s.ctxOf h
  let (v, fl, seed) := convert cv x k.srseed.toNat
  let s := (s.setCtxOf h { k with srseed := BitVec.ofNat 32 seed }).raiseFlags h fl
  s.resolveAll c t i v

/-- The conversion of a symbol's source. -/
def Source.conv : Source → Conv
  | .load _ cv _ => cv
  | _ => .raw

/-- A thread waits for symbol i to be present, and no register of it refers to the symbol any more (11 R239). -/
def State.lateOver (s : State) (c t : Nat) : Bool :=
  let x := (s.thread c t).ctx
  x.run == .waitLate && x.waitObj.toNat < 256 && !x.symRefs.contains x.waitObj.toNat

/-- Resolve every register of a thread whose symbol holds a value, as at resume; a thread that waited for one of them is
ready (11 R239, R242). -/
def State.resumeSyms (s : State) (c t : Nat) : State :=
  let s := (s.ctxOf (.core c t)).symRefs.foldl (fun s i => match s.sym c i with
    | some y => (match y.state with
      | .value x => s.deliver c t i x y.src.conv
      | _ => s)
    | none => s) s
  if s.lateOver c t then
    let x := s.thread c t
    s.setThread c t { x with ctx := { x.ctx with run := .ready }, stamp := s.aclk.get 0 (dieOfCore c) }
  else s

end Sys2Proof.Machine
end

