-- ==== Sys2Proof/Machine/Units.lean ====
section
/-! DEFINITION. Units of work: how they start and end, where free threads find work, join blocks, containment, halts, and
the rings that record it (02 R32; 07 R156 to R159; 09 R197 to R214; 17 R327, R328; 19 R356; 20 R363 to R370). -/

namespace Sys2Proof.Machine

/-! ### PC values (04 R69) -/

def pcIndex (pc : Nat) : Nat := bitsOf pc 47 6 * 5 + pc % 8
def pcFromIndex (n : Int) : Nat :=
  let m := (n % (5 * 2 ^ 42 : Nat)).toNat
  m / 5 * 64 + m % 5
def nextPc (pc : Nat) : Nat := pcFromIndex ((pcIndex pc : Int) + 1)
def branchTarget (pc : Nat) (off : Int) : Nat := pcFromIndex ((pcIndex pc : Int) + off)

/-! ### Rings (09 R213, R214; 19 R356; 20 R369, R370) -/

/-- The current ACLK count of a core's die. -/
def State.now (s : State) (c : Nat) : Nat := s.aclk.get 0 (dieOfCore c)

/-- Send an IMSIC message (18 R345): the control core and the identity; a wired source of a die's APLIC is written as
1000 + die. -/
def State.irq (s : State) (cc id : Nat) : State := { s with irqs := s.irqs ++ [(cc, id)] }

/-- Append a 32-byte record to the package error ring (19 R356). The descriptor stands in control space; its read index
and lost count are at the places of 09 R214 (log entry 10). -/
def State.errorRecord (s : State) (sev cls pos addr core cause thread : Nat) : State :=
  let d := 0x50000
  let wi := (s.ctlWord d).toNat % 2 ^ 32
  let ri := (s.ctlWord (d + 8)).toNat % 2 ^ 32
  let base := (s.ctlWord (d + 16)).toNat
  let lcnt := (s.ctlWord (d + 24)).toNat % 16
  let s := s.irq 1000 2
  if lcnt = 0 ∨ 2 ^ lcnt ≤ (wi + 2 ^ 32 - ri) % 2 ^ 32 then s.setCtl (d + 32) (s.ctlWord (d + 32) + 1)
  else
    let bs := bytesOf 4 wi ++ bytesOf 1 sev ++ bytesOf 1 cls ++ bytesOf 2 pos ++ bytesOf 8 addr ++ bytesOf 2 core
      ++ bytesOf 1 cause ++ bytesOf 1 thread ++ bytesOf 4 0 ++ bytesOf 8 s.time
    (s.homeWrite 2047 (base + 32 * (wi % 2 ^ lcnt)) bs).setCtl d (BitVec.ofNat 64 ((wi + 1) % 2 ^ 32))

/-- The physical address of a virtual address in device memory, RAW, for a core's tenant; none where it is not one. -/
def State.rawPa (s : State) (h : HartId) (ten va : Nat) : Option Nat :=
  if 2 ^ 48 ≤ va then none
  else match (s.locate h ten va).2 with
    | some (.dev pa, pg) => if pg.fmt = 0 then some pa else none
    | _ => none

/-- Append a 64-byte record to a launch's fault or log ring: the claim and the room test are one step (09 R214). The
flag is false where the ring is full and the record is to wait; a ring that cannot be reached loses it (14 R283). -/
def State.ringAppend (s : State) (h : HartId) (ten va : Nat) (bs : List Byte) (lose : Bool) : State × Bool :=
  match s.rawPa h ten va with
  | none => (s, true)
  | some d =>
    let wi := s.homeNat d 4
    let ri := s.homeNat (d + 8) 4
    let base := s.homeNat (d + 16) 8
    let lcnt := s.homeNat (d + 24) 1 % 16
    if 2 ^ lcnt ≤ (wi + 2 ^ 32 - ri) % 2 ^ 32 then
      if lose then (s.homeWriteNat (agentOf h) (d + 32) 8 ((s.homeNat (d + 32) 8 + 1) % 2 ^ 64), true) else (s, false)
    else
      let s := match s.rawPa h ten (base + 64 * (wi % 2 ^ lcnt)) with
        | some a => s.homeWrite (agentOf h) a bs
        | none => s
      let s := s.homeWriteNat (agentOf h) d 4 ((wi + 1) % 2 ^ 32)
      (s.homeWriteNat (agentOf h) (d + 40) 4 ((wi + 1) % 2 ^ 32), true)

/-- Word k of trace session n's registers (20 R362). -/
def State.sessWord (s : State) (n k : Nat) : Nat := (s.ctlWord (0x800100 + 32 * n + 8 * k)).toNat

/-- Write one buffered record of a session to its trace ring, or count it as lost (20 R369, R370). `spare` slots stay
free. -/
def State.traceWrite (s : State) (n spare : Nat) (bs : List Byte) : State :=
  let d := s.sessWord n 1
  let seq := s.homeNat d 4
  let ri := s.homeNat (d + 8) 4
  let lcnt := s.homeNat (d + 24) 1 % 16
  if 2 ^ lcnt ≤ (seq + 2 ^ 32 - ri) % 2 ^ 32 + spare then
    s.setCtl (0x800118 + 32 * n) (s.ctlWord (0x800118 + 32 * n) + 1)
  else
    let s := s.homeWrite 2047 (s.homeNat (d + 16) 8 + 32 * (seq % 2 ^ lcnt)) (patchBytes bs 0 (bytesOf 4 seq))
    s.homeWriteNat 2047 d 4 ((seq + 1) % 2 ^ 32)

/-- Flush a core's buffered records of a session, oldest first. -/
def State.flushTrace (s : State) (n core : Nat) : State :=
  let k := n * 1024 + core
  let s' := (s.traceBuf.get [] k).foldl (fun s bs => s.traceWrite n 1 bs) s
  { s' with traceBuf := s'.traceBuf.set [] k [] }

/-- The event mask bit of a record type; types 8 and 9 are always written (20 R369). -/
def traceBit (typ : Nat) : Nat := typ - 1

/-- Record an event of a launch in every open session of its command queue (20 R369). -/
def State.trace (s : State) (launch : Option Nat) (ten core thread typ : Nat) (b9 b24 : List Byte) : State :=
  match launch.bind (fun l => s.launches.get none l) with
  | none => s
  | some l =>
    let bs := bytesOf 4 0 ++ bytesOf 1 typ ++ bytesOf 1 ten ++ bytesOf 2 core ++ bytesOf 1 thread
      ++ (b9 ++ List.replicate (7 - b9.length) 0) ++ bytesOf 8 s.time ++ (b24 ++ List.replicate (8 - b24.length) 0)
    (List.range 16).foldl (fun s n =>
      let w := s.sessWord n 2
      if w.testBit 0 && s.sessWord n 0 == l.queue && w.testBit (8 + traceBit typ) then
        let k := n * 1024 + core
        let s := if 64 ≤ (s.traceBuf.get [] k).length then s.flushTrace n core else s
        { s with traceBuf := s.traceBuf.set [] k (s.traceBuf.get [] k ++ [bs]) }
      else s) s

/-! ### Halts (20 R363 to R367) -/

/-- A PC comparator of the core matches (20 R367). -/
def State.pcMatch (s : State) (c pc : Nat) : Bool :=
  (List.range 4).any (fun j =>
    let w := (s.ctlWord (0x810000 + 64 * c + 8 * j)).toNat
    w.testBit 63 && bitsOf w 47 0 == pc)

/-- The octets of a partition or group given by two words. -/
def octInWords (lo hi o : Nat) : Bool := if o < 64 then lo.testBit o else (hi % 2 ^ 56).testBit (o - 64)

/-- Halt one core: its halt record is written at its home, and its threads stop (20 R363). -/
def State.haltCore (s : State) (c cause : Nat) : State :=
  let x := s.core c
  if x.halted then s
  else
    let act := (List.range 16).foldl (fun m t =>
      let r := (s.thread c t).ctx.run
      if r = .running ∨ r = .ready then m + 2 ^ t else m) 0
    let a := bitsOf (s.ctlWord 0x800020).toNat 51 5 * 32 + 32 * c
    let cyc := (s.now c - x.cycle0) % 2 ^ 64
    let bs := bytesOf 8 cyc ++ bytesOf 4 x.sent.toNat ++ bytesOf 4 x.received.toNat ++ bytesOf 8 s.time ++ bytesOf 2 act
      ++ bytesOf 1 cause ++ bytesOf 5 0
    let s := s.homeWrite (coreAgent c) a bs
    let s := s.setCore c { x with halted := true, haltCause := cause }
    let s := (List.range 16).foldl (fun s t =>
      let th := s.thread c t
      if th.ctx.run = .free then s else s.setThread c t { th with ctx := { th.ctx with halted := true } }) s
    (List.range 16).foldl (fun s t =>
      let th := s.thread c t
      s.trace th.launch x.tenant c t 7 (bytesOf 1 cause) (bytesOf 6 th.ctx.pc.toNat)) s

/-- A halt is counted, with its cause (20 R362, log entry 12). -/
def State.noteHalt (s : State) (cause : Nat) : State :=
  let st := (s.ctlWord 0x800018).toNat
  s.setCtl 0x800018 (BitVec.ofNat 64 (setBits (setBits st 47 16 (bitsOf st 47 16 + 1)) 11 8 cause))

/-- Halt every core and the engine and copy unit of an octet. -/
def State.haltOctet (s : State) (o cause : Nat) : State :=
  let s := (List.range 8).foldl (fun s j => s.haltCore (8 * o + j) cause) s
  s.setOctet o { s.octet o with halted := true }

/-- The octets of the partition (20 R362). -/
def State.partition (s : State) : List Nat :=
  (List.range 120).filter (fun o => octInWords (s.ctlWord 0x800000).toNat (s.ctlWord 0x800008).toNat o)

/-- DBGST.HALTED follows the cores of the partition. -/
def State.updateHalted (s : State) : State :=
  let all := s.partition.all (fun o => (List.range 8).all (fun j => (s.core (8 * o + j)).halted))
  s.setCtl 0x800018 (BitVec.ofNat 64 (setBits (s.ctlWord 0x800018).toNat 0 0 (if all then 1 else 0)))

/-- A core halts by a breakpoint or an HLT, and with it every octet of the enabled groups that hold its octet
(20 R366). -/
def State.haltTrigger (s : State) (c cause : Nat) : State :=
  let s := (s.noteHalt cause).haltCore c cause
  let o := octetOfCore c
  let s := (List.range 8).foldl (fun s g =>
    let lo := (s.ctlWord (0x800040 + 16 * g)).toNat
    let hi := (s.ctlWord (0x800048 + 16 * g)).toNat
    if hi.testBit 63 && octInWords lo hi o then
      (List.range 120).foldl (fun s k => if octInWords lo hi k then s.haltOctet k cause else s) s
    else s) s
  s.updateHalted

/-! ### Starting a unit (02 R32, 09 R200, R205) -/

/-- The handle map of a launch's descriptor bytes (02 R36, 14 R283). -/
def handlesOf (hmap : List Byte) : SMap (Option Nat) :=
  ((hmap.take 16).zipIdx).foldl (fun m (b, i) => if b.toNat.testBit 7 then m.set none i (some (b.toNat % 64)) else m) []

def State.launchOf (s : State) (l : Option Nat) : Option Launch := l.bind (fun i => s.launches.get none i)

/-- The registers of a unit at its start (02 R32). -/
def State.startCtx (s : State) (c t : Nat) (l : Option Nat) : Ctx :=
  { Ctx.zero with
    srseed := 0x9E3779B9 ^^^ BitVec.ofNat 32 (s.cidOf c * 16 + t),
    handles := match s.launchOf l with | some x => handlesOf x.hmap | none => [],
    launch := match s.launchOf l with | some x => x.desc | none => 0,
    run := .ready }

/-- Work has come to a core: its next steal starts a walk afresh (09 R198). -/
def State.resetWalk (s : State) (c : Nat) : State := s.setCore c { s.core c with walk := ⟨[], 0⟩ }

/-- Put a unit on a thread: its registers, start record and launch. The inline slot stays (07 R156). -/
def State.putUnit (s : State) (c t : Nat) (x : Ctx) (st : Start) (l : Option Nat) : State :=
  let s := s.resetWalk c
  let old := s.thread c t
  s.setThread c t { Thread.zero with
    ctx := x, start := st, inl := old.inl, stamp := s.now c,
    sys := match s.launchOf l with | some x => x.sys | none => (s.core c).tenant == 16,
    launch := l }

/-- Policy bits of %policy (02 R27). -/
def policyOf (pol bud : Nat) : BitVec 4 := BitVec.ofNat 4 (pol % 4 + 4 * (bud % 4))

/-- The registers with which a record's unit starts (02 R32, 09 R202). -/
def State.recordCtx (s : State) (c t : Nat) (r : Record) (lo hi : Word) : Ctx :=
  { s.startCtx c t r.launch with
    frame := r.frame, joinc := r.joinc, policy := policyOf r.pol r.bud, lo := lo, hi := hi, low := r.low, pc := r.code }

/-- The registers with which an activation starts (02 R32, 09 R205). -/
def State.activationCtx (s : State) (c t : Nat) (pk : Packet) (pc : Word) (pol bud : Nat) (low : Bool) : Ctx :=
  let x := s.startCtx c t pk.launch
  { x with
    v := x.v.set 0 0 (BitVec.ofNat 2048 (ofBytes pk.payload)),
    s := ((x.s.set 0 1 (BitVec.ofNat 64 pk.src)).set 0 2 (BitVec.ofNat 64 pk.tag)).set 0 3 (BitVec.ofNat 64 pk.payload.length),
    policy := policyOf pol bud, low := low, pc := pc }

/-- The registers with which a JOIN's continuation starts (07 R157). -/
def State.joinCtx (s : State) (c t : Nat) (l : Option Nat) (pc frame joinc : Word) (pol bud : Nat) (low : Bool) : Ctx :=
  { s.startCtx c t l with frame := frame, joinc := joinc, policy := policyOf pol bud, low := low, pc := pc }

/-- The first trap of a start record, with its %eval: a reserved DOM, then a malformed CODE (09 R200). -/
def Record.fault (r : Record) : Option Nat :=
  if r.dom = 0 ∨ 4 < r.dom then some cILLEGAL_OPERAND else if pcOk r.code.toNat then none else some cMISALIGNED

/-! ### Ending a unit (09 R212) -/

/-- Free the symbols of the running unit, and its bindings (07 R150, R156; 11 R233). -/
def State.endUnit (s : State) (c t : Nat) : State :=
  let h := HartId.core c t
  let refs := (s.ctxOf h).symRefs
  let s := refs.foldl (fun s i => s.setSym c i none) s
  let x := s.ctxOf h
  let s := s.setCtxOf h { x with late := [] }
  let k := tcKey (s.core c).tenant c
  { s with bindings := s.bindings.set [] k ((s.bindings.get [] k).filter (fun b => b.thread != t || b.suspended)) }

/-- Resume the parent that an inline child suspended (07 R156). -/
def State.resumeParent (s : State) (c t : Nat) (p : Inline) : State :=
  let old := s.thread c t
  let s := s.setThread c t { old with ctx := { p.ctx with run := .ready }, start := p.start, ctr := p.ctr, inl := none,
                                      waiting := none, stall := false }
  let k := tcKey (s.core c).tenant c
  let s := { s with bindings := s.bindings.set [] k ((s.bindings.get [] k).map (fun (b : Binding) =>
    if b.thread = t then { b with suspended := false } else b)) }
  s.resumeSyms c t

/-- The thread is FREE and may take work: its core is neither halted nor failed, and no page fault holds a pop. -/
def State.canTake (s : State) (c t : Nat) : Bool :=
  let x := s.thread c t
  x.ctx.run == .free && !x.stall && !(s.core c).halted && !(s.core c).failed

/-! ### Deques (09 R199, R201) -/

def State.dequeOf (s : State) (c : Nat) : List Record := s.deques.get [] (tcKey (s.core c).tenant c)
def State.spillOf (s : State) (c : Nat) : List Record := s.spills.get [] (tcKey (s.core c).tenant c)
def State.setDeque (s : State) (c : Nat) (l : List Record) : State :=
  { s with deques := s.deques.set [] (tcKey (s.core c).tenant c) l }
def State.setSpill (s : State) (c : Nat) (l : List Record) : State :=
  { s with spills := s.spills.set [] (tcKey (s.core c).tenant c) l }

/-- The deque and the spill area have no room (07 R156). -/
def State.dequeFull (s : State) (c : Nat) : Bool := 64 ≤ (s.dequeOf c).length && 4096 ≤ (s.spillOf c).length

/-- The cores of a tenant's grant in ascending order (14 R278). -/
def grantCores (grant : Nat) : List Nat := (List.range 960).filter (fun c => grant.testBit (c / 8))

/-- The save area of a core in a tenant's save pool (14 R278). -/
def State.saveArea (s : State) (ten core : Nat) : Nat :=
  let g := match s.tenants.get none ten with
    | some t => ((grantCores t.grant).filter (fun c => c < core)).length
    | none => 0
  bitsOf (s.descWord ten 14) 51 12 * 4096 + g * 0x114000

/-- The 64 bytes of a record (09 R200). -/
def Record.bytes (r : Record) : List Byte :=
  [r.code.toNat, r.frame.toNat, r.joinc.toNat, r.lo.toNat, r.hi.toNat, r.grain.toNat, r.parent.toNat,
   r.dom * 64 + (if r.low then 32 else 0) + (if r.range then 16 else 0) + r.bud * 4 + r.pol].flatMap (bytesOf 8)

/-- The record in 64 bytes; its launch, which the bytes do not hold, and its address are those of `r`. -/
def Record.ofBytes (r : Record) (bs : List Byte) : Record :=
  let w (i : Nat) : Word := BitVec.ofNat 64 (fieldAt bs (8 * i) 8)
  let x := fieldAt bs 56 8
  { r with code := w 0, frame := w 1, joinc := w 2, lo := w 3, hi := w 4, grain := w 5, parent := w 6, dom := bitsOf x 8 6,
           low := x.testBit 5, range := x.testBit 4, bud := bitsOf x 3 2, pol := x % 4 }

/-- A record as the spill area holds it; the boot context has no area, and its spilled records have no address (log
entry 94). -/
def State.loadRecord (s : State) (r : Record) : Record := if r.addr = 0 then r else r.ofBytes (s.homeBytes r.addr 64)

/-- A spilled record is written at its place in the spill area (09 R200, R201). -/
def State.storeRecord (s : State) (c : Nat) (r : Record) : State := if r.addr = 0 then s else s.homeWrite (coreAgent c) r.addr r.bytes

/-- Move a record to the bottom of the spill area, whose 4,096 places are used in turn (09 R201, 14 R278). A pre-emption may
find no place left, and the record then has no address (log entry 94). -/
def State.spillBottom (s : State) (c : Nat) (r : Record) : State :=
  let ten := (s.core c).tenant
  let sp := s.spillOf c
  let base := s.saveArea ten c + 0x80000
  let a := base + 64 * ((match sp.find? (fun b => b.addr != 0) with | some b => (b.addr - base) / 64 + 1 | none => 0) % 4096)
  let r := { r with addr := if ten = 16 ∨ sp.any (fun b => b.addr == a) = true then 0 else a }
  (s.setSpill c (r :: sp)).storeRecord c r

/-- Push a record at the bottom; a full hardware deque first moves its topmost record to the spill area (09 R201). The
bottom is the head of each list. -/
def State.pushBottom (s : State) (c : Nat) (r : Record) : State :=
  let d := s.dequeOf c
  let s := if 64 ≤ d.length then
      match d.getLast? with
      | some top => ((s.setDeque c d.dropLast).spillBottom c top).countCore c 25 1
      | none => s
    else s
  s.setDeque c (r :: s.dequeOf c)

/-- Refill an empty hardware deque from the spill area's bottom (09 R201). -/
def State.refill (s : State) (c : Nat) : State :=
  if (s.dequeOf c).isEmpty && !(s.spillOf c).isEmpty then
    let sp := s.spillOf c
    (s.setDeque c ((sp.take 64).map (fun r => { s.loadRecord r with addr := 0 }))).setSpill c (sp.drop 64)
  else s

/-- A record leaves the hardware deque, which is refilled when it becomes empty. -/
def State.takeRecord (s : State) (c : Nat) (rest : List Record) : State := (s.setDeque c rest).refill c

/-- The record that a page fault of its join block holds: the bottom record for a pop, the top one for a split
(09 R199, R202). -/
def State.heldRecord (s : State) (p : PageFault) : Option Record :=
  match p.who with
  | .pop c _ => (s.deques.get [] (tcKey p.ten c)).head?
  | .split v _ => match (s.spills.get [] (tcKey p.ten v)).getLast? with
    | some r => some r
    | none => (s.deques.get [] (tcKey p.ten v)).getLast?
  | _ => none

/-- A pop or a split of the tenant's deque on core c waits for a page: the operations behind it wait (09 R199). -/
def State.dequeHeld (s : State) (ten c : Nat) : Bool :=
  s.faults.any (fun e => e.2.any (fun p => p.ten == ten && (match p.who with
    | .pop k _ => k == c
    | .split k _ => k == c
    | _ => false)))

/-! ### Join blocks (07 R157) -/

/-- The answer of a join block's checks: its physical address, a page fault that is posted, or a cause. -/
inductive JoinRes where
  | ok (pa : Nat)
  | post
  | bad (cause : Nat)
  deriving DecidableEq, Repr

/-- The checks of an atomic's address but poison, in their order, of a word or block in device memory of FMT RAW (07 R142);
one that is only read need not be writable. -/
def State.homeCheck (s : State) (h : HartId) (ten va align : Nat) (write : Bool) : State × JoinRes :=
  if va % align ≠ 0 then (s, .bad cMISALIGNED)
  else if 2 ^ 48 ≤ va then (s, .post)
  else match s.locate h ten va with
    | (s, none) => (s, .post)
    | (s, some (.dev pa, pg)) =>
      let reg := s.regionOf pa
      if reg == .unlisted || reg == .control || reg == .pcie || pg.home == 3 then (s, .post)
      else if ten != 16 && pg.s != s.frameWorld pa then (s, .bad cWORLD)
      else if write && !pg.w then (s, .bad cPROTECTION)
      else if pg.fmt != 0 then (s, .bad cFORMAT)
      else match reg with
        | .peer p => if s.unreachable p then (s, .bad cHW_ERROR) else (s, .ok pa)
        | _ => (s, .ok pa)
    | (s, some (.ln n off, pg)) =>
      if !s.nodeInvalid ten n && 256 * (s.node ten n).lines ≤ off then (s, .post)
      else if pg.s != s.frameWorld (s.nodeTable ten) then (s, .bad cWORLD)
      else if write && !pg.w then (s, .bad cPROTECTION)
      else (s, .bad cFORMAT)
    | (s, some (.scr _ _, _)) => (s, .bad cFORMAT)

/-- The checks of a join block but poison (07 R157), which containment also makes (09 R212). -/
def State.joinCheck (s : State) (h : HartId) (ten va : Nat) : State × JoinRes := s.homeCheck h ten va 32 true

/-- Drop a core's own copies of a join block, as an atomic does of its word (07 R149). -/
def State.flushBlock (s : State) (c pa n : Nat) : State :=
  (wordsOf pa n).foldl (fun s w =>
    let k := l1Key (s.l1Of c w) w
    let s := s.writeBackKey k
    { s with l1 := s.l1.set none k none }) s

/-- Fields of a join block at a physical address (07 R157). -/
structure JoinBlock where
  err   : Nat
  count : Nat
  pc    : Nat
  frame : Nat
  bud   : Nat
  pol   : Nat
  joinc : Nat
  deriving DecidableEq, Repr

def State.joinBlock (s : State) (pa : Nat) : JoinBlock :=
  let w3 := s.homeNat (pa + 24) 8
  { err := s.homeNat (pa + 4) 4, count := s.homeNat pa 4, pc := s.homeNat (pa + 8) 6, frame := s.homeNat (pa + 16) 6,
    bud := bitsOf w3 51 50, pol := bitsOf w3 49 48, joinc := bitsOf w3 47 0 }

/-- An arrival at a block would read a poisoned word, once the core's own copies are written back: the count, and the
rest of the block where the arrival is the last (07 R142, R157). -/
def State.joinPoisoned (s : State) (pa : Nat) : Bool :=
  s.homePoisoned pa 8 || (s.homeNat pa 4 == 1 && s.homePoisoned pa 32)

/-- Add 1 to COUNT of a join block, the increment of a pop or a split; none where its word is poisoned (09 R202). -/
def State.joinAdd (s : State) (c pa : Nat) : Option State :=
  let s := s.flushBlock c pa 32
  if s.homePoisoned pa 8 then none else some (s.homeWriteNat (coreAgent c) pa 4 ((s.homeNat pa 4 + 1) % 2 ^ 32))

/-! ### The end of a launch (09 R212) -/

/-- EndLaunch: the first failure stands; every thread of the launch ends, and its records and spilled packets are
discarded. The completion is written by the step LAUNCH_END. -/
def State.endLaunch (s : State) (l : Nat) (cause core thread epc eval : Nat) : State :=
  match s.launches.get none l with
  | none => s
  | some x =>
    let x := if x.failed.isNone then { x with failed := some (cause, core, thread, epc, eval), status := if x.status = 0 then 1 else x.status } else x
    let s := { s with launches := s.launches.set none l (some x) }
    let mine := s.threads.filter (fun e => e.2.launch == some l)
    let s := mine.foldl (fun s e =>
      let c := e.1 / 16 % 1024
      let ten := e.1 / 16 / 1024
      let t := e.1 % 16
      let refs := e.2.ctx.symRefs ++ (match e.2.inl with | some p => p.ctx.symRefs | none => [])
      let s := refs.foldl (fun s i => s.setSym c i none) s
      let k := tcKey ten c
      { s with threads := s.threads.set Thread.zero e.1 { Thread.zero with stamp := e.2.stamp },
               bindings := s.bindings.set [] k ((s.bindings.get [] k).filter (fun b => b.thread != t)),
               faults := s.faults.map (fun f => (f.1, f.2.filter (fun p => p.who != .hart (.core c t) || p.ten != ten))) }) s
    let keep (r : Record) : Bool := r.launch != some l
    let gone (p : PageFault) : Bool := match s.heldRecord p with | some r => !keep r | none => false
    let pops := (s.faults.flatMap (fun f => f.2)).filter gone
    let unstall (m : SMap Thread) (p : PageFault) : SMap Thread := match p.who with
      | .pop c t => m.set Thread.zero (thKey p.ten c t) { m.get Thread.zero (thKey p.ten c t) with stall := false }
      | _ => m
    let s : State := { s with threads := pops.foldl unstall s.threads,
                              faults := s.faults.map (fun f => (f.1, f.2.filter (fun p => !gone p))) }
    { s with deques := (s.deques.map (fun e => (e.1, e.2.filter keep))).filter (fun e => !e.2.isEmpty),
             spills := (s.spills.map (fun e => (e.1, e.2.filter keep))).filter (fun e => !e.2.isEmpty),
             msgs := (s.msgs.map (fun e => (e.1, e.2.filter (fun p => p.launch != some l)))).filter (fun e => !e.2.isEmpty),
             faults := s.faults.filter (fun e => !e.2.isEmpty) }

/-! ### Containment (09 R212, R213) -/

/-- Causes that a policy of IGNORE may ignore; a transfer's MISALIGNED and the traps of decode, fetch and a start
record are marked by their raiser (09 R212). -/
def ignorable (cause : Nat) : Bool :=
  [cMISALIGNED, cPAGE_FAULT, cPROTECTION, cWORLD, cFORMAT, cFORMAT_AXIS, cNODE_RETIRED, cNODE_FROZEN, cLINEAGE_DEPTH,
   cNODE_INVALID, cNODE_EXHAUSTED, cSYMBOL_LOST, cPOISON, cHANDLE, cBINDING, cQUEUE_FULL, cPIN_LIMIT,
   cILLEGAL_OPERAND, cSOFTWARE, cBREAKPOINT].contains cause

/-- How containment goes on after its steps at the join blocks. -/
inductive FailEnd where
  | done
  | restart
  | cont (pc frame joinc : Nat) (pol bud : Nat)
  | endLaunch (cause : Nat)
  | more (block : Nat) (kill : Bool)
  deriving DecidableEq, Repr

/-- Arrive, within the step at a block's home: the new state, whether COUNT was 0 already, and the continuation that is
drained (09 R212). -/
def State.arrive (s : State) (c pa sink : Nat) : State × Bool × FailEnd :=
  let b := s.joinBlock pa
  if b.count = 0 then (s, true, .done)
  else
    let s := s.homeWriteNat (coreAgent c) pa 4 (b.count - 1)
    if b.count = 1 ∧ b.pc ≠ sink then (s, false, .cont b.pc b.frame b.joinc b.pol b.bud) else (s, false, .done)

/-- Fail: the walk over the frames. It answers the state, the action, the frames killed, the blocks whose COUNT was 0,
and how it ends (09 R212). `fuel` bounds the frames of one step, each of which is whole at its block's home; the walk goes
on from there in a later step (R215). -/
def State.fail (s : State) (c t ten sink : Nat) : Nat → Nat → Bool → Nat → List Nat → List Nat →
    State × Nat × List Nat × List Nat × FailEnd
  | 0, j, kill, act, fr, zs => (s, act, fr, zs, .more j kill)
  | fuel + 1, j, kill, act, fr, zs =>
    if j = 0 then if kill then (s, 4, fr, zs, .endLaunch 0) else (s, act, fr, zs, .done)
    else match s.joinCheck (.core c t) ten j with
      | (s, .post) => (s, 4, fr, zs, .endLaunch cPAGE_FAULT)
      | (s, .bad k) => (s, 4, fr, zs, .endLaunch k)
      | (s, .ok pa) =>
        let s := s.flushBlock c pa 32
        let b := s.joinBlock pa
        if s.joinPoisoned pa || (kill && s.homePoisoned pa 32) then (s, 4, fr, zs, .endLaunch cPOISON)
        else
        let incErr (s : State) : State := s.homeWriteNat (coreAgent c) (pa + 4) 4 ((b.err + 1) % 2 ^ 32)
        let arr (s : State) (act : Nat) (fr : List Nat) : State × Nat × List Nat × List Nat × FailEnd :=
          let (s, z, e) := s.arrive c pa sink
          (s, act, fr, if z then zs ++ [j] else zs, e)
        if !kill then arr (incErr s) act fr
        else if b.pc = sink then arr (incErr s) act fr
        else if b.pol = 0 then arr s act fr
        else if b.pol = 1 ∧ 0 < b.bud then
          (s.homeWriteNat (coreAgent c) (pa + 24) 8 (b.joinc + b.pol * 2 ^ 48 + (b.bud - 1) * 2 ^ 50), 1, fr, zs, .restart)
        else if b.joinc = 0 then (s, 4, fr, zs, .endLaunch 0)
        else
          let s := (incErr s).homeWriteNat (coreAgent c) (pa + 8) 8 sink
          let (s, z, e) := s.arrive c pa sink
          let zs := if z then zs ++ [j] else zs
          match e with
          | .cont _ _ _ _ _ => (s, 3, fr ++ [j], zs, e)
          | _ => s.fail c t ten sink fuel b.joinc (b.pol == 3) 3 (fr ++ [j]) zs

/-- A fault-ring record (09 R213). -/
def faultBytes (x : Ctx) (cause act t ten core joinc time : Nat) : List Byte :=
  bytesOf 8 x.epc.toNat ++ bytesOf 8 x.eval.toNat ++ bytesOf 1 cause ++ bytesOf 1 act ++ bytesOf 1 t ++ bytesOf 1 ten
    ++ bytesOf 2 core ++ bytesOf 2 0 ++ bytesOf 8 x.frame.toNat ++ bytesOf 8 joinc ++ bytesOf 8 time ++ bytesOf 16 0

/-- Log: a fault-ring record, or in the boot context an error-ring record of severity 5 (09 R213, 17 R328). -/
def State.log (s : State) (c t : Nat) (x : Ctx) (l : Option Nat) (cause act joinc : Nat) : State :=
  let ten := (s.core c).tenant
  let s := s.trace l ten c t 5 (bytesOf 1 cause ++ bytesOf 1 act) (bytesOf 6 x.epc.toNat)
  match s.launchOf l with
  | some y => (s.ringAppend (.core c t) ten y.faultRing.toNat (faultBytes x cause act t ten c joinc s.time) true).1
  | none => s.errorRecord 5 0 ((s.logical.get none c).getD 0) x.epc.toNat (if s.mapped then c else 0xFFFF) cause t

/-- Start a unit whose start record may hold a fault: the state, and the fault that it raises as its first trap. -/
def State.begin (s : State) (c t : Nat) (st : Start) (l : Option Nat) : State × Option (Nat × Nat) :=
  match st with
  | .record r lo hi =>
    let s := (s.putUnit c t (s.recordCtx c t r lo hi) st r.launch).trace r.launch (s.core c).tenant c t 2 [] (bytesOf 6 r.code.toNat)
    (s, r.fault.map (fun k => (k, r.addr)))
  | .activation pk pc pol bud low =>
    let s := (s.putUnit c t (s.activationCtx c t pk pc pol bud low) st pk.launch).trace pk.launch (s.core c).tenant c t 1
      (bytesOf 1 pk.tag ++ bytesOf 2 pk.src ++ byteSlice pk.payload 0 4) (bytesOf 6 pc.toNat ++ bytesOf 2 pk.payload.length)
    (s, if pcOk pc.toNat then none else some (cMISALIGNED, pc.toNat))
  | .join pc frame joinc pol bud low =>
    let s := (s.putUnit c t (s.joinCtx c t l pc frame joinc pol bud low) st l).trace l (s.core c).tenant c t 2 [] (bytesOf 6 pc.toNat)
    (s, if pcOk pc.toNat then none else some (cMISALIGNED, pc.toNat))
  | .boot pc =>
    (s.putUnit c t { s.startCtx c t none with policy := 2, pc := pc } st none, none)
  | .none => (s, none)

/-- CompleteWithZero: zero to each destination, every register of a poisoned symbol present and zero, pc to the next
instruction (09 R212). -/
def State.completeZero (s : State) (c t : Nat) (dests : List Operand) : State :=
  let h := HartId.core c t
  let zero (s : State) (o : Operand) : State := match o with
    | .s n => s.writeS h n.toNat 0
    | .v n => s.writeV h n.toNat 0
    | .p n => s.writeP h n.toNat 0
    | .w e => (s.writeS h (2 * e.toNat) 0).writeS h (2 * e.toNat + 1) 0
    | .x n => (s.setSpecial h n.toNat 0).getD s
    | _ => s
  let s := dests.foldl zero s
  let lost := (s.ctxOf h).late.filterMap (fun e => match e.2 with
    | some l => if (s.poisonOf h l).isSome then some e.1 else none
    | none => none)
  let s := lost.foldl (fun s k => if k < 64 then s.writeS h k 0 else s.writeV h (k - 64) 0) s
  let x := s.thread c t
  s.setThread c t { x with ctx := { x.ctx with pc := BitVec.ofNat 64 (nextPc x.ctx.pc.toNat), run := .ready }, waiting := none }

/-- Leave the containment of a thread to a later step (09 R215). -/
def State.setPend (s : State) (c t : Nat) (p : Option Pend) : State := s.setThread c t { s.thread c t with pend := p }

/-- The stage in which %ccrel has released no core: a boot thread that ends stops the boot (17 R328). -/
def State.bootEnds (s : State) (c t : Nat) (cause : Nat) : State :=
  if t = 0 ∧ s.isBootCore c = true ∧ s.sysReg 0x315 = 0 then
    s.setSysReg 0x317 (BitVec.ofNat 64 (setBits (setBits (s.sysReg 0x317).toNat 15 8 9) 23 16 cause))
  else s

/-! ### Taking work (09 R197, R202, R204, R205) -/

def State.msgsOf (s : State) (c : Nat) : List Packet := s.msgs.get [] (tcKey (s.core c).tenant c)
def State.setMsgs (s : State) (c : Nat) (l : List Packet) : State :=
  { s with msgs := s.msgs.set [] (tcKey (s.core c).tenant c) l }
def State.tag (s : State) (c i : Nat) : Tag := s.tags.get Tag.zero (tcKey (s.core c).tenant c * 64 + i)

/-- Count a discarded packet (07 R159, 14 R279). -/
def State.discard (s : State) (ten c : Nat) : State :=
  let k := tcKey ten c
  ({ s with undeliv := s.undeliv.set 0 k (s.undeliv.get 0 k + 1) }).countCore c 27 1

/-- The claims of RCVL on a channel, oldest first: symbol and slot count; symbol 256 marks a value that is discarded. -/
def State.claimsOf (s : State) (c e : Nat) : List (Nat × Nat) := s.claims.get [] (tcKey (s.core c).tenant c * 64 + e)
def State.setClaims (s : State) (c e : Nat) (l : List (Nat × Nat)) : State :=
  { s with claims := s.claims.set [] (tcKey (s.core c).tenant c * 64 + e) l }

/-- The bytes of k slots of a channel from its read pointer, as a 256-byte value (06 R116). -/
def State.slotBytes (s : State) (c e k : Nat) : List Byte :=
  let x := s.chan c e
  ((List.range k).flatMap (fun j => s.scrBytes (tcKey (s.core c).tenant c) (x.slotOff (x.rp.toNat + j)) x.slotSize)).take 256

/-- A symbol resolves to a value: the registers of a thread that runs are resolved, else the value is held (11 R233). -/
def State.arrival (s : State) (c i x : Nat) : State :=
  match s.sym c i with
  | none => s
  | some y =>
    if y.state != .pending then s
    else if (s.core c).tenant == y.ten && !(s.core c).halted && (s.ctxOf (.core c y.thread)).symRefs.contains i then
      let s := s.deliver c y.thread i x y.src.conv
      let z := s.thread c y.thread
      if z.ctx.run = .waitLate then
        s.setThread c y.thread { z with ctx := { z.ctx with run := .ready }, stamp := s.now c } else s
    else s.setSym c i (some { y with state := .value x })

/-- A symbol resolves to poison (11 R240). A thread that waits on it re-evaluates its condition. -/
def State.poisonSym (s : State) (c i cause : Nat) : State :=
  match s.sym c i with
  | none => s
  | some y =>
    if y.state != .pending then s
    else
      let s := s.setSym c i (some { y with state := .poison cause })
      if (s.core c).tenant == y.ten then
        let z := s.thread c y.thread
        if z.ctx.run = .waitLate then
          s.setThread c y.thread { z with ctx := { z.ctx with run := .ready }, stamp := s.now c } else s
      else s

/-- RCVL claims whose slots are filled resolve in claim order, and RP advances over them (07 R163). -/
def State.resolveClaims (s : State) (c e : Nat) : Nat → State
  | 0 => s
  | fuel + 1 =>
    match s.claimsOf c e with
    | [] => s
    | (i, k) :: rest =>
      let x := s.chan c e
      if k ≤ x.filled then
        let bs := s.slotBytes c e k
        let first := x.rp.toNat
        let s := (s.setChan c e { x with rp := x.rp + BitVec.ofNat 32 k }).setClaims c e rest
        let s := match s.sym c i with
          | some y =>
            if y.src = Source.slots e first k ∧ y.ten = (s.core c).tenant then s.arrival c i (ofBytes (if y.vec then bs else bs.take 8)) else s
          | none => s
        s.resolveClaims c e fuel
      else s

/-- Append a deposit's payload to the channel's next slot, with zeros above it, and wake the consumers (07 R159). -/
def State.appendSlot (s : State) (c e : Nat) (bs : List Byte) : State :=
  let x := s.chan c e
  let pad := (bs ++ List.replicate (x.slotSize - bs.length) 0).take x.slotSize
  let s := s.scrWrite (tcKey (s.core c).tenant c) (x.slotOff x.wp.toNat) pad
  let s := s.setChan c e { x with wp := x.wp + 1 }
  let s := (s.resolveClaims c e ((s.claimsOf c e).length + 1)).wakeChan c e
  if (s.core c).tenant = 16 ∧ e = 0 then
    let k := s.core c
    s.setCore c { k with bootCount := k.bootCount + 1 }
  else s

/-- What becomes of a deposit: appended, still waiting for room, or discarded (07 R159, R160). -/
def State.depositFate (s : State) (c : Nat) (pk : Packet) (g : Tag) : Option State :=
  let e := g.target.toNat % 64
  let x := s.chan c e
  if !x.v || x.slotSize < pk.payload.length then some (s.discard (s.core c).tenant c)
  else if x.empty = 0 then none
  else some (s.appendSlot c e pk.payload)

/-- Deposits and discards among the spilled packets, in order for each channel (07 R159). -/
def State.drainDeposits (s : State) (c : Nat) : State :=
  let r := (s.msgsOf c).foldl (fun (r : State × List Packet × List Nat) pk =>
    let g := r.1.tag c pk.tag
    if !g.v then (r.1.discard (r.1.core c).tenant c, r.2)
    else if g.deposit then
      if r.2.2.contains pk.tag then (r.1, r.2.1 ++ [pk], r.2.2)
      else match r.1.depositFate c pk g with
        | some s => (s, r.2)
        | none => (r.1, r.2.1 ++ [pk], r.2.2 ++ [pk.tag])
    else (r.1, r.2.1 ++ [pk], r.2.2)) (s, [], [])
  r.1.setMsgs c r.2.1

/-- One unit from the bottom of the deque by the pop rule: the state and the unit to start, or a page fault that is
posted, or nothing (09 R202). -/
def State.pop (s : State) (c t : Nat) : State × Option Start :=
  if s.dequeHeld (s.core c).tenant c then (s, none)
  else
  let s := s.refill c
  match s.dequeOf c with
  | [] => (s, none)
  | r :: rest =>
    if !r.range then (s.takeRecord c rest, some (.record r 0 0))
    else
      let hi := min (r.lo.toNat + r.grain.toNat) r.hi.toNat
      let hiW := BitVec.ofNat 64 hi
      if hi = r.hi.toNat then (s.takeRecord c rest, some (.record r r.lo hiW))
      else
        let keep (s : State) : State × Option Start :=
          (s.setDeque c ({ r with lo := hiW, addr := 0 } :: rest), some (.record r r.lo hiW))
        let refuse (s : State) (k : Nat) : State × Option Start :=
          (match r.launch with
            | some l => s.endLaunch l k c t r.code.toNat r.joinc.toNat
            | none => s.takeRecord c rest, none)
        if r.joinc = 0 then keep s
        else match s.joinCheck (.core c t) (s.core c).tenant r.joinc.toNat with
          | (s, .ok pa) => (match s.joinAdd c pa with
            | some s => keep s
            | none => refuse s cPOISON)
          | (s, .post) =>
            if (s.core c).tenant = 16 then (s.takeRecord c rest, none)
            else
              let k := clusterOfCore c
              let x := s.thread c t
              let s := s.setThread c t { x with stall := true }
              ({ s with faults := s.faults.set [] k (s.faults.get [] k ++ [PageFault.mk r.joinc.toNat (s.core c).tenant .atomic (.pop c t)]) }.irq
                (k / 5 * 6 + k % 5) 0 |>.countCluster k 50 1, none)
          | (s, .bad k) => refuse s k

/-- The first available work of a free thread: the oldest ACTIVATE packet, else a pop (09 R197). -/
def State.findWork (s : State) (c t : Nat) : State × Option Start :=
  match findIdx? (fun (pk : Packet) => (s.tag c pk.tag).v && !(s.tag c pk.tag).deposit) (s.msgsOf c) 0 with
  | some (i, pk) =>
    let g := s.tag c pk.tag
    (s.setMsgs c (dropIdx (s.msgsOf c) i), some (.activation pk g.target g.pol g.bud g.low))
  | none => s.pop c t

/-- An activation breakpoint of the core matches an ACTIVATE packet (20 R368). -/
def State.abpMatch (s : State) (c : Nat) (pk : Packet) : Bool :=
  let g := s.tag c pk.tag
  !pk.past && (List.range 4).any (fun j =>
    let w := (s.ctlWord (0x810020 + 64 * c + 8 * j)).toNat
    w.testBit 63 && (!w.testBit 62 || bitsOf w 61 56 == pk.tag) && (bitsOf w 47 0 == 0 || bitsOf w 47 0 == g.target.toNat))

/-- A breakpoint stops the core before the spilled packet that a free thread would take; the packet is marked and stays in
its place. -/
def State.abpStop (s : State) (c : Nat) : Option State :=
  match findIdx? (fun (pk : Packet) => (s.tag c pk.tag).v && !(s.tag c pk.tag).deposit) (s.msgsOf c) 0 with
  | some (i, pk) =>
    if s.abpMatch c pk then some ((s.setMsgs c (setIdx (s.msgsOf c) i { pk with past := true })).haltTrigger c 5) else none
  | none => none

/-- Start what a free thread takes, contain a start record's own trap, and so on until the thread holds a unit, waits,
or finds no work (09 R197, R200, R212). `contain` is the containment of a cause with its %epc and %eval; `fuel` bounds
the units that end at once. -/
def State.takeWith (s : State) (c t : Nat) (contain : State → Nat → Nat → Nat → State) : State :=
  if s.canTake c t then
    match s.abpStop c with
    | some s => s
    | none =>
    match s.findWork c t with
    | (s, none) => s
    | (s, some st) =>
      match s.begin c t st none with
      | (s, none) => s
      | (s, some (k, v)) => contain s k (s.ctxOf (.core c t)).pc.toNat v
  else s

/-- The frames that one step of containment may walk: one where a pre-emption may catch the unit between them
(09 R215), else as many as there are blocks. -/
def State.failFuel (s : State) : Nat := if s.caught then 1 else s.mem.length + s.l1.length + 2

/-- Containment of a trap on a core thread, and what the thread does next: restart, continue, resume its parent, or
take work (09 R212). `dests` are the destinations of the instruction. `fuel` bounds the units that end at once; what it
does not reach is left to the thread's next step. -/
def State.contain : Nat → State → Nat → Nat → Nat → Bool → List Operand → Option FailWalk → State
  | 0, s, c, t, cause, ign, dests, walk => s.setPend c t (some { cause := cause, ign := ign, dests := dests, walk := walk })
  | fuel + 1, s, c, t, cause, ign, dests, walk =>
    let s := s.setPend c t none
    let th := s.thread c t
    let x := th.ctx
    let ten := (s.core c).tenant
    let pol := x.policy.toNat % 4
    let bud := x.policy.toNat / 4
    let again (s : State) (k epc eval : Nat) : State :=
      let h := HartId.core c t
      let y := s.ctxOf h
      let s := s.setCtxOf h { y with cause := BitVec.ofNat 8 k, epc := BitVec.ofNat 64 epc, eval := BitVec.ofNat 64 eval }
      State.contain fuel s c t k false [] none
    let restart (s : State) (b : Nat) : State :=
      let s := s.endUnit c t
      match s.begin c t th.start th.launch with
      | (s, f) =>
        let y := s.ctxOf (.core c t)
        let s := s.setCtxOf (.core c t) { y with policy := policyOf (y.policy.toNat % 4) b }
        match f with
        | some (k, v) => again s k y.pc.toNat v
        | none => s
    let leave (s : State) : State :=
      match (s.thread c t).inl with
      | some p => s.resumeParent c t p
      | none =>
        let s := s.setThread c t { Thread.zero with stamp := (s.thread c t).stamp }
        s.takeWith c t again
    if walk.isNone ∧ pol = 0 ∧ ign = true then (s.log c t x th.launch cause 0 x.joinc.toNat).completeZero c t dests
    else if walk.isNone ∧ pol = 1 ∧ 0 < bud then restart (s.log c t x th.launch cause 1 x.joinc.toNat) (bud - 1)
    else
      let s := if walk.isNone then (s.endUnit c t).trace th.launch ten c t 3 [3] (bytesOf 6 x.epc.toNat) else s
      match th.launch with
      | none =>
        let s := (s.log c t x none cause 2 x.joinc.toNat).bootEnds c t cause
        leave s
      | some l =>
        let sink := match s.launches.get none l with | some y => y.sink.toNat | none => 0
        let w := walk.getD { block := x.joinc.toNat, kill := pol == 3, act := 2, frames := [], zeros := [] }
        let (s, act, frames, zeros, e) := s.fail c t ten sink s.failFuel w.block w.kill w.act w.frames w.zeros
        match e with
        | .more j kill =>
          let w := { block := j, kill := kill, act := act, frames := frames, zeros := zeros }
          s.setPend c t (some { cause := cause, ign := ign, dests := dests, walk := some w })
        | e =>
          let s := s.log c t x th.launch cause act x.joinc.toNat
          let s := frames.foldl (fun s j => s.log c t x th.launch cause 3 j) s
          let s := zeros.foldl (fun s j => s.log c t x th.launch cJOIN_COUNT 2 j) s
          match e with
          | .restart => restart s bud
          | .cont pc frame joinc p b =>
            match (s.acquirePart (.core c t) 4).begin c t
                (.join (BitVec.ofNat 64 pc) (BitVec.ofNat 64 frame) (BitVec.ofNat 64 joinc) p b x.low) th.launch with
            | (s, some (k, v)) => again s k pc v
            | (s, none) => s
          | .endLaunch k => s.endLaunch l (if k = 0 then cause else k) c t x.epc.toNat x.eval.toNat
          | _ => leave s

/-- The bound on units that end at once in one step; beyond it, and where a pre-emption may catch the unit, a trap's
containment is left to the thread's next step (09 R215). -/
def State.chainFuel (s : State) : Nat := if s.caught then 0 else 64

/-- A start record's own trap: the trap registers, then containment, never ignorable (09 R200). -/
def State.startTrap (s : State) (c t k epc eval : Nat) : State :=
  let h := HartId.core c t
  let y := s.ctxOf h
  let s := s.setCtxOf h { y with cause := BitVec.ofNat 8 k, epc := BitVec.ofNat 64 epc, eval := BitVec.ofNat 64 eval }
  s.contain s.chainFuel c t k false [] none

/-- Start a unit on a thread, its own first trap included. -/
def State.startUnit (s : State) (c t : Nat) (st : Start) (l : Option Nat) : State :=
  match s.begin c t st l with
  | (s, none) => s
  | (s, some (k, v)) => s.startTrap c t k (s.ctxOf (.core c t)).pc.toNat v

/-- A free thread takes the first available work (09 R197). -/
def State.takeWork (s : State) (c t : Nat) : State :=
  s.takeWith c t (fun s k epc eval => s.startTrap c t k epc eval)

/-- The work sources of a core have changed: its free threads take work, the lowest first (09 R197, log entry 11). -/
def State.feed (s : State) (c : Nat) : State :=
  (List.range 16).foldl (fun s t => s.takeWork c t) (s.drainDeposits c)

/-- The cores on which threads of a launch run. -/
def State.coresOfLaunch (s : State) (l : Nat) : List Nat :=
  (s.threads.filter (fun e => e.2.launch == some l)).foldl
    (fun cs e => let c := e.1 / 16 % 1024; if cs.contains c then cs else cs ++ [c]) []

/-- The threads that the end of a launch made FREE take work (09 R197): `s0` is the state before it. -/
def State.feedEnded (s s0 : State) : State :=
  (s0.launches.filter (fun e => match e.2, s.launches.get none e.1 with
    | some x, some y => x.failed.isNone && y.failed.isSome
    | _, _ => false)).foldl (fun s e => (s0.coresOfLaunch e.1).foldl State.feed s) s

/-- A thread goes on with the containment that it still has to complete (09 R215). -/
def State.finishTrap (s : State) (c t : Nat) (p : Pend) : State :=
  (s.contain 64 c t p.cause p.ign p.dests p.walk).feedEnded s

/-- The unit of a core thread ends: the parent of an inline child resumes, or the thread becomes FREE and takes work
(05 R101, 07 R156). `how` is the END record's byte 9 (20 R369). -/
def State.exitUnit (s : State) (c t how : Nat) (lastPc : Nat) : State :=
  let th := s.thread c t
  let s := s.trace th.launch (s.core c).tenant c t 3 (bytesOf 1 how) (bytesOf 6 lastPc)
  let s := s.endUnit c t
  match th.inl with
  | some p => s.resumeParent c t p
  | none =>
    let s := s.setThread c t { Thread.zero with stamp := th.stamp }
    s.takeWork c t

end Sys2Proof.Machine
end

