-- ==== Sys2Proof/Machine/Jobs.lean ====
section
/-! DEFINITION. How engine jobs and copy packets end, and page faults are posted (08 R174, R195; 12 R251 to R259;
14 R292). -/

namespace Sys2Proof.Machine

/-- Run a step as another hart. -/
def runAs {α : Type} (s : State) (h : HartId) (m : M α) : Except Stop (α × State) :=
  match m { s with hart := h } with
  | .ok (a, t) => .ok (a, { t with hart := s.hart })
  | .error e => .error e

/-- The logical core and the thread of a page-fault record: 960 + octet, and the queue or channel, for an engine. -/
def Requester.place : Requester → Nat × Nat
  | .hart (.core c t) => (c, t)
  | .hart (.me o q) => (960 + o, q)
  | .hart (.cu o ch) => (960 + o, ch)
  | .pop c t => (c, t)
  | .split v _ => (v, 0)
  | .mailbox o q => (960 + o, q)
  | .record o ch => (960 + o, ch)

/-- The code of an access in a page-fault record. -/
def Access.code : Access → Nat
  | .read => 0
  | .write => 1
  | .fetch => 2
  | .atomic => 3

/-- The 32 bytes of a page-fault record (14 R292). -/
def PageFault.bytes (p : PageFault) : List Byte :=
  byteSlice (bytesOf 8 p.va ++ bytesOf 1 (p.ten % 16) ++ bytesOf 1 p.acc.code ++ bytesOf 2 p.who.place.1 ++ bytesOf 1 p.who.place.2) 0 32

/-- Post a page-fault record to the cluster's queue and raise the command processor's interrupt (14 R292). -/
def State.postFault (s : State) (cl va ten : Nat) (acc : Access) (who : Requester) : State :=
  (({ s with faults := s.faults.set [] cl (s.faults.get [] cl ++ [PageFault.mk va ten acc who]) }).irq (cl / 5 * 6 + cl % 5) 0).countCluster cl 50 1

/-! ### Matrix engine jobs -/

/-- The mailbox word, which is also the low half of the status word (12 R253, 07 R162). -/
def mailboxWord (j : Job) (cause : Nat) : Nat :=
  min j.cyc (2 ^ 32 - 1) * 2 ^ 32 + j.id * 2 ^ 16 + cause * 2 ^ 8 + (if j.path then 32 else 0) + 2

/-- The core's record of a job takes a state and a cause (07 R162). -/
def State.setJobRec (s : State) (core id st cause : Nat) : State :=
  let x := s.core core
  s.setCore core { x with jobs := x.jobs.map (fun r => if r.id = id then { r with state := st, cause := cause } else r) }

/-- The head job of a queue. -/
def State.headJob (s : State) (o q : Nat) : Option Job := ((s.octet o).queues.get [] q).head?

/-- Replace the head job of a queue. -/
def State.setHeadJob (s : State) (o q : Nat) (j : Job) : State :=
  let x := s.octet o
  s.setOctet o { x with queues := x.queues.set [] q (j :: (x.queues.get [] q).tail) }

/-- The directory key of the take of (die, tenant, layer) (15 R298). -/
def State.takeKey (s : State) (d ten layer : Nat) : Option Nat :=
  (s.takesWith (fun k e => k / 4096 == d && e.ten == ten && e.layer == layer)).head?

/-- The layer of a job packet. -/
def Job.layer (j : Job) : Nat := fieldAt j.packet 4 2

/-- What the end of an MEDL does to its take: one that failed invalidates it, and one that held it BUSY makes it valid,
with its count and stamp (15 R306). -/
def State.endTake (s : State) (o q : Nat) (j : Job) (cause : Nat) : State :=
  if fieldAt j.packet 0 1 ≠ 4 then s
  else
    let mine (b : TakeBusy) : Bool := b.octet == o && b.queue == q
    let held := s.takeBusy.any mine
    let s := { s with takeBusy := s.takeBusy.filter (fun b => !mine b) }
    match s.takeKey (o / 30) j.ten j.layer with
    | none => s
    | some k =>
      if cause ≠ 0 then s.dropTake k
      else if held then
        (match s.takes.get none k with
          | some e =>
            let stamp := s.time / 16 % 2 ^ 32
            let a := s.takeLine (k / 4096) e 0
            let w := s.homeNat a 8
            let count := if j.path then bitsOf w 54 48 + 1 else 0
            let w := w % 2 ^ 48 + count * 2 ^ 48 + w / 2 ^ 55 % 2 ^ 8 * 2 ^ 55 + 2 ^ 63
            { s with takes := s.takes.set none k (some { e with stamp := BitVec.ofNat 32 stamp }) }.homeWriteNat (960 + o) a 8 w
          | none => s)
      else s

/-- The head job's entry frees, and the core's record becomes done in the same step (12 R253). -/
def State.jobDone (s : State) (o q : Nat) (j : Job) (cause : Nat) : State :=
  let s := if cause = 0 then s else s.countOctet o 39 1
  let s := s.endTake o q j cause
  (s.setHeadJob o q { j with done := true, ending := none }).setJobRec j.core j.id 2 cause

/-- A run ends by EXIT (05 R101, 12 R244). A job that has written no mailbox by then ends with none. -/
def State.exitRun (s : State) (h : HartId) : State :=
  match h with
  | .me o q =>
    (match s.headJob o q with
    | none => s
    | some j =>
      let s := if j.done then s else s.jobDone o q j 0
      let x := s.octet o
      s.setOctet o { x with queues := x.queues.set [] q (x.queues.get [] q).tail, meCtx := x.meCtx.set Ctx.zero q Ctx.zero })
  | .cu o ch =>
    let x := s.octet o
    s.setOctet o { x with chans := x.chans.set none ch none, cuCtx := x.cuCtx.set Ctx.zero ch Ctx.zero }
  | _ => s

/-- The run of the head job is over: the job leaves its queue, and the hart is free. -/
def State.dropJob (s : State) (o q : Nat) : State :=
  let x := s.octet o
  s.setOctet o { x with queues := x.queues.set [] q (x.queues.get [] q).tail, meCtx := x.meCtx.set Ctx.zero q Ctx.zero }

/-- The head job ends with a cause: the mailbox is written at its home with release, then the record becomes done. A
page fault of the write is posted first; with `final`, or after any other failure, the mailbox stays as it is
(08 R174, 12 R253). -/
def State.endJob (s : State) (o q cause : Nat) (final : Bool) : State :=
  match s.headJob o q with
  | none => s
  | some j =>
    if j.done then s.dropJob o q
    else
      let mb := fieldAt j.packet 56 8
      let write : M Unit := do
        aligned mb 8
        let (loc, pg) ← checkAccess mb .write anyPage
        writeLoc mb loc pg (bytesOf 8 (mailboxWord j cause)) true
        bumpLoc loc
      if mb = 0 then (s.jobDone o q j cause).dropJob o q
      else if mb % 8 ≠ 0 then (s.jobDone o q j (if cause = 0 then cFORMAT else cause)).dropJob o q
      else match runAs s (.me o q) write with
        | .ok (_, t) => (t.jobDone o q j cause).dropJob o q
        | .error (.trap k _) => (s.jobDone o q j (if cause = 0 then k else cause)).dropJob o q
        | .error (.page _ _) =>
          if final then (s.jobDone o q j (if cause = 0 then cPAGE_FAULT else cause)).dropJob o q
          else
            let s := s.setHeadJob o q { j with ending := some cause }
            let x := s.octet o
            (s.setOctet o { x with meCtx := x.meCtx.set Ctx.zero q Ctx.zero }).postFault (o / 6) mb j.ten .write (.mailbox o q)
        | .error _ => (s.jobDone o q j cause).dropJob o q

/-! ### Copy packets -/

/-- The completion record of a packet (12 R259). -/
def packetRecord (seq status cause oor bytes addr sats fills : Nat) : List Byte :=
  bytesOf 4 seq ++ bytesOf 1 status ++ bytesOf 1 cause ++ bytesOf 2 (min oor 65535) ++ bytesOf 8 bytes ++ bytesOf 8 addr
    ++ bytesOf 4 (min sats (2 ^ 32 - 1)) ++ bytesOf 4 (min fills (2 ^ 32 - 1))

/-- CC advances past the sequence of a record that has been written, where it is the next in order (12 R259). -/
def State.advanceCC (s : State) (o qaddr seq : Nat) : State :=
  if s.homeNat (qaddr + 40) 4 = seq then s.homeWriteNat (1080 + o) (qaddr + 40) 8 ((seq + 1) % 2 ^ 32) else s

/-- The run of a channel's packet is over: the channel and its hart are free. -/
def State.dropRun (s : State) (o ch : Nat) : State :=
  let x := s.octet o
  s.setOctet o { x with chans := x.chans.set none ch none, cuCtx := x.cuCtx.set Ctx.zero ch Ctx.zero }

/-- The packet of a channel ends: its record is written at its home with release, then CC advances. A page fault of the
write is posted first; with `final`, or where the address is refused, no record is written, and CC does not pass its
sequence (12 R259). -/
def State.endPacket (s : State) (o ch status : Nat) (final : Bool) : State :=
  match (s.octet o).chans.get none ch with
  | none => s
  | some r =>
    if r.done then s.dropRun o ch
    else
      let lcnt := s.homeNat (r.qaddr + 24) 1 % 16
      let va := s.homeNat (r.qaddr + 32) 8 + 32 * (r.seq % 2 ^ lcnt)
      let (cause, addr) := r.fault.getD (0, 0)
      let write : M Unit := do
        aligned va 32
        let (loc, pg) ← checkAccess va .write anyPage
        writeLoc va loc pg (packetRecord r.seq status cause r.oor r.bytes addr r.sats r.fills) true
        bumpLoc loc
      let finish (s : State) : State :=
        ((s.countOctet o 40 1).countOctet o 41 r.bytes |>.countOctet o 43 r.sats |>.countOctet o 44 r.fills).dropRun o ch
      match runAs s (.cu o ch) write with
      | .ok (_, t) => finish (t.advanceCC o r.qaddr r.seq)
      | .error (.page _ _) =>
        if final then finish s
        else
          let x := s.octet o
          (s.setOctet o { x with chans := x.chans.set none ch (some { r with ending := some status }),
                                 cuCtx := x.cuCtx.set Ctx.zero ch Ctx.zero }).postFault (o / 6) va r.ten .write (.record o ch)
      | .error _ => finish s

/-- The packet ends with a cause and the address of its first fault. -/
def State.failPacket (s : State) (o ch cause addr : Nat) : State :=
  match (s.octet o).chans.get none ch with
  | none => s
  | some r =>
    let x := s.octet o
    (s.setOctet o { x with chans := x.chans.set none ch (some { r with fault := some (r.fault.getD (cause, addr)) }) }).endPacket
      o ch 2 false

end Sys2Proof.Machine
end

