-- ==== Sys2Proof/Machine/Ops.lean ====
section
/-! DEFINITION. Taking a trap and returning from one (09 R210 to R212, 04 R70), the privilege checks (04 R82, R85), the
guard (04 R78), waiting (07 R164), reports (07 R144), and the frame in which every instruction runs. -/

namespace Sys2Proof.Machine

/-- What a step answers. -/
abbrev Out := Host.Outcome State Fault Refusal

/-- The kind of a hart (04 R85). -/
def HartId.kind : HartId → HartKind
  | .core _ _ => .core
  | .me _ _ => .engine
  | .cu _ _ => .copyUnit

/-- The thread runs in tenant mode; an engine hart never does (04 R85). -/
def State.tenantMode (s : State) : HartId → Bool
  | .core c t => !(s.thread c t).sys
  | _ => false

/-- The fields of a format L word that a trap looks at. -/
def headFields (f : LFields) : TFields := { g := f.g, h := f.h, m := f.m, d := f.d, a := .none, b := .none }

/-- The opcodes whose field D is not a destination: stores, sends, branches, BIND, UNBIND, REL, LNPATCH, and the sources of
08 R193, R194. -/
def noDest : List Nat :=
  [0x041, 0x046, 0x103, 0x104, 0x108, 0x10A, 0x10C, 0x11A, 0x11B, 0x11D, 0x120, 0x140, 0x141, 0x143, 0x144, 0x145, 0x172, 0x18A,
   0x1E0, 0x1E2, 0x1E3, 0x1E7, 0x1E9, 0x1EC, 0x1EE]

/-- The destination registers of an instruction (09 R212): of ACAS the first register of its pair (07 R149), and of a WRX of
another thread's register none of the issuing thread's. -/
def destsOf (op : Nat) (f : TFields) : List Operand :=
  if noDest.contains op || (op == 0x1B5 && f.b != .none) then []
  else match (if op = 0x117 then f.d else .none) with
    | .w e => [.s (BitVec.ofNat 6 (2 * e.toNat))]
    | _ => [f.d]

/-- A policy of IGNORE may ignore this cause of this instruction: not the MISALIGNED of a transfer (09 R212). -/
def ignorableOf (op cause : Nat) : Bool := ignorable cause && !(cause == cMISALIGNED && [0x041, 0x043, 0x044, 0x1B3].contains op)

/-! ### The pc, and the frame of an instruction -/

def State.setPc (s : State) (h : HartId) (pc : Word) : State := s.setCtxOf h { s.ctxOf h with pc := pc }

/-- pc := NextPc. -/
def State.advance (s : State) (h : HartId) : State :=
  s.setPc h (BitVec.ofNat 64 (nextPc (s.ctxOf h).pc.toNat))

/-- A wait state of a thread (02 R36). -/
def RunState.waits : RunState → Bool
  | .free => false
  | .ready => false
  | .running => false
  | _ => true

/-- The thread issues, or a trap reaches it: what it recorded of a wait or a stall is over. A thread that leaves a wait state
takes its age stamp (09 R207). -/
def State.enter (s : State) (h : HartId) : State :=
  match h with
  | .core c t =>
    let x := s.thread c t
    s.setThread c t { x with ctx := { x.ctx with run := .ready }, waiting := none, stall := false,
                             stamp := if x.ctx.run.waits then s.now c else x.stamp }
  | _ => s.setCtxOf h { s.ctxOf h with run := .ready }

/-! ### Traps (09 R210) -/

/-- How a trap came about: from most causes, from RAISE, or from BKPT. -/
inductive TrapSrc where
  | plain | raise | bkpt
  deriving DecidableEq, Repr

/-- The core is armed for BKPT (20 R362). -/
def State.armed (s : State) (c : Nat) : Bool := (s.ctlWord (0x820000 + 8 * c)).getLsbD 0

/-- Taking a trap: %cause, %epc and %eval are written; then a halt for the debugger, containment, or the handler at
%tvec, which entry clears (09 R210). A malformed %tvec, which no write gives (04 R70), is no handler. On an engine hart
without a handler the engine ends the job or packet (08 R195). -/
def State.takeTrap (s : State) (h : HartId) (cause val : Nat) (src : TrapSrc) (ign : Bool) (dests : List Operand) : State :=
  let s : State := match h with | .core c t => (s.enter h).countThread c t 12 1 | _ => s.enter h
  let x := s.ctxOf h
  let s := s.setCtxOf h { x with cause := BitVec.ofNat 8 cause, epc := x.pc, eval := BitVec.ofNat 64 val }
  let enterHandler (s : State) : State :=
    let x := s.ctxOf h
    s.setCtxOf h { x with pc := x.tvec, tvec := 0 }
  let contains : Bool := src == .raise || cause == cWATCHDOG || cause == cHW_ERROR || x.tvec == 0 || !pcOk x.tvec.toNat
  match h with
  | .core c t =>
    if src = .bkpt ∧ s.armed c = true then (s.advance h).haltTrigger c 2
    else if contains then (s.contain s.chainFuel c t cause ign dests none).feedEnded s
    else (enterHandler s).trace (s.thread c t).launch (s.core c).tenant c t 5 (bytesOf 1 cause ++ bytesOf 1 5)
      (bytesOf 6 x.pc.toNat)
  | .me o q => if contains then s.endJob o q cause false else enterHandler s
  | .cu o ch => if contains then s.failPacket o ch cause val else enterHandler s

/-- CheckTarget: a malformed PC raises MISALIGNED with the target (04 R70). -/
def checkTarget (t : Word) : M Unit := if pcOk t.toNat then pure () else trap cMISALIGNED t.toNat

/-- Transfer control. -/
def jumpTo (t : Word) : M Unit := fun s => .ok ((), s.setPc s.hart t)

/-- Return from a handler: control goes to a checked target, and the handler is left (08 R189). -/
def returnTo (t : Word) : M Unit := do
  checkTarget t
  jumpTo t

/-- A trap of CheckDecode, which no policy ignores (04 R83). -/
def State.decodeTrap (s : State) (h : HartId) (word : BitVec 96) (cause step fbit : Nat) : State :=
  s.takeTrap h cause (decodeEval word ⟨step, fbit⟩).toNat .plain false []

/-! ### Waits, page faults and reports -/

/-- A waiting instruction records its run state, wait object and wait count, and has no effect yet (07 R164). Of a wait for a
late operand it records only that it has issued: once the operand is present it executes as if it issued then (05 R91). The
counts of waits that are neither for slots nor for a time are the model's choice (log entry 92). -/
def State.setWait (s : State) (h : HartId) (op : Nat) (f : TFields) (run : RunState) (obj cnt : Nat) : State :=
  match h with
  | .core c t =>
    let x := s.thread c t
    s.setThread c t { x with ctx := { x.ctx with run := run, waitObj := BitVec.ofNat 64 obj, waitCnt := BitVec.ofNat 64 cnt },
                             waiting := some (if run = .waitLate ∧ obj < 256 then 512 else op, f), stall := false }
  | _ => s.setCtxOf h { s.ctxOf h with run := run, waitObj := BitVec.ofNat 64 obj, waitCnt := BitVec.ofNat 64 cnt }

/-- A page fault: the record is posted and the hart stalls; in the boot context, whose addresses no walker translates,
it traps at once (14 R292, 17 R327). A fetch has no site, and the wait that its thread has recorded stays. -/
def State.pageStop (s : State) (h : HartId) (site : Option (Nat × TFields)) (va : Nat) (acc : Access) (ign : Bool)
    (dests : List Operand) : State :=
  match h with
  | .core c t =>
    if (s.core c).tenant = 16 then s.takeTrap h cPAGE_FAULT va .plain ign dests
    else
      let x := s.thread c t
      let w := if site.isSome then site else x.waiting
      let s := s.setThread c t { x with ctx := { x.ctx with run := .running }, stall := true, waiting := w }
      s.postFault (clusterOfCore c) va (s.core c).tenant acc (.hart h)
  | _ => s.postFault (clusterOf h) va (s.tenOf h) acc (.hart h)

/-- The instruction reports through its guard predicate, and has no other effect (07 R144). -/
def State.reportGuard (s : State) (h : HartId) (g : Guard) : State :=
  let c := s.ctxOf h
  (s.writeP h g.p.toNat (if g.neg then onesBelow (lanes c) else 0)).advance h

/-- The guard is true (04 R78). -/
def guardTrue (g : Guard) (c : Ctx) : Bool := (c.getP g.p.toNat).getLsbD 0 != g.neg

/-- What becomes of an instruction: its effect, or its trap, wait, page fault or report. -/
def State.settle (s : State) (h : HartId) (op : Nat) (f : TFields) (r : Except Stop (Unit × State)) : State :=
  match r with
  | .ok (_, t) => t
  | .error (.trap k v) => s.takeTrap h k v .plain (ignorableOf op k) (destsOf op f)
  | .error (.trapAfter t k v) => (t.setPc h (s.ctxOf h).pc).takeTrap h k v .plain (ignorableOf op k) (destsOf op f)
  | .error (.raise v) => s.takeTrap h cSOFTWARE v .raise true (destsOf op f)
  | .error (.bkpt v) => s.takeTrap h cBREAKPOINT v .bkpt true (destsOf op f)
  | .error (.page va acc) => s.pageStop h (some (op, f)) va acc (ignorableOf op cPAGE_FAULT) (destsOf op f)
  | .error (.wait run obj cnt) => s.setWait h op f run obj cnt
  | .error (.waitAfter t run obj cnt) => (t.setPc h (s.ctxOf h).pc).setWait h op f run obj cnt
  | .error .report => (s.enter h).reportGuard h f.g

/-! ### The frame -/

/-- A field that names a special register 0x300 to 0x3FF: the low bit of the first such field (04 R82). -/
def sysField (f : TFields) : Option Nat :=
  let sys : Operand → Bool := fun o => match o with | .x n => 0x300 ≤ n.toNat | _ => false
  if sys f.d then some 40 else if sys f.a then some 20 else if sys f.b then some 0 else none

/-- %mewt is RO to tenant mode (12 R252). -/
def namesMewt (op : Nat) (f : TFields) : Bool := (op == 0x01E || op == 0x1B5) && f.d == .x 0x200

/-- Steps 1, 3 (%mewt) and 4 of CheckDecode, which depend on the hart: the cause, step and FBIT (04 R82). -/
def State.hartChecks (s : State) (h : HartId) (op : Nat) (f : TFields) : Option (Nat × Nat × Nat) :=
  if !legalOn h.kind op then some (cILLEGAL_OPCODE, 1, 87)
  else if s.tenantMode h then
    if namesMewt op f then some (cILLEGAL_OPERAND, 3, 40)
    else if privileged op then some (cPRIVILEGE, 4, 87)
    else match sysField f with
      | some b => some (cPRIVILEGE, 4, b)
      | none => none
  else none

/-- The word 2 bits of an instruction, all that a decode trap keeps of it (04 R83). -/
def headWord (op : Nat) (f : TFields) : BitVec 96 := BitVec.ofNat 96 (headBits op f.g f.h f.m)

/-- The recorded wait of a hart is this instruction's own. -/
def State.resumes (s : State) (h : HartId) (op : Nat) (f : TFields) : Bool :=
  match h with
  | .core c t => (s.thread c t).waiting == some (op, f)
  | _ => (s.ctxOf h).run != .ready

/-- Run an instruction on the hart that issues it: the hart's checks, the guard, then the effect, which starts with the
pc advanced (04 R78, R82). The effect is told whether the hart's recorded wait is its own. -/
def runWait (op : Nat) (f : TFields) (body : Bool → M Unit) (s : State) : Out :=
  match s.hartChecks s.hart op f with
  | some (k, st, b) => .next (s.decodeTrap s.hart (headWord op f) k st b)
  | none =>
    if guardTrue f.g (s.ctxOf s.hart) then
      .next (s.settle s.hart op f (body (s.resumes s.hart op f) ((s.enter s.hart).advance s.hart)))
    else .next ((s.enter s.hart).advance s.hart)

/-- Run a format T instruction. -/
def runT (op : Nat) (f : TFields) (body : M Unit) (s : State) : Out := runWait op f (fun _ => body) s

/-- Run a format L instruction. -/
def runL (op : Nat) (f : LFields) (body : M Unit) (s : State) : Out := runT op (headFields f) body s

/-- The pc of the instruction that the hart is about to run. -/
def State.pcNow (s : State) : Nat := (s.ctxOf s.hart).pc.toNat

end Sys2Proof.Machine
end

