-- ==== Sys2Proof/Machine/Image.lean ====
section
/-! DEFINITION. Context images: their bytes, and the registers that an image holds (02 R35 to R38; 14 R278, R294). -/

namespace Sys2Proof.Machine

/-- The address of the context image of a thread of a tenant's context (02 R35, 14 R278). -/
def State.imageAt (s : State) (ten c t : Nat) : Nat := s.saveArea ten c + 0x4000 * t

/-- Codes of the run states (02 R36). -/
def RunState.code : RunState → Nat
  | .free => 0
  | .ready => 1
  | .running => 2
  | .waitLate => 3
  | .waitChannel => 4
  | .waitJob => 5
  | .waitAcq => 6
  | .waitTime => 7

def runOfCode (k : Nat) : RunState :=
  [RunState.free, .ready, .running, .waitLate, .waitChannel, .waitJob, .waitAcq, .waitTime].getD k .free

/-- The state word of a thread (02 R36). -/
def Ctx.stateWord (c : Ctx) : Nat :=
  c.run.code + (if c.low then 8 else 0) + (if c.halted then 16 else 0) + (if c.wake then 32 else 0) + c.quota.toNat * 2 ^ 8
    + c.symRefs.length % 256 * 2 ^ 16

/-- The saved special registers, in their order (02 R36). -/
def Ctx.saved (c : Ctx) : List Nat :=
  [c.fmt.toNat, c.rm.toNat, c.flags.toNat, c.srseed.toNat, c.frame.toNat, c.joinc.toNat, c.policy.toNat, c.lo.toNat, c.hi.toNat,
   c.launch.toNat, c.tvec.toNat, c.cause.toNat, c.epc.toNat, c.eval.toNat]

/-- The bytes of the handle map (02 R36). -/
def Ctx.handleBytes (c : Ctx) : List Byte :=
  (List.range 16).map (fun i => match c.handles.get none i with | some e => BitVec.ofNat 8 (128 + e % 64) | none => 0)

/-- A late entry (02 R37). -/
def imageEntry (vec : Bool) : Option Late → List Byte
  | none => List.replicate 64 0
  | some l =>
    let n := l.steps.length
    let w := l.sym * 2 ^ 8 + (if vec then 16 else 0) + n * 4 + (if l.k then 2 else 0) + 1
    let st := packElems 20 (l.steps.map (fun x => x.op + x.mode * 8 + x.m.toNat * 64))
    let cs := if !l.k then bytesOf 8 l.a.toNat ++ bytesOf 8 l.b.toNat else l.steps.flatMap (fun x => bytesOf 8 x.c.toNat)
    byteSlice (bytesOf 8 w ++ bytesOf 8 st ++ cs) 0 64

/-- The 16 KiB image of a thread's registers (02 R35 to R37). -/
def Ctx.image (c : Ctx) : List Byte :=
  (List.range 64).flatMap (fun n => bytesOf 8 (if n = 0 then 0 else (c.s.get 0 n).toNat))
    ++ (List.range 32).flatMap (fun n => bytesOf 256 (c.v.get 0 n).toNat)
    ++ (List.range 16).flatMap (fun n => bytesOf 32 (if n = 0 then 2 ^ 256 - 1 else (c.p.get 0 n).toNat))
    ++ byteSlice (bytesOf 8 c.pc.toNat ++ bytesOf 8 c.stateWord ++ bytesOf 8 c.waitObj.toNat ++ bytesOf 8 c.waitCnt.toNat ++ c.handleBytes) 0 256
    ++ byteSlice (c.saved.flatMap (bytesOf 8)) 0 256
    ++ (List.range 96).flatMap (fun k => imageEntry (64 ≤ k) (c.late.get none k))
    ++ List.replicate 512 0

/-- A line of the image. -/
def imageLine (c : Ctx) (line : Nat) : List Byte := (c.image.drop (256 * line)).take 256

/-- A late entry of an image; the flag is false where the core rejects it: N > 0 with K = 0, or a reserved op or mode in one
of its N steps (02 R37). That a step at or above N, which no rule gives a use, rejects nothing is the model's choice (log
entry 93). -/
def lateOfEntry (bs : List Byte) : Option Late × Bool :=
  let w := fieldAt bs 0 8
  let st := fieldAt bs 8 8
  if w.testBit 0 then
    let n := bitsOf w 3 2
    let step (j : Nat) : LateStep :=
      let x := elemOf st 20 j
      { op := x % 8, mode := bitsOf x 5 3, m := BitVec.ofNat 14 (x / 64), c := BitVec.ofNat 64 (fieldAt bs (16 + 8 * j) 8) }
    let steps := (List.range n).map step
    let ok := if w.testBit 1 then steps.all (fun x => x.op ≤ 4 && x.mode ≤ 4) else n == 0
    let pair : Late := { sym := bitsOf w 15 8, a := BitVec.ofNat 64 (fieldAt bs 16 8), b := BitVec.ofNat 64 (fieldAt bs 24 8),
                         steps := [], k := false }
    (some (if w.testBit 1 then { pair with a := 1, b := 0, steps := steps, k := true } else pair), ok)
  else (none, true)

/-- The registers of an image, and whether the core accepts every late entry. -/
def ctxOfImage (bs : List Byte) : Ctx × Bool :=
  let w (a : Nat) : Nat := fieldAt bs a 8
  let k (i : Nat) : Nat := w (0x2500 + 8 * i)
  let sw := w 0x2408
  let word (i : Nat) : Word := BitVec.ofNat 64 (k i)
  let late := (List.range 96).map (fun j => lateOfEntry (byteSlice bs (0x2600 + 0x40 * j) 64))
  let c : Ctx :=
    { s := (List.range 64).foldl (fun m n => if n = 0 then m else SMap.set 0 m n (BitVec.ofNat 64 (w (8 * n)))) [],
      v := (List.range 32).foldl (fun m n => SMap.set 0 m n (BitVec.ofNat 2048 (fieldAt bs (0x200 + 0x100 * n) 256))) [],
      p := (List.range 16).foldl (fun m n => if n = 0 then m else SMap.set 0 m n (BitVec.ofNat 256 (fieldAt bs (0x2200 + 0x20 * n) 32))) [],
      late := (late.zipIdx).foldl (fun m e => SMap.set none m e.2 e.1.1) [],
      handles := (List.range 16).foldl (fun m i =>
        let b := fieldAt bs (0x2420 + i) 1
        SMap.set none m i (if b.testBit 7 then some (b % 64) else none)) [],
      fmt := BitVec.ofNat 6 (k 0), rm := BitVec.ofNat 3 (k 1), flags := BitVec.ofNat 6 (k 2), srseed := BitVec.ofNat 32 (k 3),
      frame := word 4, joinc := word 5, policy := BitVec.ofNat 4 (k 6), lo := word 7, hi := word 8, launch := word 9, tvec := word 10,
      cause := BitVec.ofNat 8 (k 11), epc := word 12, eval := word 13, pc := BitVec.ofNat 64 (w 0x2400),
      run := runOfCode (sw % 8), low := sw.testBit 3, halted := sw.testBit 4, wake := sw.testBit 5, quota := BitVec.ofNat 8 (bitsOf sw 15 8),
      waitObj := BitVec.ofNat 64 (w 0x2410), waitCnt := BitVec.ofNat 64 (w 0x2418) }
  (c, late.all (·.2))

/-- The core writes a thread's whole image, or one line of it, at the image's home. -/
def State.writeImage (s : State) (ten c t : Nat) (x : Ctx) : State := s.homeWrite (coreAgent c) (s.imageAt ten c t) x.image
def State.writeImageLine (s : State) (ten c t line : Nat) (x : Ctx) : State :=
  s.homeWrite (coreAgent c) (s.imageAt ten c t + 256 * line) (imageLine x line)

/-- What the saved image of a thread that is out takes when the thread is made ready or has its wake bit set, which a thread
that is reloaded from it must see: its address, the state word, the wait object and the wait count (07 R153, R162;
14 R294). -/
def State.imageWrite (s : State) (ten c t : Nat) (x : Thread) : Option (Nat × List Byte) :=
  if x.saved then
    let a := s.imageAt ten c t + 0x2408
    let w := setBits (setBits (s.homeNat a 8) 2 0 x.ctx.run.code) 5 5 (if x.ctx.wake then 1 else 0)
    some (a, bytesOf 8 w ++ bytesOf 8 x.ctx.waitObj.toNat ++ bytesOf 8 x.ctx.waitCnt.toNat)
  else none

/-- The saved image of a thread takes its change. -/
def State.syncImage (s : State) (ten c t : Nat) (x : Thread) : State :=
  match s.imageWrite ten c t x with
  | some (a, bs) => s.homeWrite (coreAgent c) a bs
  | none => s

end Sys2Proof.Machine
end

