-- ==== Sys2Proof/Machine/Approx.lean ====
section
/-! DEFINITION. The six approximated functions: exact special values, and else one of the two neighbours of a value that is
computed to 640 bits (05 R109). -/

namespace Sys2Proof.Machine

/-- Fixed-point numbers with 640 fraction bits. -/
def fxP : Nat := 640
def fxOne : Nat := 2 ^ fxP
def fxMul (a b : Nat) : Nat := a * b / fxOne
def fxDiv (a b : Nat) : Nat := a * fxOne / b

/-- z + z³/3 + z⁵/5 + …, from the term with the given power of z. -/
def atanhGo (z2 : Nat) : Nat → Nat → Nat → Nat
  | 0, _, _ => 0
  | fuel + 1, n, p => p / n + atanhGo z2 fuel (n + 2) (fxMul p z2)

/-- The natural logarithm of num/den in [1, 2]. -/
def fxLn (num den : Nat) : Nat :=
  let z := (num - den) * fxOne / (num + den)
  2 * atanhGo (fxMul z z) 210 1 z

def fxLn2 : Nat := fxLn 2 1

/-- 1 + x + x²/2 + …, from the term t of index n. -/
def expGo (x : Nat) : Nat → Nat → Nat → Nat
  | 0, _, _ => 0
  | fuel + 1, n, t => t + expGo x fuel (n + 1) (fxMul t x / (n + 1))

/-- 2^r for a fixed-point r in [0, 1). -/
def fxExp2 (r : Nat) : Nat := expGo (fxMul r fxLn2) 140 0 fxOne

/-- e^(−y) for a fixed-point y ≥ 0. -/
def fxExpNeg (y : Nat) : Nat :=
  let t := fxDiv y fxLn2
  let n := t / fxOne + 1
  fxExp2 (n * fxOne - t) / 2 ^ n

/-- A positive real that is not a short binary fraction: v · 2^(e − 640), known to far below a rounding boundary. -/
def PReal.ofFixed (v : Nat) (e : Int) : PReal :=
  { log2 := (Nat.log2 v : Int) + e - fxP
    fl := fun k =>
      let sh := k + e - fxP
      (if 0 ≤ sh then v * 2 ^ sh.toNat else v / 2 ^ (-sh).toNat, false) }

/-- The functions (05 R109). -/
inductive Approx where
  | exp2 | log2 | rcp | rsq | tanh | sigm
  deriving DecidableEq, Repr

def Approx.code : Approx → Nat
  | .exp2 => 0
  | .log2 => 1
  | .rcp => 2
  | .rsq => 3
  | .tanh => 4
  | .sigm => 5

/-- The exact value of a function: a short value with flags of its own, a real number, or a power above every FP32
number. -/
inductive AVal where
  | done (v : FV) (fl : Flags)
  | real (neg : Bool) (x : PReal)
  | top

/-- A fixed-point magnitude num/den. -/
def fxOf (num den : Nat) : Nat := num * fxOne / den

/-- A result just above 0 and just below 1, for arguments so large that nothing more is seen of them. -/
def justAbove0 : PReal := PReal.ofFixed 1 0
def justBelow1 : PReal := PReal.ofFixed (fxOne - 1) 0

/-- The value of a function at an exact value (05 R109). -/
def approxVal (fn : Approx) : FV → AVal
  | .nan sig => .done (.nan sig) 0
  | .inf neg =>
    match fn with
    | .exp2 => .done (if neg then FV.zero else .inf false) 0
    | .log2 => if neg then .done (.nan false) fNV else .done (.inf false) 0
    | .rcp => .done (.fin neg 0 1) 0
    | .rsq => if neg then .done (.nan false) fNV else .done FV.zero 0
    | .tanh => .done (.fin neg 1 1) 0
    | .sigm => .done (if neg then FV.zero else .fin false 1 1) 0
  | .fin neg num den =>
    if num = 0 then
      match fn with
      | .exp2 => .done (.fin false 1 1) 0
      | .log2 => .done (.inf true) fDZ
      | .rcp => .done (.inf neg) fDZ
      | .rsq => .done (.inf neg) fDZ
      | .tanh => .done (.fin neg 0 1) 0
      | .sigm => .done (.fin false 1 2) 0
    else
      match fn with
      | .exp2 =>
        if !neg && 128 * den ≤ num then .top
        else if neg && 300 * den ≤ num then .real false justAbove0
        else if num % den = 0 then
          if neg then .real false (PReal.ofFrac 1 (2 ^ (num / den))) else .real false (PReal.ofFrac (2 ^ (num / den)) 1)
        else
          let e : Int := if neg then -(num / den + 1 : Nat) else (num / den : Nat)
          let r := if neg then fxOne - fxOf (num % den) den else fxOf (num % den) den
          .real false (PReal.ofFixed (fxExp2 r) e)
      | .log2 =>
        if neg then .done (.nan false) fNV
        else
          let e := (PReal.ofFrac num den).log2
          let m := if 0 ≤ e then num else num * 2 ^ (-e).toNat
          let d := if 0 ≤ e then den * 2 ^ e.toNat else den
          if m = d then .done (FV.ofInt e) 0
          else
            let t := fxDiv (fxLn m d) fxLn2
            if 0 ≤ e then .real false (PReal.ofFixed (e.toNat * fxOne + t) 0)
            else .real true (PReal.ofFixed ((-e).toNat * fxOne - t) 0)
      | .rcp => .real neg (PReal.ofFrac den num)
      | .rsq => if neg then .done (.nan false) fNV else .real false (PReal.sqrt den num)
      | .tanh =>
        if 64 * den ≤ num then .real neg justBelow1
        else
          let e := fxExpNeg (fxOf (2 * num) den)
          .real neg (PReal.ofFixed (fxDiv (fxOne - e) (fxOne + e)) 0)
      | .sigm =>
        if neg then
          if 256 * den ≤ num then .real false justAbove0
          else
            let e := fxExpNeg (fxOf num den)
            .real false (PReal.ofFixed (fxDiv e (fxOne + e)) 0)
        else if 64 * den ≤ num then .real false justBelow1
        else .real false (PReal.ofFixed (fxDiv fxOne (fxOne + fxExpNeg (fxOf num den))) 0)

/-- The result on FP32 bits: the exact value where it is an FP32 number, else one of its two neighbours, the choice fixed
for each function and input (05 R109, log entry 6). -/
def approxF (fn : Approx) (x : Nat) : Rd :=
  match approxVal fn (decodeF fp32 x) with
  | .done v fl => let r := encodeF fp32 .rne v; ⟨r.bits, r.fl ||| fl⟩
  | .top => ⟨fp32.inf false, fOF ||| fNX⟩
  | .real neg v =>
    let r := roundF fp32 .rtz neg v
    if r.fl = 0 then r
    else roundF fp32 (if Config.faithfulUp fn.code (BitVec.ofNat 32 x) then (if neg then .rdn else .rup) else .rtz) neg v

/-- The result in a narrower lane format: the exact value rounded by RNE (06 R125). -/
def approxLane (fn : Approx) (f : FFmt) (x : Nat) : Rd :=
  match approxVal fn (decodeF f x) with
  | .done v fl => let r := encodeF f .rne v; ⟨r.bits, r.fl ||| fl⟩
  | .top => roundF f .rne false (PReal.ofFrac (2 ^ 300) 1)
  | .real neg v => roundF f .rne neg v

end Sys2Proof.Machine
end

