-- ==== Sys2Proof/Machine/Integer.lean ====
section
/-! DEFINITION. Group A: scalar integer and address instructions (05 R92 to R98; late forms 11 R235). -/

namespace Sys2Proof.Machine

/-! ### Shared forms -/

/-- An instruction of two sources and one result (05 R93). -/
def intBinary (f : TFields) (g : Word → Word → Word) : M Unit := do
  let a ← readOp f.a
  let b ← readOp f.b
  writeOp f.d (g a b)

/-- An instruction of one source and one result. -/
def intUnary (f : TFields) (g : Word → Word) : M Unit := do
  let a ← readOp f.a
  writeOp f.d (g a)

/-- SAT, bit 70 (04 R80). -/
def satBit (f : TFields) : Bool := f.m.getLsbD 10

/-- Write an exact result: clamped to the signed range of n words with SAT raised, or wrapped (03 R48). -/
def satValue (sat : Bool) (w : Nat) (x : Int) : M Int :=
  if sat then do
    let r := clampInt (intLo true w) (intHi true w) x
    raiseF r.2
    pure r.1
  else pure x

def writeExact (f : TFields) (x : Int) : M Unit := do
  let y ← satValue (satBit f) 64 x
  writeOp f.d (toWord y)

/-- A two-source form that composes with one late and one known operand: `ka` composes a late A with the known B, `kb`
a late B with the known A (11 R235). -/
def composeBinary (f : TFields) (ka kb : Late → Word → Option Late) (eager : M Unit) : M Unit := do
  let la ← lateOperand f.a
  let lb ← lateOperand f.b
  match la, lb with
  | some l, none => do
    let c ← readOp f.b
    match ka l c with
    | some l => composeTo f.d l
    | none => eager
  | none, some l => do
    let c ← readOp f.a
    match kb l c with
    | some l => composeTo f.d l
    | none => eager
  | _, _ => eager

/-- A one-source form that composes. -/
def composeUnary (f : TFields) (k : Late → Option Late) (eager : M Unit) : M Unit := do
  let la ← lateOperand f.a
  match la with
  | some l => (match k l with
    | some l => composeTo f.d l
    | none => eager)
  | none => eager

def noCompose : Late → Word → Option Late := fun _ _ => none

/-- The exact form of ADD, SUB, MUL. -/
def exactBinary (f : TFields) (g : Int → Int → Int) : M Unit := do
  let a ← readOp f.a
  let b ← readOp f.b
  writeExact f (g a.toInt b.toInt)

/-- The conditions of the integer compares: 0 eq to 5 ge (05 R97). -/
def intCond (k : Nat) (a b : Int) : Bool :=
  if k = 0 then a == b else if k = 1 then a != b else if k = 2 then a < b else if k = 3 then a ≤ b
  else if k = 4 then b < a else b ≤ a

/-- Leading and trailing zero bits, and bit and byte reversal (05 R93). -/
def clz64 (x : Word) : Word := if x = 0 then 64 else BitVec.ofNat 64 (63 - Nat.log2 x.toNat)
def ctz64 (x : Word) : Word := BitVec.ofNat 64 (lowestBit x.toNat 64 0)
def bswap64 (x : Word) : Word := BitVec.ofNat 64 (ofBytes (bytesOf 8 x.toNat).reverse)

/-- The width that SZ selects: 8, 16, 32 or 64 bits (04 R80). -/
def szBits (k : Nat) : Nat := 8 * 2 ^ k

/-! ### 05 R94 -/

def divS (a b : Word) : Word := if b = 0 then toWord (-1) else toWord (a.toInt.tdiv b.toInt)
def divU (a b : Word) : Word := if b = 0 then toWord (-1) else BitVec.ofNat 64 (a.toNat / b.toNat)
def remS (a b : Word) : Word := if b = 0 then a else toWord (a.toInt - b.toInt * a.toInt.tdiv b.toInt)
def remU (a b : Word) : Word := if b = 0 then a else BitVec.ofNat 64 (a.toNat % b.toNat)

/-! ### The instructions -/

def execAdd (f : TFields) (s : State) : Out :=
  let eager := exactBinary f (· + ·)
  runT 0x000 f (if satBit f then eager else composeBinary f (fun l c => l.affine l.a (l.b + c)) (fun l c => l.affine l.a (l.b + c)) eager) s
def execSub (f : TFields) (s : State) : Out :=
  let eager := exactBinary f (· - ·)
  runT 0x001 f (if satBit f then eager else composeBinary f (fun l c => l.affine l.a (l.b - c)) (fun l c => l.affine (-l.a) (c - l.b)) eager) s
def execMul (f : TFields) (s : State) : Out :=
  let eager := exactBinary f (· * ·)
  runT 0x002 f (if satBit f then eager else composeBinary f (fun l c => l.affine (l.a * c) (l.b * c)) (fun l c => l.affine (l.a * c) (l.b * c)) eager) s
def execMulh (f : TFields) (s : State) : Out := runT 0x003 f (intBinary f (fun a b => toWord (a.toInt * b.toInt / 2 ^ 64))) s
def execMulhu (f : TFields) (s : State) : Out := runT 0x004 f (intBinary f (fun a b => BitVec.ofNat 64 (a.toNat * b.toNat / 2 ^ 64))) s
def execDiv (f : TFields) (s : State) : Out := runT 0x005 f (intBinary f divS) s
def execDivu (f : TFields) (s : State) : Out := runT 0x006 f (intBinary f divU) s
def execRem (f : TFields) (s : State) : Out := runT 0x007 f (intBinary f remS) s
def execRemu (f : TFields) (s : State) : Out := runT 0x008 f (intBinary f remU) s
def execAnd (f : TFields) (s : State) : Out := runT 0x009 f (intBinary f (· &&& ·)) s
def execOr (f : TFields) (s : State) : Out := runT 0x00A f (intBinary f (· ||| ·)) s
def execXor (f : TFields) (s : State) : Out := runT 0x00B f (intBinary f (· ^^^ ·)) s
def execAndn (f : TFields) (s : State) : Out := runT 0x00C f (intBinary f (fun a b => a &&& ~~~b)) s
def execShl (f : TFields) (s : State) : Out :=
  runT 0x00D f (composeBinary f (fun l c => l.affine (l.a <<< (c.toNat % 64)) (l.b <<< (c.toNat % 64))) noCompose
    (intBinary f (fun a b => a <<< (b.toNat % 64)))) s
def execShr (f : TFields) (s : State) : Out := runT 0x00E f (intBinary f (fun a b => a >>> (b.toNat % 64))) s
def execSra (f : TFields) (s : State) : Out := runT 0x00F f (intBinary f (fun a b => a.sshiftRight (b.toNat % 64))) s
def execRol (f : TFields) (s : State) : Out := runT 0x010 f (intBinary f (fun a b => a.rotateLeft (b.toNat % 64))) s
def execMin (f : TFields) (s : State) : Out := runT 0x011 f (intBinary f (fun a b => if a.toInt ≤ b.toInt then a else b)) s
def execMax (f : TFields) (s : State) : Out := runT 0x012 f (intBinary f (fun a b => if a.toInt ≤ b.toInt then b else a)) s
def execMinu (f : TFields) (s : State) : Out := runT 0x013 f (intBinary f (fun a b => if a.toNat ≤ b.toNat then a else b)) s
def execMaxu (f : TFields) (s : State) : Out := runT 0x014 f (intBinary f (fun a b => if a.toNat ≤ b.toNat then b else a)) s
def execAbs (f : TFields) (s : State) : Out := runT 0x015 f (do let a ← readOp f.a; writeExact f a.toInt.natAbs) s
def execNeg (f : TFields) (s : State) : Out :=
  let eager := do let a ← readOp f.a; writeExact f (-a.toInt)
  runT 0x016 f (if satBit f then eager else composeUnary f (fun l => l.affine (-l.a) (-l.b)) eager) s
def execClz (f : TFields) (s : State) : Out := runT 0x017 f (intUnary f clz64) s
def execCtz (f : TFields) (s : State) : Out := runT 0x018 f (intUnary f ctz64) s
def execPopc (f : TFields) (s : State) : Out := runT 0x019 f (intUnary f (fun a => BitVec.ofNat 64 (popCountBelow a.toNat 64))) s
def execBrev (f : TFields) (s : State) : Out := runT 0x01A f (intUnary f (fun a => a.reverse)) s
def execBswap (f : TFields) (s : State) : Out := runT 0x01B f (intUnary f bswap64) s
def execSext (f : TFields) (s : State) : Out := runT 0x01C f (intUnary f (fun a => toWord (sext a.toNat (szBits (mField f.m 1 0))))) s
def execZext (f : TFields) (s : State) : Out := runT 0x01D f (intUnary f (fun a => BitVec.ofNat 64 (a.toNat % 2 ^ szBits (mField f.m 1 0)))) s

/-- MOV copies a late register's reference and transform, poisoned or not (05 R96, 11 R240). -/
def movBody (f : TFields) : M Unit := do
  let c ← getCtx
  match f.a, f.d with
  | .s n, .s _ => (match c.late.get none (lateKeyS n.toNat) with
    | some l => composeTo f.d l
    | none => intUnary f id)
  | _, _ => intUnary f id
def execMov (f : TFields) (s : State) : Out := runT 0x01E f (movBody f) s
def execSel (f : TFields) (s : State) : Out :=
  runT 0x01F f (do
    let a ← readOp f.a
    let b ← readOp f.b
    let p ← readP (mField f.m 3 0)
    writeOp f.d (if p.getLsbD 0 != f.m.getLsbD 4 then a else b)) s
def execLi (f : LFields) (s : State) : Out := runL 0x020 f (writeOp f.d (f.imm.signExtend 64)) s
def execLih (f : LFields) (s : State) : Out :=
  runL 0x021 f (do
    let d ← readOp f.d
    writeOp f.d (BitVec.ofNat 64 (d.toNat % 2 ^ 40 + f.imm.toNat % 2 ^ 24 * 2 ^ 40))) s

/-- A 128-bit source: a pair, or an immediate sign-extended (05 R95). -/
def readWide : Operand → M Int
  | .w e => do
    let p ← readPair (.w e)
    pure (sext (p.1.toNat + p.2.toNat * 2 ^ 64) 128)
  | o => do
    let a ← readOp o
    pure a.toInt

def writeWide (o : Operand) (x : Int) : M Unit :=
  let n := (x % (2 ^ 128 : Nat)).toNat
  writePair o (BitVec.ofNat 64 (n % 2 ^ 64)) (BitVec.ofNat 64 (n / 2 ^ 64))

def wideBinary (f : TFields) (g : Int → Int → Int) : M Unit := do
  let a ← readWide f.a
  let b ← readWide f.b
  let y ← satValue (satBit f) 128 (g a b)
  writeWide f.d y

def execAddW (f : TFields) (s : State) : Out := runT 0x022 f (wideBinary f (· + ·)) s
def execSubW (f : TFields) (s : State) : Out := runT 0x023 f (wideBinary f (· - ·)) s
def execMulW (f : TFields) (s : State) : Out :=
  runT 0x024 f (do
    let a ← readOp f.a
    let b ← readOp f.b
    writeWide f.d (if f.m.getLsbD 0 then ((a.toNat * b.toNat : Nat) : Int) else a.toInt * b.toInt)) s
def execMadd (f : TFields) (s : State) : Out :=
  runT 0x025 f (do
    let a ← readOp f.a
    let b ← readOp f.b
    let d ← readOp f.d
    writeExact f (d.toInt + a.toInt * b.toInt)) s

def compareBody (f : TFields) (g : Word → Word → Bool) : M Unit := do
  let a ← readOp f.a
  let b ← readOp f.b
  writePredBool f.d (g a b)

def execCmp (f : TFields) (s : State) : Out := runT 0x026 f (compareBody f (fun a b => intCond (mField f.m 3 0) a.toInt b.toInt)) s
def execCmpu (f : TFields) (s : State) : Out := runT 0x027 f (compareBody f (fun a b => intCond (mField f.m 3 0) a.toNat b.toNat)) s
def execTest (f : TFields) (s : State) : Out := runT 0x028 f (compareBody f (fun a b => (a &&& b == 0) == (mField f.m 3 0 == 0))) s
def execLea (f : TFields) (s : State) : Out := runT 0x029 f (intBinary f (fun a b => a + b * BitVec.ofNat 64 (2 ^ mField f.m 3 0))) s
def execBfx (f : TFields) (s : State) : Out :=
  let pos := mField f.m 11 6
  let len := mField f.m 5 0 + 1
  runT 0x02A f (intUnary f (fun a =>
    let x := a.toNat / 2 ^ pos % 2 ^ len
    if f.m.getLsbD 12 then toWord (sext x len) else BitVec.ofNat 64 x)) s
def execBfi (f : TFields) (s : State) : Out :=
  let pos := mField f.m 11 6
  let m : Word := BitVec.ofNat 64 ((2 ^ (mField f.m 5 0 + 1) - 1) * 2 ^ pos)
  runT 0x02B f (do
    let a ← readOp f.a
    let d ← readOp f.d
    writeOp f.d ((d &&& ~~~m) ||| ((a <<< pos) &&& m))) s

end Sys2Proof.Machine
end

