-- ==== Sys2Proof/Machine/Control.lean ====
section
/-! DEFINITION. Group B: control transfers, thread control and predicates (05 R99 to R103). -/

namespace Sys2Proof.Machine

/-! ### Transfers of control (05 R100) -/

/-- BranchTarget of a format L offset. -/
def targetOf (pc : Nat) (imm : BitVec 40) : Word := BitVec.ofNat 64 (branchTarget pc imm.toInt)

def execBr (f : LFields) (s : State) : Out := runL 0x040 f (jumpTo (targetOf s.pcNow f.imm)) s
def execJmp (f : LFields) (s : State) : Out :=
  runL 0x041 f (do
    let base ← readOp f.d
    checkTarget base
    jumpTo (targetOf base.toNat f.imm)) s
def execCall (f : LFields) (s : State) : Out :=
  runL 0x042 f (do
    writeOp f.d (BitVec.ofNat 64 (nextPc s.pcNow))
    jumpTo (targetOf s.pcNow f.imm)) s
def execCallr (f : TFields) (s : State) : Out :=
  runT 0x043 f (do
    let t ← readOp f.a
    checkTarget t
    writeOp f.d (BitVec.ofNat 64 (nextPc s.pcNow))
    jumpTo t) s
def execRet (f : TFields) (s : State) : Out :=
  runT 0x044 f (do
    let t ← readOp f.a
    checkTarget t
    jumpTo t) s
def execLoop (f : LFields) (s : State) : Out :=
  runL 0x045 f (do
    let d ← readOp f.d
    writeOp f.d (d - 1)
    if d - 1 ≠ 0 then jumpTo (targetOf s.pcNow f.imm)) s
def execBrt (f : LFields) (s : State) : Out :=
  runL 0x046 f (do
    let d ← readOp f.d
    if intCond (mField f.m 3 0) d.toInt 0 then jumpTo (targetOf s.pcNow f.imm)) s

/-! ### Thread control (05 R101, R102) -/

def execNop (f : TFields) (s : State) : Out := runT 0x047 f (pure ()) s

/-- The age stamp of the issuing thread becomes the current ACLK count (05 R101, 09 R207). -/
def State.restamp (s : State) : HartId → State
  | .core c t => s.setThread c t { s.thread c t with stamp := s.now c }
  | _ => s

def execYield (f : TFields) (s : State) : Out := runT 0x048 f (modify (fun s => s.restamp s.hart)) s

/-- EXIT: the unit of a core thread ends, or the run of an engine hart (05 R101). -/
def State.exitHart (s : State) (h : HartId) (pc : Nat) : State :=
  match h with
  | .core c t => s.exitUnit c t 0 pc
  | _ => s.exitRun h

def execExit (f : TFields) (s : State) : Out := runT 0x049 f (modify (fun t => t.exitHart t.hart s.pcNow)) s

/-- BKPT's %eval is VAL of field B, zero-extended (05 R101). -/
def execBkpt (f : TFields) (s : State) : Out := runT 0x04A f (stop (.bkpt (operandVal f.b))) s

/-- A deadline x ns from now, which the last package time bounds (log entry 14). -/
def State.deadline (s : State) (x : Nat) : Nat := min (s.timeNow + x) (2 ^ 64 - 1)

/-- WAITT: the deadline is taken once, and the wait is recorded until package time reaches it (05 R102). -/
def waittBody (f : TFields) (again : Bool) : M Unit := do
  let x ← readNat f.a
  let c ← getCtx
  let s ← get
  let d := if again then c.waitObj.toNat else if f.m.getLsbD 0 then s.deadline x else x
  if s.timeNow < d then stop (.wait .waitTime d 0)

def execWaitt (f : TFields) (s : State) : Out := runWait 0x04B f (waittBody f) s

/-! ### Predicates (05 R103) -/

/-- The predicate that a field names. -/
def readPredOp : Operand → M Pred
  | .p n => readP n.toNat
  | _ => pure 0

/-- Write lanes 0 to Lanes()−1 of a predicate and clear the bits above. -/
def writePredOp (o : Operand) (x : Pred) : M Unit :=
  match o with
  | .p n => do
    let c ← getCtx
    writeP n.toNat (x &&& onesBelow (lanes c))
  | _ => pure ()

def predBinary (f : TFields) (g : Pred → Pred → Pred) : M Unit := do
  let a ← readPredOp f.a
  let b ← readPredOp f.b
  writePredOp f.d (g a b)

def predUnary (f : TFields) (g : Pred → Pred) : M Unit := do
  let a ← readPredOp f.a
  writePredOp f.d (g a)

/-- A scalar result of the lane bits of a predicate and the lane count. -/
def predScalar (f : TFields) (g : Nat → Nat → Nat) : M Unit := do
  let a ← readPredOp f.a
  let c ← getCtx
  writeOp f.d (BitVec.ofNat 64 (g ((a &&& onesBelow (lanes c)).toNat) (lanes c)))

def execPand (f : TFields) (s : State) : Out := runT 0x04C f (predBinary f (· &&& ·)) s
def execPor (f : TFields) (s : State) : Out := runT 0x04D f (predBinary f (· ||| ·)) s
def execPxor (f : TFields) (s : State) : Out := runT 0x04E f (predBinary f (· ^^^ ·)) s
def execPnot (f : TFields) (s : State) : Out := runT 0x04F f (predUnary f (fun a => ~~~a)) s
def execPmov (f : TFields) (s : State) : Out := runT 0x050 f (predUnary f id) s
def execPset (f : TFields) (s : State) : Out :=
  runT 0x051 f (do
    let n ← readNat f.a
    writePredOp f.d (onesBelow (min n 256))) s
def execPany (f : TFields) (s : State) : Out := runT 0x052 f (predScalar f (fun x _ => if x = 0 then 0 else 1)) s
def execPall (f : TFields) (s : State) : Out := runT 0x053 f (predScalar f (fun x n => if x = 2 ^ n - 1 then 1 else 0)) s
def execPcnt (f : TFields) (s : State) : Out := runT 0x054 f (predScalar f (fun x n => popCountBelow x n)) s
def execPfirst (f : TFields) (s : State) : Out := runT 0x055 f (predScalar f (fun x n => lowestBit x n 0)) s

end Sys2Proof.Machine
end

