-- ==== Sys2Proof/Machine/ScalarFp.lean ====
section
/-! DEFINITION. Group C: scalar floating point, conversion and quantisation (05 R104 to R112; late forms 11 R236). -/

namespace Sys2Proof.Machine

/-! ### Operands (05 R104) -/

/-- The FP32 bits of a source: bits 31:0 of a register, or an immediate integer converted. -/
def readFp : Operand → M Nat
  | .s n => do
    let x ← readS n.toNat
    pure (x.toNat % 2 ^ 32)
  | .imm v => pure (encodeF fp32 .rne (FV.ofInt v.toInt)).bits
  | _ => pure 0

def readFV (o : Operand) : M FV := do
  let x ← readFp o
  pure (decodeF fp32 x)

/-- RND, bits 73:71 (04 R80). -/
def rndOf (f : TFields) : Nat := mField f.m 13 11

def isFin : FV → Bool
  | .fin _ _ _ => true
  | _ => false

/-- A result that takes its rounding mode from RND or %rm; `draws` says that it is rounded under SR. -/
def roundBy (rnd : Nat) (draws : Bool) (k : Mode → Rd) : M Nat := do
  let m ← modeFor rnd draws
  raiseF (k m).fl
  pure (k m).bits

def writeNat (o : Operand) (x : Nat) : M Unit := writeOp o (BitVec.ofNat 64 x)

/-- Two FP32 sources, rounded once. -/
def fpBinary (f : TFields) (g : Mode → FV → FV → Rd) : M Unit := do
  let a ← readFV f.a
  let b ← readFV f.b
  let r ← roundWith fp32 (rndOf f) (fun m => g m a b)
  writeNat f.d r

/-- Three FP32 sources with D read first. -/
def fpTernary (f : TFields) (g : Mode → FV → FV → FV → Rd) : M Unit := do
  let a ← readFV f.a
  let b ← readFV f.b
  let d ← readFV f.d
  let r ← roundWith fp32 (rndOf f) (fun m => g m a b d)
  writeNat f.d r

/-- A step is recorded on the one late operand, unless the effective mode is SR (11 R236). -/
def fpCompose (f : TFields) (opA opB : Nat) (eager : M Unit) : M Unit := do
  let ctx ← getCtx
  let mode := modeCode ctx (rndOf f)
  let step (l : Late) (op c : Nat) : Option Late :=
    if mode = 5 then none else l.step { op := op, mode := mode, m := f.m, c := BitVec.ofNat 64 c }
  let la ← lateOperand f.a
  let lb ← lateOperand f.b
  match la, lb with
  | some l, none => do
    let c ← readFp f.b
    match step l opA c with
    | some l => composeTo f.d l
    | none => eager
  | none, some l => do
    let c ← readFp f.a
    match step l opB c with
    | some l => composeTo f.d l
    | none => eager
  | _, _ => eager

/-! ### Arithmetic (05 R105) -/

def execFadd (f : TFields) (s : State) : Out := runT 0x060 f (fpCompose f 0 0 (fpBinary f (addF fp32))) s
def execFsub (f : TFields) (s : State) : Out := runT 0x061 f (fpCompose f 1 2 (fpBinary f (subF fp32))) s
def execFmul (f : TFields) (s : State) : Out := runT 0x062 f (fpCompose f 3 3 (fpBinary f (mulF fp32))) s
def execFdiv (f : TFields) (s : State) : Out := runT 0x063 f (fpBinary f (divF fp32)) s
def execFsqrt (f : TFields) (s : State) : Out :=
  runT 0x064 f (do
    let a ← readFV f.a
    let r ← roundWith fp32 (rndOf f) (fun m => sqrtF fp32 m a)
    writeNat f.d r) s
def execFma (f : TFields) (s : State) : Out := runT 0x065 f (fpTernary f (fun m a b d => fmaF fp32 m a b d)) s
def execFms (f : TFields) (s : State) : Out := runT 0x066 f (fpTernary f (fun m a b d => fmaF fp32 m a b (negV d))) s
def execFnma (f : TFields) (s : State) : Out := runT 0x067 f (fpTernary f (fun m a b d => fmaF fp32 m (negV a) b d)) s

/-- The lesser or greater of two elements' bits in a format, −0 below +0; a NaN yields to a number (05 R105). -/
def minMaxF (f : FFmt) (max : Bool) (x y : Nat) : Rd :=
  let a := decodeF f x
  let b := decodeF f y
  let fl := if sigNaN [a, b] then fNV else 0
  match cmpV a b with
  | none => ⟨if isNaN a then (if isNaN b then f.canon else y) else x, fl⟩
  | some .lt => ⟨if max then y else x, fl⟩
  | some .gt => ⟨if max then x else y, fl⟩
  | some .eq => ⟨if signOf a == max then y else x, fl⟩

def fpMinMax (f : TFields) (max : Bool) : M Unit := do
  let a ← readFp f.a
  let b ← readFp f.b
  let r := minMaxF fp32 max a b
  raiseF r.fl
  writeNat f.d r.bits

def execFmin (f : TFields) (s : State) : Out := runT 0x068 f (fpMinMax f false) s
def execFmax (f : TFields) (s : State) : Out := runT 0x069 f (fpMinMax f true) s
def execFabs (f : TFields) (s : State) : Out := runT 0x06A f (do let a ← readFp f.a; writeNat f.d (a % 2 ^ 31)) s

/-- Invert the sign bit of w-bit element bits. -/
def flipSign (w x : Nat) : Nat := if x.testBit (w - 1) then x % 2 ^ (w - 1) else x % 2 ^ (w - 1) + 2 ^ (w - 1)

def execFneg (f : TFields) (s : State) : Out :=
  runT 0x06B f (composeUnary f (fun l => l.step { op := 4, mode := 0, m := f.m, c := 0 })
    (do let a ← readFp f.a; writeNat f.d (flipSign 32 a))) s
def execFsgn (f : TFields) (s : State) : Out :=
  runT 0x06C f (do
    let a ← readFp f.a
    let b ← readFp f.b
    writeNat f.d (a % 2 ^ 31 + b / 2 ^ 31 * 2 ^ 31)) s

def absV : FV → FV
  | .nan s => .nan s
  | .inf _ => .inf false
  | .fin _ n d => .fin false n d

def execFabd (f : TFields) (s : State) : Out :=
  runT 0x06D f (fpBinary f (fun m a b => finish fp32 m [a, b] ((addV false a (negV b)).map absV))) s

/-! ### Compares and classes (05 R106) -/

/-- The outcome of a floating-point condition and its flags. -/
def fpCond (k : Nat) (a b : FV) : Bool × Flags :=
  match cmpV a b with
  | some o =>
    (if k = 0 then o == .eq else if k = 1 then o != .eq else if k = 2 then o == .lt else if k = 3 then o != .gt
      else if k = 4 then o == .gt else if k = 5 then o != .lt else k == 7, 0)
  | none => (k == 1 || k == 6, if sigNaN [a, b] || (2 ≤ k && k ≤ 5) then fNV else 0)

def execFcmp (f : TFields) (s : State) : Out :=
  runT 0x06E f (do
    let a ← readFV f.a
    let b ← readFV f.b
    let r := fpCond (mField f.m 3 0) a b
    raiseF r.2
    writePredBool f.d r.1) s

/-- The class bit of an FP32 element. -/
def classBit (x : Nat) : Nat :=
  let sub := bitsOf x 30 23 == 0
  match decodeF fp32 x with
  | .nan sig => if sig then 8 else 9
  | .inf neg => if neg then 0 else 7
  | .fin neg num _ => if num = 0 then (if neg then 3 else 4) else if sub then (if neg then 2 else 5) else if neg then 1 else 6

def execFclass (f : TFields) (s : State) : Out :=
  runT 0x06F f (do let a ← readFp f.a; writeNat f.d (2 ^ classBit a)) s

/-! ### Conversions (05 R107, R108) -/

/-- A value rounded to an integral FP32 value. -/
def rintF (m : Mode) : FV → Rd
  | .nan s => ⟨fp32.canon, if s then fNV else 0⟩
  | .inf neg => ⟨fp32.inf neg, 0⟩
  | .fin neg num den =>
    let r := roundInt m neg num den
    ⟨(encodeF fp32 .rne (.fin neg r.1.natAbs 1)).bits, if r.2 then fNX else 0⟩

def execFrint (f : TFields) (s : State) : Out :=
  runT 0x070 f (do
    let a ← readFV f.a
    let r ← roundBy (rndOf f) (isFin a && !isZero a) (fun m => rintF m a)
    writeNat f.d r) s

def toIntBody (f : TFields) (signed : Bool) : M Unit := do
  let a ← readFV f.a
  let r ← roundBy (rndOf f) (isFin a) (fun m => toInt (intLo signed 64) (intHi signed 64) 64 m a)
  writeNat f.d r

def execF2i (f : TFields) (s : State) : Out := runT 0x071 f (toIntBody f true) s
def execF2u (f : TFields) (s : State) : Out := runT 0x072 f (toIntBody f false) s

def fromIntBody (f : TFields) (g : Word → Int) : M Unit := do
  let a ← readOp f.a
  let r ← roundBy (rndOf f) true (fun m => encodeF fp32 m (FV.ofInt (g a)))
  writeNat f.d r

def execI2f (f : TFields) (s : State) : Out := runT 0x073 f (fromIntBody f BitVec.toInt) s
def execU2f (f : TFields) (s : State) : Out := runT 0x074 f (fromIntBody f (fun a => a.toNat)) s

/-- The formats of FCVT (05 R108). -/
def cvtFmt (c : Nat) : FFmt := if c = 0 then fp32 else if c = 1 then fp16 else if c = 2 then bf16 else if c = 3 then e4m3 else e5m2

def execFcvt (f : TFields) (s : State) : Out :=
  runT 0x075 f (do
    let a ← readFp f.a
    let src := cvtFmt (mField f.m 2 0)
    let dst := cvtFmt (mField f.m 7 5)
    let v := decodeF src (a % 2 ^ src.width)
    let r ← roundBy (rndOf f) (isFin v && dst.width ≤ src.width) (fun m => encodeF dst m v)
    writeNat f.d r) s

/-! ### The approximated functions (05 R109) -/

def approxBody (f : TFields) (fn : Approx) : M Unit := do
  let a ← readFp f.a
  let r := approxF fn a
  raiseF r.fl
  writeNat f.d r.bits

def execFexp2 (f : TFields) (s : State) : Out := runT 0x076 f (approxBody f .exp2) s
def execFlog2 (f : TFields) (s : State) : Out := runT 0x077 f (approxBody f .log2) s
def execFrcp (f : TFields) (s : State) : Out := runT 0x078 f (approxBody f .rcp) s
def execFrsq (f : TFields) (s : State) : Out := runT 0x079 f (approxBody f .rsq) s
def execFtanh (f : TFields) (s : State) : Out := runT 0x07A f (approxBody f .tanh) s
def execFsigm (f : TFields) (s : State) : Out := runT 0x07B f (approxBody f .sigm) s

/-! ### Exponents, scale bytes and INT8 (05 R110 to R112) -/

/-- a · 2^b; beyond ±400 a power changes no FP32 result. -/
def scalbV (a : FV) (b : Int) : FV :=
  let k := max (-400) (min 400 b)
  match a with
  | .fin neg num den => if 0 ≤ k then .fin neg (num * 2 ^ k.toNat) den else .fin neg num (den * 2 ^ (-k).toNat)
  | x => x

def execFscalb (f : TFields) (s : State) : Out :=
  runT 0x07C f (do
    let a ← readFV f.a
    let b ← readOp f.b
    let r ← roundBy (rndOf f) (isFin a && !isZero a) (fun m => encodeF fp32 m (scalbV a b.toInt))
    writeNat f.d r) s

def execFgetexp (f : TFields) (s : State) : Out :=
  runT 0x07D f (do
    let a ← readFV f.a
    match a with
    | .nan _ => do raiseF fNV; writeOp f.d 0
    | .inf _ => writeOp f.d (toWord (2 ^ 63 - 1))
    | .fin _ num den =>
      if num = 0 then do raiseF fDZ; writeOp f.d (toWord (-2 ^ 63))
      else writeOp f.d (toWord (PReal.ofFrac num den).log2)) s

def execScenc (f : TFields) (s : State) : Out :=
  runT 0x07E f (do
    let a ← readFV f.a
    let t := mField f.m 1 0
    match a with
    | .nan _ => do raiseF fNV; writeNat f.d (t * 64 + 63)
    | .inf _ => writeNat f.d (t * 64 + 62)
    | .fin _ num den => writeNat f.d (t * 64 + bs4Exp t [(num, den)] 62 0)) s

def execScdec (f : TFields) (s : State) : Out :=
  runT 0x07F f (do
    let a ← readFp f.a
    let e := a % 64
    if e = 63 then do raiseF fSAT; writeNat f.d fp32.canon
    else writeNat f.d (encodeF fp32 .rne (FV.scaled false 1 ((e : Int) - 32))).bits) s

/-- The quotient that FQ8 rounds; none for an invalid one (05 R112). -/
def quotV : FV → FV → Option FV
  | .nan _, _ => none
  | _, .nan _ => none
  | .inf _, .inf _ => none
  | .inf a, .fin b m _ => if m = 0 then none else some (.inf (a != b))
  | .fin _ _ _, .inf _ => some FV.zero
  | .fin a n d, .fin b m c => if m = 0 then none else some (.fin (a != b) (n * c) (d * m))

/-- INT8 from an exact quotient: a clamp raises SAT alone (05 R112). -/
def toInt8 (m : Mode) : FV → Int × Flags
  | .nan _ => (0, fNV)
  | .inf neg => (if neg then -128 else 127, fSAT)
  | .fin neg num den =>
    let r := roundInt m neg num den
    if 127 < r.1 then (127, fSAT) else if r.1 < -128 then (-128, fSAT) else (r.1, if r.2 then fNX else 0)

/-- FQ8 of two values: the INT8 integer. -/
def quantise (rnd : Nat) (a b : FV) : M Int := do
  match quotV a b with
  | none => do
    raiseF fNV
    pure 0
  | some q => do
    let m ← modeFor rnd (isFin q)
    let r := toInt8 m q
    raiseF r.2
    pure r.1

def execFq8 (f : TFields) (s : State) : Out :=
  runT 0x080 f (do
    let a ← readFV f.a
    let b ← readFV f.b
    let q ← quantise (rndOf f) a b
    writeOp f.d (toWord q)) s

def execFdq8 (f : TFields) (s : State) : Out :=
  runT 0x081 f (do
    let a ← readFp f.a
    let b ← readFV f.b
    let r ← roundWith fp32 (rndOf f) (fun m => mulF fp32 m (FV.ofInt (sext a 8)) b)
    writeNat f.d r) s

end Sys2Proof.Machine
end

