-- ==== Sys2Proof/Machine/Lanes.lean ====
section
/-! DEFINITION. The lane operands of group D: channel slots named by handles, broadcast sources, masks, and results lane
by lane (06 R115 to R119, R140). -/

namespace Sys2Proof.Machine

/-! ### Channel spans (06 R116) -/

/-- The slots that 256 bytes span. -/
def Chan.spanSlots (x : Chan) : Nat := max 1 (256 / x.slotSize)

/-- The scratchpad offset of byte b of the span of slots that starts at slot index `ptr`. -/
def Chan.spanOff (x : Chan) (ptr b : Nat) : Nat :=
  let z := min x.slotSize 256
  x.slotOff (ptr + b / z) + b % z

/-- The virtual address of a scratchpad byte of the issuing core (10 R224). -/
def State.slotVa (s : State) (c off : Nat) : Nat := s.windowBase (s.core c).tenant + c % 48 * 0x40000 + off

/-- A handle operand waits until `have_` slots reach the count that it names. -/
def awaitSlots (n count : Nat) (x : Chan) (have_ : Nat) : M Unit :=
  if count = 0 ∨ max count x.spanSlots ≤ have_ then pure ()
  else stop (.wait .waitChannel n (max count x.spanSlots))

/-- The key of the scratchpad of the issuing core, and the core. -/
def myScratch : M (Nat × Nat) := fun s => match s.hart with
  | .core c _ => .ok ((c, tcKey (s.core c).tenant c), s)
  | _ => .error (.trap cHANDLE 0)

/-- Every handle operand is bound, before any wait (02 R26). -/
def checkHandle : Operand → M Unit
  | .h n _ => do
    let _ ← chanOf n.toNat
    pure ()
  | _ => pure ()
def checkHandles (f : TFields) : M Unit := do
  checkHandle f.d
  checkHandle f.a
  checkHandle f.b

/-- The 256 bytes of a handle source. The slot address of a POISON is, by the model's choice, that of the first poisoned
word (log entry 97). -/
def readSpan (n count : Nat) : M Nat := do
  let (_, x) ← chanOf n
  awaitSlots n count x x.filled
  let (c, key) ← myScratch
  let s ← get
  let offs := (List.range 32).map (fun j => x.spanOff x.rp.toNat (8 * j))
  match offs.find? (fun o => s.scrPoisoned key o 8) with
  | some o => trap cPOISON (s.slotVa c o)
  | none => pure (ofBytes (offs.flatMap (fun o => s.scrBytes key o 8)))

/-- Write the active lanes of width w to the span of a handle destination: a word whose lanes are all active is written
whole. -/
def State.writeSpan (s : State) (key : Nat) (x : Chan) (w : Nat) (rs : List (Option Nat)) : State :=
  let k := 64 / w
  (List.range 32).foldl (fun s j =>
    let part := (rs.drop (k * j)).take k
    let off := x.spanOff x.wp.toNat (8 * j)
    if part.all Option.isSome then s.scrWrite key off (bytesOf 8 (packElems w (part.map (fun r => r.getD 0))))
    else (part.zipIdx).foldl (fun s (r, i) => match r with
      | some v => s.scrWrite key (off + i * (w / 8)) (bytesOf (w / 8) v)
      | none => s) s) s

/-! ### Sources (06 R115) -/

/-- The 256 bytes of a vector or handle source; an absent one reads zero. -/
def readVecOp : Operand → M Nat
  | .v n => do
    let x ← readV n.toNat
    pure x.toNat
  | .h n c => readSpan n.toNat c.toNat
  | _ => pure 0

/-- A source as n lanes of width w; `imm` gives the lane of an immediate. -/
def readLanes (w n : Nat) (imm : BitVec 16 → M Nat) (o : Operand) : M (List Nat) :=
  match o with
  | .imm v => do
    let x ← imm v
    pure (List.replicate n x)
  | .s k => do
    let x ← readS k.toNat
    pure (List.replicate n (x.toNat % 2 ^ w))
  | o => do
    let x ← readVecOp o
    pure (elems w n x)

/-- An immediate of an integer instruction. -/
def immInt (w : Nat) (v : BitVec 16) : M Nat := pure ((v.signExtend 64).toNat % 2 ^ w)

/-- An immediate of a floating-point instruction, converted once under the rounding in force. -/
def immFloat (fmt : FFmt) (rnd : Nat) (v : BitVec 16) : M Nat := roundBy rnd true (fun m => encodeF fmt m (FV.ofInt v.toInt))

/-- A lane as an integer. -/
def laneInt (sg : Bool) (w x : Nat) : Int := if sg then sext x w else ((x % 2 ^ w : Nat) : Int)

/-- A lane's exact value, by the lane format (06 R134). -/
def laneVal (c : Ctx) (x : Nat) : FV :=
  match laneFloat c with
  | some f => decodeF f x
  | none => FV.ofInt (laneInt (laneSigned c) (laneWidth c) x)

/-- The float lane format, or ILLEGAL_OPERAND with %fmt (06 R118). -/
def needFloat : M FFmt := do
  let c ← getCtx
  match laneFloat c with
  | some f => pure f
  | none => illegal c.fmt.toNat

/-! ### Masks and results (06 R117) -/

/-- The mask's predicate, and whether it merges: an inactive lane keeps what the destination held. -/
def maskOf (f : TFields) : M Pred := readP (mField f.m 8 5)
def merges (f : TFields) : Bool := mField f.m 8 5 != 0 && !f.m.getLsbD 9

/-- Compute the active lanes, in ascending order. -/
def laneMap {α : Type} (act : Pred) (g : α → M Nat) (xs : List α) : M (List (Option Nat)) :=
  (xs.zipIdx).mapM (fun e => if act.getLsbD e.2 then (do
    let r ← g e.1
    pure (some r)) else pure none)

/-- Write lane results: an inactive lane keeps what it held where the mask merges, and else is zero. -/
def putLanes (o : Operand) (w : Nat) (merge : Bool) (rs : List (Option Nat)) : M Unit :=
  match o with
  | .v n =>
    if merge then do
      let old ← readV n.toNat
      writeV n.toNat (BitVec.ofNat 2048 (packElems w (((elems w rs.length old.toNat).zip rs).map (fun e => e.2.getD e.1))))
    else writeV n.toNat (BitVec.ofNat 2048 (packElems w (rs.map (fun r => r.getD 0))))
  | .h n c => do
    let (_, x) ← chanOf n.toNat
    awaitSlots n.toNat c.toNat x x.empty
    let (_, key) ← myScratch
    modify (fun s => s.writeSpan key x w (if merge then rs else rs.map (fun r => some (r.getD 0))))
  | _ => pure ()

/-- Write all 256 bytes of a vector or handle destination. -/
def putVec (o : Operand) (x : Nat) : M Unit := putLanes o 32 false ((elems 32 64 x).map some)

/-- Write predicate lanes: an inactive lane keeps its bit where the mask merges, and bits above the lanes are cleared. -/
def putPred (o : Operand) (merge : Bool) (rs : List (Option Nat)) : M Unit :=
  match o with
  | .p n => do
    let old ← readP n.toNat
    let oldBits := if merge then elems 1 rs.length old.toNat else rs.map (fun _ => 0)
    writeP n.toNat (BitVec.ofNat 256 (packElems 1 ((oldBits.zip rs).map (fun e => e.2.getD e.1))))
  | _ => pure ()

/-! ### Lane forms -/

/-- Two integer sources, lane by lane under the mask; g takes signedness, width and the lanes' numbers. -/
def vecInt (f : TFields) (g : Bool → Nat → Nat → Nat → Rd) : M Unit := do
  let c ← getCtx
  let w := laneWidth c
  checkHandles f
  let as ← readLanes w (lanes c) (immInt w) f.a
  let bs ← readLanes w (lanes c) (immInt w) f.b
  let act ← maskOf f
  let rs ← laneMap act (fun (e : Nat × Nat) => do
    let r := g (laneSigned c) w e.1 e.2
    raiseF r.fl
    pure r.bits) (as.zip bs)
  putLanes f.d w (merges f) rs

/-- An exact integer lane result, wrapped or clamped by SAT (06 R121). -/
def vecExact (f : TFields) (g : Int → Int → Int) : M Unit :=
  vecInt f (fun sg w a b => narrow sg (satBit f) w (g (laneInt sg w a) (laneInt sg w b)))

/-- Bits without flags. -/
def vecBits (f : TFields) (g : Nat → Nat → Nat → Nat) : M Unit := vecInt f (fun _ w a b => ⟨g w a b % 2 ^ w, 0⟩)

/-- Two floating-point sources, lane by lane under the mask. -/
def vecFp (f : TFields) (g : FFmt → Nat → Nat → M Nat) : M Unit := do
  let fmt ← needFloat
  let c ← getCtx
  checkHandles f
  let as ← readLanes fmt.width (lanes c) (immFloat fmt (rndOf f)) f.a
  let bs ← readLanes fmt.width (lanes c) (immFloat fmt (rndOf f)) f.b
  let act ← maskOf f
  let rs ← laneMap act (fun (e : Nat × Nat) => g fmt e.1 e.2) (as.zip bs)
  putLanes f.d fmt.width (merges f) rs

/-- A result with flags and no rounding of its own. -/
def raised (r : Rd) : M Nat := do
  raiseF r.fl
  pure r.bits

/-- A floating-point lane result, rounded once. -/
def vecRound (f : TFields) (g : FFmt → Mode → FV → FV → Rd) : M Unit :=
  vecFp f (fun fmt a b => roundWith fmt (rndOf f) (fun m => g fmt m (decodeF fmt a) (decodeF fmt b)))

/-- Three sources with the previous D lane; D is a vector register (06 R121, R124). -/
def vecFused (f : TFields) (g : FFmt → Mode → FV → FV → FV → Rd) : M Unit := do
  let fmt ← needFloat
  let c ← getCtx
  checkHandles f
  let as ← readLanes fmt.width (lanes c) (immFloat fmt (rndOf f)) f.a
  let bs ← readLanes fmt.width (lanes c) (immFloat fmt (rndOf f)) f.b
  let ds ← readLanes fmt.width (lanes c) (immInt fmt.width) f.d
  let act ← maskOf f
  let rs ← laneMap act (fun (e : Nat × Nat × Nat) =>
    roundWith fmt (rndOf f) (fun m => g fmt m (decodeF fmt e.1) (decodeF fmt e.2.1) (decodeF fmt e.2.2))) (as.zip (bs.zip ds))
  putLanes f.d fmt.width (merges f) rs

/-- The lane values of one source, with the context, for reductions and moves. -/
def vecSource (f : TFields) : M (Ctx × List Nat) := do
  let c ← getCtx
  checkHandles f
  let x ← readVecOp f.a
  pure (c, elems (laneWidth c) (lanes c) x)

/-! ### Composition of a whole late vector (06 R119, 11 R238) -/

/-- No mask and no saturation. -/
def plainForm (f : TFields) : Bool := mField f.m 10 5 == 0

/-- The late entry of a vector operand. -/
def lateVec (o : Operand) : M (Option Late) :=
  match o with
  | .v n => lateOf (lateKeyV n.toNat)
  | _ => pure none

/-- The operand is a scalar or an immediate. -/
def isKnownForm : Operand → Bool
  | .s _ => true
  | .imm _ => true
  | _ => false

/-- One late vector and one known scalar or immediate compose: ka takes a late A with the constant B, kb a late B with
the constant A. -/
def vecCompose (f : TFields) (const : Operand → M Nat) (ka kb : Late → Nat → Option Late) (eager : M Unit) : M Unit := do
  let la ← lateVec f.a
  let lb ← lateVec f.b
  let known (o : Operand) : M Bool := do
    let l ← lateOperand o
    pure (isKnownForm o && l.isNone)
  let isVec := match f.d with | .v _ => true | _ => false
  if !plainForm f || !isVec then eager
  else match la, lb with
    | some l, none => do
      let k ← known f.b
      if k then do
        let c ← const f.b
        match ka l c with
        | some l => composeTo f.d l
        | none => eager
      else eager
    | none, some l => do
      let k ← known f.a
      if k then do
        let c ← const f.a
        match kb l c with
        | some l => composeTo f.d l
        | none => eager
      else eager
    | _, _ => eager

/-- An integer composition. -/
def vecComposeInt (f : TFields) (ka kb : Late → Word → Option Late) (eager : M Unit) : M Unit :=
  vecCompose f readNat (fun l c => ka l (BitVec.ofNat 64 c)) (fun l c => kb l (BitVec.ofNat 64 c)) eager

/-- A floating-point composition: the step is recorded with the effective mode, unless that is SR; the constant is
converted once, in the lane format. -/
def vecComposeFp (f : TFields) (opA opB : Nat) (eager : M Unit) : M Unit := do
  let fmt ← needFloat
  let c ← getCtx
  let mode := modeCode c (rndOf f)
  let step (l : Late) (op k : Nat) : Option Late :=
    if mode = 5 then none else l.step { op := op, mode := mode, m := f.m, c := BitVec.ofNat 64 k }
  let const (o : Operand) : M Nat := match o with
    | .imm v => if mode = 5 then pure 0 else immFloat fmt (rndOf f) v
    | o => do
      let x ← readNat o
      pure (x % 2 ^ fmt.width)
  let s ← get
  -- a constant is converted only where the step is recorded
  vecCompose f const (fun l k => step l opA k) (fun l k => step l opB k) (fun _ => eager s)

/-- A unary composition of a late vector. -/
def vecComposeUnary (f : TFields) (k : Late → Option Late) (eager : M Unit) : M Unit := do
  let la ← lateVec f.a
  let isVec := match f.d with | .v _ => true | _ => false
  match (if plainForm f && isVec then la else none) with
  | some l => (match k l with
    | some l => composeTo f.d l
    | none => eager)
  | none => eager

end Sys2Proof.Machine
end

