-- ==== Sys2Proof/Machine/Vector.lean ====
section
/-! DEFINITION. Group D: integer and floating-point lanes, conversions, reductions and dot products (06 R120 to R128). -/

namespace Sys2Proof.Machine

/-! ### Integer lanes (06 R120 to R122) -/

def execVadd (f : TFields) (s : State) : Out :=
  runT 0x0A0 f (vecComposeInt f (fun l c => l.affine l.a (l.b + c)) (fun l c => l.affine l.a (l.b + c)) (vecExact f (· + ·))) s
def execVsub (f : TFields) (s : State) : Out :=
  runT 0x0A1 f (vecComposeInt f (fun l c => l.affine l.a (l.b - c)) (fun l c => l.affine (-l.a) (c - l.b)) (vecExact f (· - ·))) s
def execVmul (f : TFields) (s : State) : Out :=
  runT 0x0A2 f (vecComposeInt f (fun l c => l.affine (l.a * c) (l.b * c)) (fun l c => l.affine (l.a * c) (l.b * c)) (vecExact f (· * ·))) s
def execVmulh (f : TFields) (s : State) : Out :=
  runT 0x0A3 f (vecInt f (fun sg w a b => narrow sg false w (laneInt sg w a * laneInt sg w b / (2 ^ w : Nat)))) s

def vmaddBody (f : TFields) : M Unit := do
  let c ← getCtx
  let w := laneWidth c
  let sg := laneSigned c
  checkHandles f
  let as ← readLanes w (lanes c) (immInt w) f.a
  let bs ← readLanes w (lanes c) (immInt w) f.b
  let ds ← readLanes w (lanes c) (immInt w) f.d
  let act ← maskOf f
  let rs ← laneMap act (fun (e : Nat × Nat × Nat) =>
    raised (narrow sg (satBit f) w (laneInt sg w e.2.2 + laneInt sg w e.1 * laneInt sg w e.2.1))) (as.zip (bs.zip ds))
  putLanes f.d w (merges f) rs

def execVmadd (f : TFields) (s : State) : Out := runT 0x0A4 f (vmaddBody f) s
def execVmin (f : TFields) (s : State) : Out :=
  runT 0x0A5 f (vecInt f (fun sg w a b => ⟨if laneInt sg w a ≤ laneInt sg w b then a else b, 0⟩)) s
def execVmax (f : TFields) (s : State) : Out :=
  runT 0x0A6 f (vecInt f (fun sg w a b => ⟨if laneInt sg w a ≤ laneInt sg w b then b else a, 0⟩)) s
def execVabs (f : TFields) (s : State) : Out := runT 0x0A7 f (vecExact f (fun a _ => a.natAbs)) s
def execVneg (f : TFields) (s : State) : Out :=
  runT 0x0A8 f (vecComposeUnary f (fun l => l.affine (-l.a) (-l.b)) (vecExact f (fun a _ => -a))) s
def execVand (f : TFields) (s : State) : Out := runT 0x0A9 f (vecBits f (fun _ a b => a &&& b)) s
def execVor (f : TFields) (s : State) : Out := runT 0x0AA f (vecBits f (fun _ a b => a ||| b)) s
def execVxor (f : TFields) (s : State) : Out := runT 0x0AB f (vecBits f (fun _ a b => a ^^^ b)) s
def execVshl (f : TFields) (s : State) : Out :=
  let w := laneWidth (s.ctxOf s.hart)
  runT 0x0AC f (vecComposeInt f (fun l c => l.affine (l.a <<< (c.toNat % w)) (l.b <<< (c.toNat % w))) noCompose
    (vecBits f (fun w a b => a * 2 ^ (b % w)))) s
def execVshr (f : TFields) (s : State) : Out := runT 0x0AD f (vecBits f (fun w a b => a / 2 ^ (b % w))) s
def execVsra (f : TFields) (s : State) : Out :=
  runT 0x0AE f (vecBits f (fun w a b => (sext a w / (2 ^ (b % w) : Nat) % (2 ^ w : Nat)).toNat)) s

def vcmpBody (f : TFields) : M Unit := do
  let c ← getCtx
  let w := laneWidth c
  let sg := laneSigned c
  checkHandles f
  let as ← readLanes w (lanes c) (immInt w) f.a
  let bs ← readLanes w (lanes c) (immInt w) f.b
  let act ← maskOf f
  let rs ← laneMap act (fun (e : Nat × Nat) =>
    pure (if intCond (mField f.m 3 0) (laneInt sg w e.1) (laneInt sg w e.2) then 1 else 0)) (as.zip bs)
  putPred f.d (merges f) rs

def execVcmp (f : TFields) (s : State) : Out := runT 0x0AF f (vcmpBody f) s

def vselBody (f : TFields) : M Unit := do
  let c ← getCtx
  let w := laneWidth c
  checkHandles f
  let as ← readLanes w (lanes c) (immInt w) f.a
  let bs ← readLanes w (lanes c) (immInt w) f.b
  let p ← readP (mField f.m 3 0)
  putLanes f.d w false (((as.zip bs).zipIdx).map (fun e => some (if p.getLsbD e.2 != f.m.getLsbD 4 then e.1.1 else e.1.2)))

def execVsel (f : TFields) (s : State) : Out := runT 0x0B0 f (vselBody f) s

/-! ### Floating-point lanes (06 R123 to R125) -/

def execVfadd (f : TFields) (s : State) : Out := runT 0x0B1 f (vecComposeFp f 0 0 (vecRound f addF)) s
def execVfsub (f : TFields) (s : State) : Out := runT 0x0B2 f (vecComposeFp f 1 2 (vecRound f subF)) s
def execVfmul (f : TFields) (s : State) : Out := runT 0x0B3 f (vecComposeFp f 3 3 (vecRound f mulF)) s
def execVfma (f : TFields) (s : State) : Out := runT 0x0B4 f (vecFused f (fun fmt m a b d => fmaF fmt m a b d)) s
def execVfms (f : TFields) (s : State) : Out := runT 0x0B5 f (vecFused f (fun fmt m a b d => fmaF fmt m a b (negV d))) s
def execVfmin (f : TFields) (s : State) : Out := runT 0x0B6 f (vecFp f (fun fmt a b => raised (minMaxF fmt false a b))) s
def execVfmax (f : TFields) (s : State) : Out := runT 0x0B7 f (vecFp f (fun fmt a b => raised (minMaxF fmt true a b))) s
def execVfabs (f : TFields) (s : State) : Out := runT 0x0B8 f (vecFp f (fun fmt a _ => pure (a % 2 ^ (fmt.width - 1)))) s
def execVfneg (f : TFields) (s : State) : Out :=
  runT 0x0B9 f (do
    let _ ← needFloat
    vecComposeUnary f (fun l => l.step { op := 4, mode := 0, m := f.m, c := 0 }) (vecFp f (fun fmt a _ => pure (flipSign fmt.width a)))) s

def vfcmpBody (f : TFields) : M Unit := do
  let fmt ← needFloat
  let c ← getCtx
  checkHandles f
  let as ← readLanes fmt.width (lanes c) (immFloat fmt (rndOf f)) f.a
  let bs ← readLanes fmt.width (lanes c) (immFloat fmt (rndOf f)) f.b
  let act ← maskOf f
  let rs ← laneMap act (fun (e : Nat × Nat) => do
    let r := fpCond (mField f.m 3 0) (decodeF fmt e.1) (decodeF fmt e.2)
    raiseF r.2
    pure (if r.1 then 1 else 0)) (as.zip bs)
  putPred f.d (merges f) rs

def execVfcmp (f : TFields) (s : State) : Out := runT 0x0BA f (vfcmpBody f) s

/-- An approximated function: the scalar instruction's bits in FP32 lanes, the value rounded by RNE in narrower ones. -/
def vecApprox (f : TFields) (fn : Approx) : M Unit :=
  vecFp f (fun fmt a _ => raised (if fmt = fp32 then approxF fn a else approxLane fn fmt a))

def execVfexp2 (f : TFields) (s : State) : Out := runT 0x0BB f (vecApprox f .exp2) s
def execVfrcp (f : TFields) (s : State) : Out := runT 0x0BC f (vecApprox f .rcp) s
def execVfrsq (f : TFields) (s : State) : Out := runT 0x0BD f (vecApprox f .rsq) s
def execVftanh (f : TFields) (s : State) : Out := runT 0x0BE f (vecApprox f .tanh) s
def execVfsigm (f : TFields) (s : State) : Out := runT 0x0BF f (vecApprox f .sigm) s

/-! ### Conversions (06 R126) -/

/-- The width of a format code of VFCVT, and whether it is an integer format. -/
def vcvtWidth (k : Nat) : Nat := if k < 5 then (cvtFmt k).width else if k = 5 then 32 else if k = 6 then 16 else 8

/-- One element converted (03 R49). -/
def vcvtElem (f : TFields) (src dst x : Nat) : M Nat := do
  let v := if src < 5 then decodeF (cvtFmt src) x else FV.ofInt (sext x (vcvtWidth src))
  let w := vcvtWidth dst
  if dst < 5 then
    roundBy (rndOf f) (isFin v && (5 ≤ src || w ≤ vcvtWidth src)) (fun m => encodeF (cvtFmt dst) m v)
  else if src < 5 then roundBy (rndOf f) (isFin v) (fun m => toInt (intLo true w) (intHi true w) w m v)
  else raised (narrow true (satBit f) w (sext x (vcvtWidth src)))

def vfcvtBody (f : TFields) : M Unit := do
  let src := mField f.m 2 0
  let dst := mField f.m 7 5
  let part := mField f.m 4 3
  let sw := vcvtWidth src
  let dw := vcvtWidth dst
  checkHandles f
  let a ← readVecOp f.a
  if dw < sw then do
    let n := 2048 / sw
    let ys ← (elems sw n a).mapM (vcvtElem f src dst)
    let d ← readVecOp f.d
    let lo := part * (n * dw)
    putVec f.d (d % 2 ^ lo + packElems dw ys * 2 ^ lo + d / 2 ^ (lo + n * dw) * 2 ^ (lo + n * dw))
  else do
    let n := 2048 / dw
    let ys ← ((elems sw (2048 / sw) a).drop (part * n) |>.take n).mapM (vcvtElem f src dst)
    putVec f.d (packElems dw ys)

def execVfcvt (f : TFields) (s : State) : Out := runT 0x0C0 f (vfcvtBody f) s

/-! ### Reductions and dot products (06 R127, R128) -/

/-- One level of the tree of 03 R62. -/
def treeLevel (comb : FV → FV → M FV) : List FV → M (List FV)
  | x :: y :: r => do
    let z ← comb x y
    let t ← treeLevel comb r
    pure (z :: t)
  | l => pure l

/-- TreeSum, level by level; the fuel bounds the levels. -/
def treeSum (comb : FV → FV → M FV) : Nat → List FV → M FV
  | 0, l => pure (l.headD FV.zero)
  | n + 1, l => do
    let t ← treeLevel comb l
    match t with
    | [x] => pure x
    | t => treeSum comb n t

/-- Round(x + y, FP32). -/
def addNode (rnd : Nat) (x y : FV) : M FV := do
  let r ← roundWith fp32 rnd (fun m => addF fp32 m x y)
  pure (decodeF fp32 r)

def negZero : FV := .fin true 0 1

/-- Lanes under the mask, an inactive one the identity. -/
def masked {α : Type} (act : Pred) (e : α) (xs : List α) : List α := (xs.zipIdx).map (fun p => if act.getLsbD p.2 then p.1 else e)

def execVradd (f : TFields) (s : State) : Out :=
  runT 0x0C1 f (do
    let (c, as) ← vecSource f
    let act ← maskOf f
    writeOp f.d (toWord ((masked act 0 (as.map (laneInt (laneSigned c) (laneWidth c)))).foldl (· + ·) 0))) s

def execVrfadd (f : TFields) (s : State) : Out :=
  runT 0x0C2 f (do
    let fmt ← needFloat
    let (_, as) ← vecSource f
    let act ← maskOf f
    let t ← treeSum (addNode (rndOf f)) 8 (masked act negZero (as.map (decodeF fmt)))
    writeNat f.d (encodeF fp32 .rne t).bits) s

/-- The greatest or least lane; an inactive lane enters as the lane range's other end. -/
def reduceInt (f : TFields) (max : Bool) : M Unit := do
  let (c, as) ← vecSource f
  let act ← maskOf f
  let sg := laneSigned c
  let w := laneWidth c
  let xs := masked act (if max then intLo sg w else intHi sg w) (as.map (laneInt sg w))
  writeOp f.d (toWord (xs.foldl (fun a b => if max then (if a ≤ b then b else a) else if a ≤ b then a else b)
    (if max then intLo sg w else intHi sg w)))

def execVrmax (f : TFields) (s : State) : Out := runT 0x0C3 f (reduceInt f true) s
def execVrmin (f : TFields) (s : State) : Out := runT 0x0C4 f (reduceInt f false) s

/-- A lane's FP32 bits, exact; a signalling NaN stays one. -/
def widen (v : FV) : Nat := match v with | .nan true => 0x7F800001 | v => (encodeF fp32 .rne v).bits

/-- The greatest or least lane by FMAX or FMIN, as FP32 (05 R105). -/
def reduceFp (f : TFields) (max : Bool) : M Unit := do
  let fmt ← needFloat
  let (_, as) ← vecSource f
  let act ← maskOf f
  let xs := masked act (fp32.inf max) (as.map (fun a => widen (decodeF fmt a)))
  let r := xs.tail.foldl (fun (r : Rd) x => let q := minMaxF fp32 max r.bits x; ⟨q.bits, r.fl ||| q.fl⟩) ⟨xs.headD 0, 0⟩
  raiseF r.fl
  writeNat f.d r.bits

def execVrfmax (f : TFields) (s : State) : Out := runT 0x0C5 f (reduceFp f true) s
def execVrfmin (f : TFields) (s : State) : Out := runT 0x0C6 f (reduceFp f false) s

def execVdot (f : TFields) (s : State) : Out :=
  runT 0x0C7 f (do
    let (c, as) ← vecSource f
    let w := laneWidth c
    let bs ← readLanes w (lanes c) (immInt w) f.b
    let act ← maskOf f
    let d ← readOp f.d
    let ps := (as.zip bs).map (fun e => laneInt (laneSigned c) w e.1 * laneInt (laneSigned c) w e.2)
    writeOp f.d (toWord (d.toInt + (masked act 0 ps).foldl (· + ·) 0))) s

/-- An exact lane product as a leaf of the tree: an invalid one, or one of a signalling NaN, raises NV in its node. -/
def leafProduct (a b : FV) : FV :=
  match mulV a b with
  | none => .nan true
  | some p => if sigNaN [a, b] then .nan true else p

def execVfdot (f : TFields) (s : State) : Out :=
  runT 0x0C8 f (do
    let fmt ← needFloat
    let (c, as) ← vecSource f
    let bs ← readLanes fmt.width (lanes c) (immFloat fmt (rndOf f)) f.b
    let act ← maskOf f
    let d ← readFV f.d
    let ps := (as.zip bs).map (fun e => leafProduct (decodeF fmt e.1) (decodeF fmt e.2))
    let t ← treeSum (addNode (rndOf f)) 8 (masked act negZero ps)
    let r ← roundWith fp32 (rndOf f) (fun m => addF fp32 m d t)
    writeNat f.d r) s

end Sys2Proof.Machine
end

