-- ==== Sys2Proof/Machine/Vector2.lean ====
section
/-! DEFINITION. Group D: lane moves, block-scaled data, online softmax, clamp, scan, random bits and average
(06 R129 to R139). -/

namespace Sys2Proof.Machine

/-! ### Lane moves (06 R129 to R132) -/

/-- Lanes written under the mask, without flags. -/
def moveLanes (f : TFields) (w : Nat) (xs : List Nat) : M Unit := do
  let act ← maskOf f
  putLanes f.d w (merges f) ((xs.zipIdx).map (fun e => if act.getLsbD e.2 then some e.1 else none))

/-- VMOV copies a late register's reference and transform, poisoned or not (06 R119, 11 R240). -/
def vmovBody (f : TFields) : M Unit := do
  let c ← getCtx
  let eager : M Unit := do
    let (c, as) ← vecSource f
    moveLanes f (laneWidth c) as
  match f.a, f.d with
  | .v n, .v _ => (match (if plainForm f then c.late.get none (lateKeyV n.toNat) else none) with
    | some l => composeTo f.d l
    | none => eager)
  | _, _ => eager

def execVmov (f : TFields) (s : State) : Out := runT 0x0C9 f (vmovBody f) s
def execVbcast (f : TFields) (s : State) : Out :=
  runT 0x0CA f (do
    let c ← getCtx
    checkHandles f
    let x ← readNat f.a
    moveLanes f (laneWidth c) (List.replicate (lanes c) (x % 2 ^ laneWidth c))) s
def execVext (f : TFields) (s : State) : Out :=
  runT 0x0CB f (do
    let (c, as) ← vecSource f
    let k ← readNat f.b
    let e := as.getD k 0
    writeOp f.d (if laneFmt c = 0 then toWord (sext e (laneWidth c)) else BitVec.ofNat 64 e)) s
def execVins (f : TFields) (s : State) : Out :=
  runT 0x0CC f (do
    let c ← getCtx
    let x ← readNat f.a
    let k ← readNat f.b
    let d ← readVecOp f.d
    putVec f.d (if k < lanes c then setElem d (laneWidth c) k x else d)) s
def execVperm (f : TFields) (s : State) : Out :=
  runT 0x0CD f (do
    let (c, as) ← vecSource f
    let b ← readVecOp f.b
    moveLanes f (laneWidth c) ((elems (laneWidth c) (lanes c) b).map (fun i => as.getD (i % lanes c) 0))) s

/-- The lanes of two halves, interleaved. -/
def zipLanes : List Nat → List Nat → List Nat
  | a :: as, b :: bs => a :: b :: zipLanes as bs
  | _, _ => []

/-- The elements at even places, and at odd places. -/
def evens : List Nat → List Nat
  | a :: _ :: r => a :: evens r
  | l => l
def odds : List Nat → List Nat
  | _ :: b :: r => b :: odds r
  | _ => []

/-- The rearrangements of VSHUF (06 R131). -/
def shuffle (pat : Nat) (as bs : List Nat) : List Nat :=
  let h := as.length / 2
  if pat = 0 then zipLanes (as.take h) (bs.take h)
  else if pat = 1 then zipLanes (as.drop h) (bs.drop h)
  else if pat = 2 then evens as ++ evens bs
  else if pat = 3 then odds as ++ odds bs
  else if pat = 4 then as.reverse
  else zipLanes (odds as) (evens as)

def execVshuf (f : TFields) (s : State) : Out :=
  runT 0x0CE f (do
    let (c, as) ← vecSource f
    let b ← readVecOp f.b
    putLanes f.d (laneWidth c) false ((shuffle (mField f.m 3 0) as (elems (laneWidth c) (lanes c) b)).map some)) s
def execVslide (f : TFields) (s : State) : Out :=
  runT 0x0CF f (do
    let (c, as) ← vecSource f
    let b ← readOp f.b
    let n := lanes c
    moveLanes f (laneWidth c) ((List.range n).map (fun i =>
      let j : Int := i + b.toInt
      if 0 ≤ j && j < n then as.getD j.toNat 0 else 0))) s

/-- The lanes that a predicate selects, in ascending order. -/
def selected (p : Pred) (as : List Nat) : List Nat := ((as.zipIdx).filter (fun e => p.getLsbD e.2)).map (·.1)

/-- Lanes padded with zeros to n. -/
def padLanes (n : Nat) (xs : List Nat) : List Nat := xs ++ List.replicate (n - xs.length) 0

def execVcompress (f : TFields) (s : State) : Out :=
  runT 0x0D0 f (do
    let (c, as) ← vecSource f
    let p ← readPredOp f.b
    putLanes f.d (laneWidth c) false ((padLanes (lanes c) (selected p as)).map some)) s

/-- Hand out lanes to the selected places, from the head on. -/
def expandLanes (p : Pred) : List Nat → Nat → Nat → List Nat
  | _, _, 0 => []
  | as, i, n + 1 => if p.getLsbD i then as.headD 0 :: expandLanes p as.tail (i + 1) n else 0 :: expandLanes p as (i + 1) n

def execVexpand (f : TFields) (s : State) : Out :=
  runT 0x0D1 f (do
    let (c, as) ← vecSource f
    let p ← readPredOp f.b
    putLanes f.d (laneWidth c) false ((expandLanes p as 0 (lanes c)).map some)) s

/-- The number of set bits below each of n places. -/
def prefixCounts (p : Pred) : Nat → Nat → Nat → List Nat
  | _, _, 0 => []
  | k, i, n + 1 => k :: prefixCounts p (if p.getLsbD i then k + 1 else k) (i + 1) n

def execViota (f : TFields) (s : State) : Out :=
  runT 0x0D2 f (do
    let c ← getCtx
    checkHandles f
    let p ← readPredOp f.a
    let w := laneWidth c
    moveLanes f w ((match f.a with
      | .none => List.range (lanes c)
      | _ => prefixCounts p 0 0 (lanes c)).map (· % 2 ^ w))) s

/-! ### Block-scaled data (06 R133 to R137) -/

/-- The block length of BL; more lanes than the register has is ILLEGAL_OPERAND with %fmt (06 R133). -/
def blockLen (f : TFields) : M Nat := do
  let c ← getCtx
  let l := 16 * 2 ^ mField f.m 3 2
  require (l ≤ lanes c) c.fmt.toNat
  pure l

/-- Blocks of l elements. -/
def blocksOf {α : Type} (l : Nat) : Nat → List α → List (List α)
  | 0, _ => []
  | n + 1, xs => xs.take l :: blocksOf l n (xs.drop l)

def vbsencBody (f : TFields) : M Unit := do
  let l ← blockLen f
  let (c, as) ← vecSource f
  let t := mField f.m 1 0
  let bs ← (blocksOf l (lanes c / l) (as.map (laneVal c))).mapM (fun b => do
    let modes ← b.mapM (fun _ => modeFor (rndOf f) true)
    let (sb, codes, fl) := encodeBS4 t modes b
    raiseF fl
    pure (sb, codes))
  putVec f.d (packElems 4 (bs.flatMap (·.2)) + packElems 8 (bs.map (·.1)) * 2 ^ 1024)

def execVbsenc (f : TFields) (s : State) : Out := runT 0x0D3 f (vbsencBody f) s

/-- A BS4 element in the lane format: an invalid block raises SAT, and gives NaN to a float consumer, 0 to an integer one
(03 R53). -/
def bs4Lane (c : Ctx) (rnd code sb : Nat) : M Nat := do
  match laneFloat c, decodeBS4 code sb with
  | some fmt, some v => roundBy rnd (drawsFor 12 (some fmt)) (fun m => encodeF fmt m v)
  | some fmt, none => do
    raiseF fSAT
    pure fmt.canon
  | none, some v =>
    let sg := laneSigned c
    let w := laneWidth c
    roundBy rnd true (fun m => toInt (intLo sg w) (intHi sg w) w m v)
  | none, none => do
    raiseF fSAT
    pure 0

def vbsdecBody (f : TFields) : M Unit := do
  let l ← blockLen f
  checkHandles f
  let c ← getCtx
  let a ← readVecOp f.a
  let n := lanes c
  let ys ← ((elems 4 n a).zipIdx).mapM (fun e => bs4Lane c (rndOf f) e.1 (elemOf a 8 (128 + e.2 / l)))
  putVec f.d (packElems (laneWidth c) ys)

def execVbsdec (f : TFields) (s : State) : Out := runT 0x0D4 f (vbsdecBody f) s

def execVq8 (f : TFields) (s : State) : Out :=
  runT 0x0D5 f (do
    let (c, as) ← vecSource f
    let b ← readFV f.b
    let qs ← as.mapM (fun a => quantise (rndOf f) (laneVal c a) b)
    putVec f.d (packElems 8 (qs.map (fun q => (q % 256).toNat)))) s

def execVdq8 (f : TFields) (s : State) : Out :=
  runT 0x0D6 f (do
    let fmt ← needFloat
    checkHandles f
    let c ← getCtx
    let a ← readVecOp f.a
    let b ← readFV f.b
    let ys ← (elems 8 (lanes c) a).mapM (fun x => roundWith fmt (rndOf f) (fun m => mulF fmt m (FV.ofInt (sext x 8)) b))
    putVec f.d (packElems fmt.width ys)) s

/-- The greatest magnitude of a block as FP32 bits; a NaN gives the canonical NaN (06 R136). -/
def amaxOf (xs : List FV) : Rd :=
  if xs.any isNaN then ⟨fp32.canon, if sigNaN xs then fNV else 0⟩
  else xs.foldl (fun r x => let q := minMaxF fp32 true r.bits (encodeF fp32 .rne (absV x)).bits; ⟨q.bits, 0⟩) ⟨0, 0⟩

def execVamax (f : TFields) (s : State) : Out :=
  runT 0x0D7 f (do
    let fmt ← needFloat
    let l ← blockLen f
    let (c, as) ← vecSource f
    let rs := (blocksOf l (lanes c / l) (as.map (decodeF fmt))).map amaxOf
    raiseF (rs.foldl (fun g r => g ||| r.fl) 0)
    putVec f.d (packElems 32 (rs.map (·.bits)))) s

/-- The halves of a split element: a1, a2 and NV (03 R65, 06 R137). -/
def splitHalves (c : Ctx) (x : Nat) : Nat × Nat × Flags :=
  match laneFloat c with
  | some fmt =>
    match decodeF fmt x with
    | .nan sg => (fmt.canon, fmt.canon, if sg then fNV else 0)
    | .inf _ => (x, 0, 0)
    | .fin neg num den =>
      let a1 := (encodeF fmt .rtz (.fin neg num (2 * den))).bits
      let d := (addV false (.fin neg num den) (negV (decodeF fmt a1))).getD FV.zero
      (a1, (encodeF fmt .rne d).bits, 0)
  | none =>
    let w := laneWidth c
    let a := laneInt (laneSigned c) w x
    let a1 := a / 2
    ((a1 % (2 ^ w : Nat)).toNat, ((a - a1) % (2 ^ w : Nat)).toNat, 0)

def execVsplit (f : TFields) (s : State) : Out :=
  runT 0x0D8 f (do
    let (c, as) ← vecSource f
    let p ← readPredOp f.b
    let hs := (as.zipIdx).map (fun e => if p.getLsbD e.2 then some (splitHalves c e.1) else none)
    raiseF (hs.foldl (fun g r => match r with | some r => g ||| r.2.2 | none => g) 0)
    let out := if f.m.getLsbD 0 then padLanes (lanes c) (hs.filterMap (fun r => r.map (·.2.1)))
      else (as.zip hs).map (fun e => match e.2 with | some r => r.1 | none => e.1)
    putLanes f.d (laneWidth c) false (out.map some)) s

/-! ### Online softmax (06 R138) -/

/-- The merge of two values with their factors, rounded once. -/
def mergeF (m : Mode) (x c1 y c2 : FV) : Rd :=
  match mulV x c1, mulV y c2 with
  | some p, some q => finish fp32 m [x, c1, y, c2] (addV (isRdn m) p q)
  | _, _ => ⟨fp32.canon, fNV⟩

/-- The factor of a maximum mk against the merged maximum m: its value and flags. -/
def onlineFactor (mk m : Nat) : FV × Flags :=
  if mk = fp32.inf true then (FV.zero, 0)
  else
    let d := subF fp32 .rne (decodeF fp32 mk) (decodeF fp32 m)
    let r := approxF .exp2 d.bits
    (decodeF fp32 r.bits, d.fl ||| r.fl)

/-- The merged maximum and the two factors, or none where a maximum is NaN. -/
def onlineMerge (m1 m2 : Nat) : Option (Nat × FV × FV × Flags) :=
  if isNaN (decodeF fp32 m1) || isNaN (decodeF fp32 m2) then none
  else
    let m := (minMaxF fp32 true m1 m2).bits
    let (c1, f1) := onlineFactor m1 m
    let (c2, f2) := onlineFactor m2 m
    some (m, c1, c2, f1 ||| f2)

def vonlineBody (f : TFields) : M Unit := do
  checkHandles f
  let (w1, w2) ← readPair f.b
  let m1 := w1.toNat % 2 ^ 32
  let m2 := w2.toNat % 2 ^ 32
  let merge := onlineMerge m1 m2
  let fl : Flags := match merge with
    | some r => r.2.2.2
    | none => if sigNaN [decodeF fp32 m1, decodeF fp32 m2] then fNV else 0
  match f.d with
  | .v _ => do
    let o1 ← readVecOp f.d
    let o2 ← readVecOp f.a
    raiseF fl
    match merge with
    | none => putVec f.d (packElems 32 (List.replicate 64 fp32.canon))
    | some (_, c1, c2, _) => do
      let ys ← ((elems 32 64 o1).zip (elems 32 64 o2)).mapM (fun e =>
        roundWith fp32 (rndOf f) (fun r => mergeF r (decodeF fp32 e.1) c1 (decodeF fp32 e.2) c2))
      putVec f.d (packElems 32 ys)
  | _ => do
    raiseF fl
    match merge with
    | none => writeNat f.d (fp32.canon * 2 ^ 32 + fp32.canon)
    | some (m, c1, c2, _) => do
      let l ← roundWith fp32 (rndOf f) (fun r =>
        mergeF r (decodeF fp32 (w1.toNat / 2 ^ 32)) c1 (decodeF fp32 (w2.toNat / 2 ^ 32)) c2)
      writeNat f.d (l * 2 ^ 32 + m)

def execVonline (f : TFields) (s : State) : Out := runT 0x0D9 f (vonlineBody f) s

/-! ### Clamp, scan, random bits and average (06 R139) -/

/-- A float lane clamped to [−c, c] of a bound's bits. -/
def clampF (fmt : FFmt) (a b : Nat) : Rd :=
  let va := decodeF fmt a
  let vb := decodeF fmt b
  if isNaN va || isNaN vb then ⟨fmt.canon, if sigNaN [va, vb] then fNV else 0⟩
  else
    let hi := b % 2 ^ (fmt.width - 1)
    if cmpV va (absV vb) = some .gt then ⟨hi, fSAT⟩
    else if cmpV va (negV (absV vb)) = some .lt then ⟨hi + 2 ^ (fmt.width - 1), fSAT⟩ else ⟨a, 0⟩

/-- An integer lane clamped by a bound: [−|b|, |b|], or [0, b] of unsigned lanes. -/
def clampI (sg : Bool) (w a b : Nat) : Rd :=
  let c : Int := if sg then min ((sext b w).natAbs : Int) (intHi true w) else ((b % 2 ^ w : Nat) : Int)
  let r := clampInt (if sg then -c else 0) c (laneInt sg w a)
  ⟨(r.1 % (2 ^ w : Nat)).toNat, r.2⟩

def execVclamp (f : TFields) (s : State) : Out :=
  runT 0x0DA f (if (laneFloat (s.ctxOf s.hart)).isSome then vecFp f (fun fmt a b => raised (clampF fmt a b))
    else vecInt f clampI) s

/-- The running values of VSCAN: under the mask, what each active lane writes. -/
def scanLanes (add : Nat → Nat → M Nat) (excl : Bool) (act : Pred) : List Nat → Nat → Nat → M (List (Option Nat))
  | [], _, _ => pure []
  | a :: r, i, acc =>
    if act.getLsbD i then do
      let next ← add acc a
      let t ← scanLanes add excl act r (i + 1) next
      pure (some (if excl then acc else next) :: t)
    else do
      let t ← scanLanes add excl act r (i + 1) acc
      pure (none :: t)

def vscanBody (f : TFields) : M Unit := do
  let (c, as) ← vecSource f
  let act ← maskOf f
  let w := laneWidth c
  let add (x y : Nat) : M Nat := match laneFloat c with
    | some fmt => roundWith fmt (rndOf f) (fun m => addF fmt m (decodeF fmt x) (decodeF fmt y))
    | none => pure ((x + y) % 2 ^ w)
  let rs ← scanLanes add (f.m.getLsbD 0) act as 0 0
  putLanes f.d w (merges f) rs

def execVscan (f : TFields) (s : State) : Out := runT 0x0DB f (vscanBody f) s

/-- One draw of %srseed (03 R45). -/
def drawRandom : M Nat := do
  let c ← getCtx
  let d := xorshift c.srseed
  modCtx (fun c => { c with srseed := d })
  pure d.toNat

def execVrng (f : TFields) (s : State) : Out :=
  runT 0x0DC f (do
    checkHandles f
    let ys ← (List.replicate 64 ()).mapM (fun _ => drawRandom)
    putVec f.d (packElems 32 ys)) s

/-- Half of a value. -/
def halfV : FV → FV
  | .fin neg num den => .fin neg num (2 * den)
  | v => v

def execVavg (f : TFields) (s : State) : Out :=
  runT 0x0DD f (if (laneFloat (s.ctxOf s.hart)).isSome then
      vecRound f (fun fmt m a b => finish fmt m [a, b] ((addV (isRdn m) a b).map halfV))
    else vecExact f (fun a b => (a + b + 1) / 2)) s

end Sys2Proof.Machine
end

