-- ==== Sys2Proof/Machine/Memory.lean ====
section
/-! DEFINITION. Group E: scalar and vector loads and stores, cache control (07 R142 to R148, R155). -/

namespace Sys2Proof.Machine

/-! ### Operands -/

/-- The address of a memory operand [sB+e] or [sB+sI] (07 R142). -/
def memAddr (f : TFields) : M Nat := do
  let a ← readOp f.a
  let b ← readOp f.b
  pure (a + b).toNat

/-- The bytes that SZ selects: 8, 4, 2 or 1 (07 R145). -/
def szBytes (k : Nat) : Nat := 8 / 2 ^ k

/-- NB, bit 64 (04 R80). -/
def nbBit (f : TFields) : Bool := f.m.getLsbD 4

/-- The path of an ordinary load: the cache hint `once` keeps the line out of the L1 (01 R22, 07 R146). -/
def loadPath (f : TFields) : Path := if f.h.toNat % 4 = 3 then .once else .l1

/-- The report of an instruction that has another effect too: the guard predicate reads false afterwards (07 R144). -/
def writeGuardFalse (g : Guard) : M Unit := do
  let c ← getCtx
  writeP g.p.toNat (if g.neg then onesBelow (lanes c) else 0)

/-! ### Scalar loads and stores (07 R146) -/

/-- A loaded number as SGN extends it. -/
def extendLoad (f : TFields) (n x : Nat) : Word := if f.m.getLsbD 2 then toWord (sext x (8 * n)) else BitVec.ofNat 64 x

def ldBody (f : TFields) (path : Path) : M Unit := do
  let va ← memAddr f
  let n := szBytes (mField f.m 1 0)
  let x ← loadNat va n path
  writeOp f.d (extendLoad f n x)

/-- The shadow address of the scale byte of an element in device memory (03 R55); an aperture's scales are the node's own
(13 R265). -/
def shadowAt (s : State) (ten va : Nat) (loc : Loc) (pg : Page) : Option Nat :=
  match loc with
  | .dev _ => if pg.fmt = 12 then some ((s.ssb ten + va / 2 ^ shadowShift pg.geom) % 2 ^ 64) else none
  | _ => none

/-- The node byte of the scale of the BS4 block that holds node byte `off` (13 R265). -/
def nodeScale (s : State) (ten n geom off : Nat) : Nat :=
  256 * ceilDiv (s.node ten n).count 512 + off / (8 * 2 ^ (geom % 4))

/-- Where the scale byte of a BS4 element lies, its checks made; none for another format. -/
def scalePlace (va : Nat) (loc : Loc) (pg : Page) (acc : Access) : M (Option (Nat × Loc × Page)) := do
  let ten ← getTen
  let s ← get
  if pg.fmt ≠ 12 then pure none
  else match loc with
    | .ln n off => do
      let k := nodeScale s ten n pg.geom off
      if 256 * (s.node ten n).lines ≤ k then stop (.page va acc)
      pure (some (va, .ln n k, pg))
    | _ => match shadowAt s ten va loc pg with
      | some sva => do
        let (loc, spg) ← checkAccess sva acc rawPage
        pure (some (sva, loc, spg))
      | none => pure none

/-- The word or element of n bytes is valid in the L1 that holds it. -/
def isHit (loc : Loc) (pg : Page) (n : Nat) : M Bool := fun s =>
  match s.hart, loc with
  | .core c _, .dev pa => .ok (s.cached s.hart pa pg && (wordsOf pa n).all (fun w => (s.l1Get c w).isSome), s)
  | _, _ => .ok (false, s)

/-- The scale byte of a BS4 element: its value, and the address of a poisoned one; 0 for another format. -/
def readScale (va : Nat) (loc : Loc) (pg : Page) (path : Path) : M (Nat × Option Nat) := do
  let p ← scalePlace va loc pg .read
  match p with
  | none => pure (0, none)
  | some (sva, loc, spg) => do
    let (bs, bad) ← fetchLoc loc spg 1 path
    pure (ofBytes bs, if bad then some sva else none)

/-- What a read of one element found: the element, its scale byte, the address of poisoned data, and whether it was
valid in the L1 before. -/
structure ElemRead where
  x   : Nat
  sb  : Nat
  bad : Option Nat
  hit : Bool

/-- Read one element of `bits` bits at a checked place; `nib` selects the nibble of a 4-bit one. -/
def readElem (va nib bits : Nat) (loc : Loc) (pg : Page) (path : Path) : M ElemRead := do
  let n := max 1 (bits / 8)
  let hit ← isHit loc pg n
  let (bs, bad) ← fetchLoc loc pg n path
  let (sb, sbad) ← readScale va loc pg path
  let x := ofBytes bs
  pure { x := if bits = 4 then elemOf x 4 nib else x, sb := sb, bad := if bad then some va else sbad, hit := hit }

/-- The element that a DEC form names, with its page's format. -/
def readDec (f : TFields) (va : Nat) (path : Path) : M (ElemRead × Nat) := do
  let ten ← getTen
  let s ← get
  let (loc, pg) ← checkShadowed va .read (fun _ pg => pg.fmt == 0 || pg.fmt == 13) (shadowAt s ten va)
    (fun pg => aligned va (max 1 (fmtBits pg.fmt / 8)))
  let e ← readElem va (if f.m.getLsbD 2 then 1 else 0) (fmtBits pg.fmt) loc pg path
  pure (e, pg.fmt)

/-- The number that the conversion of a DEC form takes. -/
def decNumber (e : ElemRead) (fmt : Nat) : Nat := if fmt = 12 then e.sb * 16 + e.x else e.x

/-- Convert present data, with its flags and draws. -/
def convertNow (cv : Conv) (x : Nat) : M Nat := do
  let c ← getCtx
  let (v, fl, seed) := convert cv x c.srseed.toNat
  modCtx (fun c => { c with srseed := BitVec.ofNat 32 seed })
  raiseF fl
  pure v

/-- Poisoned data raises POISON with its address. -/
def noPoison (bad : Option Nat) : M Unit :=
  match bad with
  | some va => trap cPOISON va
  | none => pure ()

def decBody (f : TFields) (path : Path) : M Unit := do
  let va ← memAddr f
  let (e, fmt) ← readDec f va path
  noPoison e.bad
  let c ← getCtx
  let v ← convertNow (.scalar fmt c.rm.toNat) (decNumber e fmt)
  writeNat f.d v

/-- A late load's access missed: D becomes late. Where no symbol is to be had the instruction stalls, and on its return
without one its data has arrived, and D is written present (07 R155). -/
def lateLoad (again vec : Bool) (key bits : Nat) (cv : Conv) (bad : Option Nat) (present : M Unit) : M Unit := do
  let free ← symRoom 0
  if again && free.isEmpty then do
    noPoison bad
    present
  else do
    let i ← allocSym vec (.load bits cv (if bad.isSome then cPOISON else 0)) 0
    bindLate key i

/-- The late-register key of a destination. -/
def destKey (o : Operand) : Nat := (operandKey o).getD 0

def ldlBody (f : TFields) (again : Bool) : M Unit := do
  let va ← memAddr f
  if f.m.getLsbD 3 then do
    let (e, fmt) ← readDec f va (loadPath f)
    let c ← getCtx
    let cv := Conv.scalar fmt c.rm.toNat
    let present : M Unit := do
      let v ← convertNow cv (decNumber e fmt)
      writeNat f.d v
    if e.hit then do
      noPoison e.bad
      present
    else lateLoad again false (destKey f.d) (decNumber e fmt) cv e.bad present
  else do
    let n := szBytes (mField f.m 1 0)
    aligned va n
    let (loc, pg) ← checkAccess va .read anyPage
    let hit ← isHit loc pg n
    let (bs, bad) ← fetchLoc loc pg n (loadPath f)
    let x := (extendLoad f n (ofBytes bs)).toNat
    let badAt := if bad then some va else none
    if hit then do
      noPoison badAt
      writeNat f.d x
    else lateLoad again false (destKey f.d) x .raw badAt (writeNat f.d x)

def execLd (f : TFields) (s : State) : Out := runT 0x100 f (ldBody f (loadPath f)) s
def execLdDec (f : TFields) (s : State) : Out := runT 0x100 f (decBody f (loadPath f)) s
def execLdb (f : TFields) (s : State) : Out := runT 0x101 f (ldBody f .home) s
def execLdl (f : TFields) (s : State) : Out := runWait 0x102 f (ldlBody f) s

/-- Store bytes at a checked address; an aperture's node is bumped once (08 R172). -/
def storeBytes (va align : Nat) (bs : List Byte) (through : Bool) : M Unit := do
  aligned va align
  let (loc, pg) ← checkAccess va .write anyPage
  writeLoc va loc pg bs through
  bumpLoc loc

def stBody (f : TFields) (through : Bool) : M Unit := do
  let va ← memAddr f
  let d ← readNat f.d
  let n := szBytes (mField f.m 1 0)
  storeBytes va n (bytesOf n d) through

def execSt (f : TFields) (s : State) : Out := runT 0x103 f (stBody f false) s
def execStwt (f : TFields) (s : State) : Out := runT 0x104 f (stBody f true) s

/-! ### Vector loads and stores (07 R147) -/

/-- The addressing of a vector form. -/
inductive VForm where
  | flat | strided | indexed
  deriving DecidableEq, Repr

/-- What the head of a vector access found: its address, the page's format and geometry, and the element width. -/
structure VHead where
  a    : Nat
  fmt  : Nat
  geom : Nat
  bits : Nat

/-- The memory operand's address: no offset in the strided and indexed forms. -/
def vecAddr (f : TFields) (form : VForm) : M Nat := if form = .flat then memAddr f else readNat f.a

/-- A BS4 store writes whole blocks, unmasked (07 R147). -/
def wholeBlocks (f : TFields) (c : Ctx) (a : Nat) (pg : Page) : Bool :=
  let l := 16 * 2 ^ (pg.geom % 4)
  a % (l / 2) == 0 && l ≤ lanes c && mField f.m 8 5 == 0

/-- The checks at the memory operand's address, whether or not lane 0 is active. -/
def vecHead (f : TFields) (form : VForm) (acc : Access) : M VHead := do
  let c ← getCtx
  let a ← vecAddr f form
  let refuse : Refuse := fun _ pg => pg.fmt == 13 || (form != .flat && fmtBits pg.fmt == 4)
    || (acc.writes && pg.fmt == 12 && !wholeBlocks f c a pg)
  let bits (pg : Page) : Nat := if pg.fmt = 0 then laneWidth c else fmtBits pg.fmt
  let (_, pg) ← checkShadowed a acc refuse (fun _ _ => none) (fun pg => aligned a (max 1 (bits pg / 8)))
  pure { a := a, fmt := pg.fmt, geom := pg.geom, bits := bits pg }

/-- The address of each element, and its nibble. -/
def elemAddrs (f : TFields) (form : VForm) (hd : VHead) : M (List (Nat × Nat)) := do
  let c ← getCtx
  let n := lanes c
  let z := max 1 (hd.bits / 8)
  match form with
  | .flat => pure ((List.range n).map (fun i => if hd.bits = 4 then (hd.a + i / 2, i % 2) else (hd.a + i * z, 0)))
  | .strided => do
    let b ← readOp f.b
    if b.toNat % z ≠ 0 then trap cMISALIGNED ((BitVec.ofNat 64 hd.a + b).toNat)
    pure ((List.range n).map (fun i => ((BitVec.ofNat 64 hd.a + BitVec.ofNat 64 i * b).toNat, 0)))
  | .indexed => do
    let b ← readVecOp f.b
    pure ((elems (laneWidth c) n b).map (fun k => ((hd.a + k * z) % 2 ^ 64, 0)))

/-- Check one element: its page has the head's format and geometry. -/
def checkElem (hd : VHead) (acc : Access) (va : Nat) : M (Loc × Page) := do
  let ten ← getTen
  let s ← get
  checkShadowed va acc (fun _ pg => pg.fmt != hd.fmt || pg.geom != hd.geom) (shadowAt s ten va) (fun _ => pure ())

/-- The conversion of one element to a lane, with its flags and draw. -/
def laneOf (f : TFields) (hd : VHead) (e : ElemRead) : M Nat := do
  let c ← getCtx
  if hd.fmt = 0 then pure e.x
  else do
    let (v, fl, seed) := convElem c.fmt hd.fmt (modeCode c (rndOf f)) (satBit f) e.sb e.x c.srseed.toNat
    modCtx (fun c => { c with srseed := BitVec.ofNat 32 seed })
    raiseF fl
    pure v

def vldBody (f : TFields) (form : VForm) (path : Path) : M Unit := do
  let hd ← vecHead f form .read
  let c ← getCtx
  let es ← elemAddrs f form hd
  let act ← maskOf f
  let rs ← laneMap act (fun (e : Nat × Nat) => do
    let (loc, pg) ← checkElem hd .read e.1
    let r ← readElem e.1 e.2 hd.bits loc pg path
    noPoison r.bad
    laneOf f hd r) es
  putLanes f.d (laneWidth c) (merges f) rs

/-- VLDL: the elements are read at the program point; where any of them was not valid in the L1, D becomes late as a
whole (07 R155). -/
def vldlBody (f : TFields) (again : Bool) : M Unit := do
  let hd ← vecHead f .flat .read
  let c ← getCtx
  let es ← elemAddrs f .flat hd
  let locs ← es.mapM (fun e => checkElem hd .read e.1)
  let hits ← locs.mapM (fun l => isHit l.1 l.2 (max 1 (hd.bits / 8)))
  let rs ← (es.zip locs).mapM (fun e => readElem e.1.1 e.1.2 hd.bits e.2.1 e.2.2 (loadPath f))
  let bad := (rs.find? (fun r => r.bad.isSome)).bind (·.bad)
  let cv := Conv.vector hd.fmt c.fmt (modeCode c (rndOf f)) (satBit f) (rs.map (·.sb))
  let x := packElems hd.bits (rs.map (·.x))
  let present : M Unit := do
    let v ← convertNow cv x
    putVec f.d v
  if hits.all id then do
    noPoison bad
    present
  else lateLoad again true (destKey f.d) x cv bad present

def execVld (f : TFields) (s : State) : Out := runT 0x105 f (vldBody f .flat (loadPath f)) s
def execVldb (f : TFields) (s : State) : Out := runT 0x106 f (vldBody f .flat .home) s
def execVldl (f : TFields) (s : State) : Out := runWait 0x107 f (vldlBody f) s
def execVlds (f : TFields) (s : State) : Out := runT 0x109 f (vldBody f .strided (loadPath f)) s
def execVldx (f : TFields) (s : State) : Out := runT 0x10B f (vldBody f .indexed (loadPath f)) s

/-- A lane encoded as an element (03 R45, R49): a conversion between integers takes no draw. That one between equal
floating-point formats takes a draw under SR, which no rule says of a load or store, is the model's choice (log entry 96). -/
def elemOfLane (f : TFields) (fmt x : Nat) : M Nat := do
  let c ← getCtx
  if fmt = 0 then pure x
  else do
    let v := laneVal c x
    let rounds := match fmtFloat fmt, laneFloat c with
      | some g, some l => g.width ≤ l.width
      | some _, none => true
      | none, some _ => true
      | none, none => false
    roundBy (rndOf f) (rounds && isFin v) (fun m => encodeElem fmt m (satBit f) (laneFloat c).isNone v)

/-- The bytes that the elements write, by address; a later lane's value remains. A nibble joins the other nibble of its
byte, from the same access or from memory. -/
def gatherBytes (hd : VHead) : List ((Nat × Nat) × Nat) → SMap Nat → M (SMap Nat)
  | [], m => pure m
  | ((va, nib), x) :: r, m =>
    if hd.bits = 4 then
      (match m.find? (fun e => e.1 == va) with
      | some e => gatherBytes hd r (SMap.put m va (setElem e.2 4 nib x))
      | none => do
        let (loc, pg) ← checkElem hd .write va
        let (bs, _) ← fetchLoc loc pg 1 .home
        let old ← isHit loc pg 1
        let (cur, _) ← (if old then fetchLoc loc pg 1 .l1 else pure (bs, false))
        gatherBytes hd r (SMap.put m va (setElem (ofBytes cur) 4 nib x)))
    else gatherBytes hd r (((bytesOf (hd.bits / 8) x).zipIdx).foldl (fun m b => SMap.put m (va + b.2) b.1.toNat) m)

/-- Join bytes at rising addresses into runs within one aligned word. -/
def runsOf : SMap Nat → List (Nat × List Byte)
  | [] => []
  | (va, b) :: r =>
    match runsOf r with
    | (v, bs) :: t => if v = va + 1 ∧ v % 8 ≠ 0 then (va, BitVec.ofNat 8 b :: bs) :: t
      else (va, [BitVec.ofNat 8 b]) :: (v, bs) :: t
    | [] => [(va, [BitVec.ofNat 8 b])]

/-- Write runs of bytes; their addresses have been checked, and each leads where it led before the first write. -/
def writeRuns (runs : List (Nat × List Byte)) : M Unit := do
  let places ← runs.mapM (fun r => findPage r.1 .write)
  (runs.zip places).forM (fun e => writeLoc e.1.1 e.2.1 e.2.2 e.1.2 false)

/-- Bump each node once that a store's places name. -/
def bumpNodes (locs : List Loc) : M Unit :=
  (locs.foldl (fun (l : List Loc) x => match x with
    | .ln n _ => if l.any (fun y => match y with | .ln m _ => m == n | _ => false) then l else l ++ [x]
    | _ => l) []).forM bumpLoc

/-- The blocks of a BS4 store: each takes the type that its scale byte holds, and a new scale exponent. -/
def storeBlocks (f : TFields) (hd : VHead) (lanesOf : List Nat) : M Unit := do
  let c ← getCtx
  let l := 16 * 2 ^ (hd.geom % 4)
  let blocks := blocksOf l (lanes c / l) (lanesOf.map (laneVal c))
  let out ← (blocks.zipIdx).mapM (fun b => do
    let va := hd.a + b.2 * (l / 2)
    let (loc, pg) ← checkElem hd .write va
    let p ← scalePlace va loc pg .write
    match p with
    | some (sva, sloc, spg) => do
      let old ← readLoc sva sloc spg 1 .l1
      let modes ← b.1.mapM (fun _ => modeFor (rndOf f) true)
      let (sb, codes, fl) := encodeBS4 (ofBytes old / 64) modes b.1
      raiseF fl
      pure (loc, (va, bytesOf (l / 2) (packElems 4 codes)), some ((sva, sloc, spg), [BitVec.ofNat 8 sb]))
    | none => pure (loc, (va, []), none))
  let m := out.foldl (fun (m : SMap Nat) o => (o.2.1.2.zipIdx).foldl (fun m b => SMap.put m (o.2.1.1 + b.2) b.1.toNat) m) []
  writeRuns (runsOf m)
  out.forM (fun o => match o.2.2 with
    | some ((sva, sloc, spg), bs) => writeLoc sva sloc spg bs false
    | none => pure ())
  bumpNodes (out.map (·.1))

def vstBody (f : TFields) (form : VForm) : M Unit := do
  let c ← getCtx
  let d ← readVecOp f.d
  let hd ← vecHead f form .write
  let ls := elems (laneWidth c) (lanes c) d
  if hd.fmt = 12 then storeBlocks f hd ls
  else do
    let es ← elemAddrs f form hd
    let act ← maskOf f
    let on := ((es.zip ls).zipIdx).filter (fun e => act.getLsbD e.2) |>.map (·.1)
    let locs ← on.mapM (fun e => checkElem hd .write e.1.1)
    let xs ← on.mapM (fun e => elemOfLane f hd.fmt e.2)
    let m ← gatherBytes hd ((on.map (·.1)).zip xs) []
    writeRuns (runsOf m)
    bumpNodes (locs.map (·.1))

def execVst (f : TFields) (s : State) : Out := runT 0x108 f (vstBody f .flat) s
def execVsts (f : TFields) (s : State) : Out := runT 0x10A f (vstBody f .strided) s
def execVstx (f : TFields) (s : State) : Out := runT 0x10C f (vstBody f .indexed) s

/-! ### Cache control (07 R148) -/

/-- The words of the line that holds a physical address. -/
def lineWords (pa : Nat) : List Nat := (List.range 32).map (fun i => pa / 256 * 32 + i)

/-- PREF fills the line; a request that fails a check is dropped. -/
def prefBody (f : TFields) : M Unit := do
  let va ← memAddr f
  let attempt : M Unit := do
    let (loc, pg) ← checkAccess va .read anyPage
    let h ← getHart
    let ten ← getTen
    let s ← get
    match h, loc with
    | .core c _, .dev pa =>
      if s.cached h pa pg && !s.homePoisoned (pa / 256 * 256) 256 && loadPath f != .once then
        set ((s.fill c ten (pa / 256 * 32)).fill c ten (pa / 256 * 32 + 16))
    | _, _ => pure ()
  fun s => match attempt s with
    | .ok r => .ok r
    | .error _ => .ok ((), s)

def execPref (f : TFields) (s : State) : Out := runT 0x10D f (prefBody f) s

/-- Write back a line, and with `drop` invalidate it. -/
def lineBody (f : TFields) (drop : Bool) : M Unit := do
  let va ← memAddr f
  let (loc, _) ← checkAccess va .read anyPage
  let h ← getHart
  match h, loc with
  | .core c _, .dev pa => modify (fun s =>
      let l1 := s.l1Of c (pa / 8)
      if drop then s.evictLine l1 (pa / 256) else (lineWords pa).foldl (fun s w => s.writeBackKey (l1Key l1 w)) s)
  | _, _ => pure ()

def execFlushl (f : TFields) (s : State) : Out := runT 0x10E f (lineBody f false) s
def execInvl (f : TFields) (s : State) : Out := runT 0x10F f (lineBody f true) s

end Sys2Proof.Machine
end

