-- ==== Sys2Proof/Machine/Ordering.lean ====
section
/-! DEFINITION. Group E: atomics, bindings, acquire and release, fences, waits on a word, scratchpad pins (07 R149 to
R154). -/

namespace Sys2Proof.Machine

/-- ORD, bits 69:68 (04 R80): whether an instruction acquires, and whether it releases. -/
def ordAcq (f : TFields) : Bool := f.m.getLsbD 8
def ordRel (f : TFields) : Bool := f.m.getLsbD 9

/-- SCOPE, bits 67:65. -/
def scopeOf (f : TFields) : Nat := mField f.m 7 5

/-- The word of n bytes at a place's home; poisoned data raises POISON after the steps that are done (07 R164). -/
def homeRead (va n : Nat) (loc : Loc) (pg : Page) : M Nat := do
  let (bs, bad) ← fetchLoc loc pg n .home
  if bad then do
    let s ← get
    stop (.trapAfter s cPOISON va)
  else pure (ofBytes bs)

/-! ### Atomics (07 R149) -/

/-- The release of an instruction with `.rel`: the regions that the thread binds to the object (07 R149, R151), and, as
10 R225 has it of a store or atomic with `.rel`, every word that the thread wrote. -/
def releaseAll (obj : Nat) : M Unit := do
  writeBackBound obj
  modify (fun s => s.releasePart s.hart 1)

/-- Perform an atomic on n bytes at the home: `g` gives the new value of the old one. -/
def atomicAt (f : TFields) (n : Nat) (g : Nat → M Nat) : M Nat := do
  let va ← memAddr f
  let (loc, pg) ← homeLoc va n .atomic
  if ordRel f then releaseAll va
  flushCopy loc
  let old ← homeRead va n loc pg
  let new ← g old
  writeHome va loc pg (bytesOf n new)
  if ordAcq f then selfInvalBound va
  pure old

/-- An atomic whose operand is D; SZ selects 8 or 4 bytes. -/
def atomicBody (f : TFields) (g : Nat → Nat → Nat → Nat) : M Unit := do
  let d ← readNat f.d
  let n := szBytes (mField f.m 1 0)
  let old ← atomicAt f n (fun old => pure (g n old (d % 2 ^ (8 * n))))
  writeNat f.d old

/-- The lesser or greater of two words of n bytes. -/
def minMaxN (uns max : Bool) (n a b : Nat) : Nat :=
  let le := if uns then a ≤ b else sext a (8 * n) ≤ sext b (8 * n)
  if le then (if max then b else a) else if max then a else b

def unsBit (f : TFields) : Bool := f.m.getLsbD 2

def execAadd (f : TFields) (s : State) : Out := runT 0x110 f (atomicBody f (fun _ o d => o + d)) s
def execAmin (f : TFields) (s : State) : Out := runT 0x111 f (atomicBody f (minMaxN (unsBit f) false)) s
def execAmax (f : TFields) (s : State) : Out := runT 0x112 f (atomicBody f (minMaxN (unsBit f) true)) s
def execAand (f : TFields) (s : State) : Out := runT 0x113 f (atomicBody f (fun _ o d => o &&& d)) s
def execAor (f : TFields) (s : State) : Out := runT 0x114 f (atomicBody f (fun _ o d => o ||| d)) s
def execAxor (f : TFields) (s : State) : Out := runT 0x115 f (atomicBody f (fun _ o d => o ^^^ d)) s
def execAswap (f : TFields) (s : State) : Out := runT 0x116 f (atomicBody f (fun _ _ d => d)) s
def execAcas (f : TFields) (s : State) : Out :=
  runT 0x117 f (do
    let (x, y) ← readPair f.d
    let n := szBytes (mField f.m 1 0)
    let old ← atomicAt f n (fun old => pure (if old = x.toNat % 2 ^ (8 * n) then y.toNat else old))
    writeNat f.d old) s
def execAinc (f : TFields) (s : State) : Out :=
  runT 0x118 f (do
    let old ← atomicAt f (szBytes (mField f.m 1 0)) (fun old => pure (old + 1))
    writeNat f.d old) s
def execAfadd (f : TFields) (s : State) : Out :=
  runT 0x119 f (do
    let d ← readFV f.d
    let old ← atomicAt f 4 (fun old => roundWith fp32 (rndOf f) (fun m => addF fp32 m (decodeF fp32 old) d))
    writeNat f.d old) s

/-! ### Bindings (07 R150) -/

/-- The bindings of the tenant that a core runs. -/
def State.bindingsOf (s : State) (c : Nat) : List Binding := s.bindings.get [] (tcKey (s.core c).tenant c)
def State.setBindings (s : State) (c : Nat) (l : List Binding) : State :=
  { s with bindings := s.bindings.set [] (tcKey (s.core c).tenant c) l }

def bindBody (f : TFields) : M Unit := do
  let obj ← readNat f.d
  let base ← readNat f.a
  let len ← readNat f.b
  require (obj % 8 == 0) obj
  require (base % 256 == 0) base
  require (len % 256 == 0 && 256 ≤ len && len ≤ 2 ^ 40) len
  let h ← getHart
  let s ← get
  match h with
  | .core c t =>
    if 64 ≤ (s.bindingsOf c).length then trap cBINDING obj
    else set (s.setBindings c (s.bindingsOf c ++ [{ thread := t, obj := obj, base := base, len := len, suspended := false }]))
  | _ => pure ()

def unbindBody (f : TFields) : M Unit := do
  let obj ← readNat f.d
  let base ← readNat f.a
  let h ← getHart
  let s ← get
  match h with
  | .core c t =>
    let hits (b : Binding) : Bool := b.thread == t && b.obj == obj && !b.suspended && (f.a == .none || b.base == base)
    set (s.setBindings c ((s.bindingsOf c).filter (fun b => !hits b)))
  | _ => pure ()

def execBind (f : TFields) (s : State) : Out := runT 0x11A f (bindBody f) s
def execUnbind (f : TFields) (s : State) : Out := runT 0x11B f (unbindBody f) s

/-! ### Acquire and release (07 R151, R152) -/

def acqBody (f : TFields) : M Unit := do
  let va ← memAddr f
  let d ← readNat f.d
  let (loc, pg) ← homeLoc va 8 .read
  let v ← homeRead va 8 loc pg
  if f.d == .none || intCond (mField f.m 3 0) v d then do
    writeNat f.d v
    selfInvalBound va
  else if nbBit f then do
    writeGuardFalse f.g
    writeNat f.d v
  else stop (.wait .waitAcq va 0)

def execAcq (f : TFields) (s : State) : Out := runT 0x11C f (acqBody f) s

def relBody (f : TFields) : M Unit := do
  let va ← memAddr f
  let d ← readNat f.d
  let (loc, pg) ← homeLoc va 8 .atomic
  writeBackBound va
  flushCopy loc
  let old ← homeRead va 8 loc pg
  writeHome va loc pg (bytesOf 8 (old + (if f.d == .none then 1 else d)))

def execRel (f : TFields) (s : State) : Out := runT 0x11D f (relBody f) s

def fenceBody (f : TFields) : M Unit := do
  if ordRel f then fenceRelease (scopeOf f)
  if ordAcq f then fenceAcquire (scopeOf f)

def execFence (f : TFields) (s : State) : Out := runT 0x11E f (fenceBody f) s

def ldaBody (f : TFields) : M Unit := do
  let va ← memAddr f
  let n := szBytes (mField f.m 1 0)
  let (loc, pg) ← homeReadLoc va n
  let v ← homeRead va n loc pg
  writeNat f.d v
  selfInvalBound va
  fenceAcquire (scopeOf f)

def execLda (f : TFields) (s : State) : Out := runT 0x11F f (ldaBody f) s

def strBody (f : TFields) : M Unit := do
  let va ← memAddr f
  let d ← readNat f.d
  let n := szBytes (mField f.m 1 0)
  let (loc, pg) ← homeLoc va n .atomic
  writeBackBound va
  fenceRelease (scopeOf f)
  flushCopy loc
  writeHome va loc pg (bytesOf n d)

def execStr (f : TFields) (s : State) : Out := runT 0x120 f (strBody f) s

/-! ### Waits on a word (07 R153) -/

/-- WAITW. A WAITW.WAKE leaves wait count 1 and the word's value in the hart's recorded wait, and the instruction returns
that value. -/
def waitwBody (f : TFields) (again : Bool) : M Unit := do
  let va ← memAddr f
  let d ← readNat f.d
  let c ← getCtx
  if again && c.waitCnt == 1 then writeNat f.d (c.waitObj.toNat % 2 ^ (8 * szBytes (mField f.m 1 0)))
  else do
    let n := szBytes (mField f.m 1 0)
    let (loc, pg) ← homeLoc va n .read
    let v ← homeRead va n loc pg
    if v ≠ d % 2 ^ (8 * n) then writeNat f.d v else stop (.wait .waitAcq va 0)

def execWaitw (f : TFields) (s : State) : Out := runWait 0x121 f (waitwBody f) s

/-- The place and the size of the word on which a context of tenant `ten` waits in a WAITW. -/
def State.waitPlace (s : State) (h : HartId) (ten : Nat) (c : Ctx) : Option Loc := (s.locate h ten c.waitObj.toNat).2.map (·.1)

/-- Make a waiting context return a value. -/
def Ctx.woken (c : Ctx) (v : Nat) : Ctx :=
  { c with run := .ready, waitObj := BitVec.ofNat 64 v, waitCnt := 1 }

/-- The word of n bytes that a waiter would read at its home. -/
def State.homeValue (s : State) (loc : Loc) (n : Nat) : Nat :=
  match loc with
  | .dev pa => s.homeNat pa n
  | .scr key off => ofBytes (s.scrBytes key off n)
  | .ln _ _ => 0

/-- Every thread and engine hart of the package that waits in WAITW on the word at `loc` returns with its value (07 R153). -/
def State.wakeWord (s : State) (loc : Loc) : State :=
  let here (h : HartId) (ten : Nat) (c : Ctx) : Bool := c.run == .waitAcq && c.waitCnt == 0 && s.waitPlace h ten c == some loc
  let threads := s.threads.map (fun e =>
    let h := HartId.core (e.1 / 16 % 1024) (e.1 % 16)
    match e.2.waiting with
    | some (0x121, f) =>
      if here h (e.1 / 16 / 1024) e.2.ctx then
        (e.1, { e.2 with ctx := e.2.ctx.woken (s.homeValue loc (szBytes (mField f.m 1 0))), stamp := s.now (e.1 / 16 % 1024) })
      else e
    | _ => e)
  let images := threads.filterMap (fun e =>
    if (s.threads.get Thread.zero e.1).ctx.run == e.2.ctx.run then none
    else (s.imageWrite (e.1 / 16 / 1024) (e.1 / 16 % 1024) (e.1 % 16) e.2).map (fun w => (e.1 / 16 % 1024, w)))
  let s := images.foldl (fun s w => s.homeWrite (coreAgent w.1) w.2.1 w.2.2) { s with threads := threads }
  let engines := s.octets.map (fun e =>
    let fix (mk : Nat → HartId) (m : SMap Ctx) : SMap Ctx := m.map (fun x =>
      if here (mk x.1) (s.tenOf (mk x.1)) x.2 then (x.1, x.2.woken (s.homeValue loc 8)) else x)
    (e.1, { e.2 with meCtx := fix (HartId.me e.1) e.2.meCtx, cuCtx := fix (HartId.cu e.1) e.2.cuCtx }))
  { s with octets := engines }

def waitwWakeBody (f : TFields) : M Unit := do
  let va ← memAddr f
  let n := szBytes (mField f.m 1 0)
  let (loc, _) ← homeLoc va n .read
  modify (fun s => s.wakeWord loc)

def execWaitwWake (f : TFields) (s : State) : Out := runT 0x121 f (waitwWakeBody f) s

/-! ### Scratchpad pins (07 R154) -/

/-- The page key of an address in a window of the issuing core's cluster, or PAGE_FAULT. -/
def pinPage (f : TFields) : M (Nat × Nat) := do
  let va ← memAddr f
  let h ← getHart
  let ten ← getTen
  let s ← get
  let base := s.windowBase ten
  if base ≤ va ∧ va < base + 48 * 0x40000 then
    pure (va, (tcKey ten (clusterOf h * 48 + (va - base) / 0x40000)) * 64 + (va - base) % 0x40000 / 4096)
  else stop (.page va .read)

/-- The pages of a core, of whatever tenant, that a test selects. -/
def pagesOn {α : Type} (m : SMap α) (core : Nat) (p : α → Bool) : List Nat :=
  (m.filter (fun e => e.1 / 64 % 1024 == core && p e.2)).map (·.1)

/-- Bring a page into a frame; a full core first moves an unpinned page to its backing, which one is open. -/
def State.bringIn (s : State) (key : Nat) : State :=
  let core := key / 64 % 1024
  let rs := pagesOn s.resident core id
  let s : State := if 64 ≤ rs.length then
      let free := rs.filter (fun k => s.pins.get 0 k == 0)
      let victim := free.getD (Config.freeNat s.freeCtr % free.length) 0
      { s with resident := s.resident.set false victim false, freeCtr := s.freeCtr + 1 }.countCore core 29 1
    else s
  { s with resident := s.resident.set false key true }

def pinspBody (f : TFields) : M Unit := do
  let (va, key) ← pinPage f
  let s ← get
  let core := key / 64 % 1024
  if !s.resident.get false key && 64 ≤ (pagesOn s.pins core (fun n => n != 0)).length then
    (if nbBit f then stop .report else trap cPIN_LIMIT va)
  else do
    let s : State := if s.resident.get false key then s else s.bringIn key
    set { s with pins := s.pins.set 0 key (min 255 (s.pins.get 0 key + 1)) }
    writePredBool f.d true

def execPinsp (f : TFields) (s : State) : Out := runT 0x122 f (pinspBody f) s
def execUnpinsp (f : TFields) (s : State) : Out :=
  runT 0x123 f (do
    let (_, key) ← pinPage f
    modify (fun s => { s with pins := s.pins.set 0 key (s.pins.get 0 key - 1) })) s

end Sys2Proof.Machine
end

