-- ==== Sys2Proof/Machine/Tasks.lean ====
section
/-! DEFINITION. Group F: tasks, joins, packets, channels, jobs, sleep (07 R156 to R162). -/

namespace Sys2Proof.Machine

/-! ### Continuations (07 R156) -/

/-- The launch's domain, its root policy: package, and KILL_SELF with budget 0, in the boot context (07 R156, 17 R327). -/
def State.launchDom (s : State) (l : Option Nat) : Nat := match s.launchOf l with | some x => x.dom | none => 4
def State.rootPolicy (s : State) (l : Option Nat) : Nat := match s.launchOf l with | some x => x.policy.toNat | none => 2

/-- The policy and budget that PLC and BUD select; PLC 0 takes `parent`. -/
def polBud (plc bud parent : Nat) : Nat × Nat := if plc = 0 then (parent % 4, parent / 4) else (plc - 1, bud)

/-- The class that CLS selects: 1 high, 2 low, else the parent's. -/
def classOf (cls : Nat) (parent : Bool) : Bool := if cls = 0 then parent else cls == 2

/-- The record that SPAWN or SPAWNR pushes. -/
def spawnRecord (f : LFields) (code : Word) (l : Option Nat) (s : State) (c : Ctx) (a b : Word) (range : Bool) : Record :=
  let dom := mField f.m 9 7
  let (pol, bud) := polBud (mField f.m 2 0) (mField f.m 4 3) c.policy.toNat
  { code := code, frame := if range then c.frame else a, joinc := if range then c.joinc else b,
    lo := if range then a else 0, hi := if range then b else 0,
    grain := if range then BitVec.ofNat 64 (2 ^ mField f.m 13 10) else 0, parent := c.frame,
    dom := if dom = 0 then s.launchDom l else dom, low := classOf (mField f.m 6 5) c.low, range := range, bud := bud,
    pol := pol, launch := l, addr := 0 }

/-- The address of the inline image of a thread of a tenant's context (07 R156, 14 R278). -/
def State.inlineAt (s : State) (ten c t : Nat) : Nat := s.saveArea ten c + 0x40000 + 0x4000 * t

/-- The parent's unit is suspended whole in the inline slot, its image lines are written to the inline image, and the child
record starts in place (07 R156). The boot context has no save area. -/
def State.runInline (s : State) (c t : Nat) (r : Record) : State :=
  let x := s.thread c t
  let ten := (s.core c).tenant
  let s := if ten = 16 then s else s.homeWrite (coreAgent c) (s.inlineAt ten c t) x.ctx.image
  let s := s.setThread c t { Thread.zero with inl := some { ctx := x.ctx, start := x.start, ctr := x.ctr }, stamp := x.stamp }
  let s := s.setBindings c ((s.bindingsOf c).map (fun b => if b.thread = t then { b with suspended := true } else b))
  s.startUnit c t (.record r r.lo r.hi) x.launch

def spawnBody (f : LFields) (code : Word) (range : Bool) : M Unit := do
  let (a, b) ← readPair f.d
  let h ← getHart
  let ctx ← getCtx
  let s ← get
  match h with
  | .core c t => do
    let l := (s.thread c t).launch
    require (mField f.m 9 7 ≤ s.launchDom l) 0
    if range && b.toNat ≤ a.toNat then pure ()
    else do
      let r := spawnRecord f code l s ctx a b range
      if s.dequeHeld (s.core c).tenant c then stop (.wait .waitChannel 256 0)
      else if s.dequeFull c then
        (if (s.thread c t).inl.isSome then stop (.wait .waitChannel 256 0) else set (s.runInline c t r))
      else set (((s.pushBottom c r).countThread c t 14 1).feed c)
  | _ => pure ()

def execSpawn (f : LFields) (s : State) : Out := runL 0x140 f (spawnBody f (targetOf s.pcNow f.imm) false) s
def execSpawnr (f : LFields) (s : State) : Out := runL 0x141 f (spawnBody f (targetOf s.pcNow f.imm) true) s

/-! ### Joins (07 R157) -/

/-- The unit ends by a JOIN, and the join block's continuation starts on the thread. -/
def State.continueJoin (s : State) (c t : Nat) (b : JoinBlock) (lastPc : Nat) : State :=
  let th := s.thread c t
  let s := s.trace th.launch (s.core c).tenant c t 3 [1] (bytesOf 6 lastPc)
  (s.endUnit c t).startUnit c t
    (.join (BitVec.ofNat 64 b.pc) (BitVec.ofNat 64 b.frame) (BitVec.ofNat 64 b.joinc) b.pol b.bud th.ctx.low) th.launch

def joinBody (f : TFields) (lastPc : Nat) : M Unit := do
  let x ← readNat f.a
  let ctx ← getCtx
  let h ← getHart
  let va := if f.a == .none then ctx.joinc.toNat else x
  match h with
  | .core c t =>
    if va = 0 then do
      fenceRelease (scopeOf f)
      modify (fun s => s.exitUnit c t 2 lastPc)
    else do
      let s ← get
      let (s, r) := s.joinCheck h (s.core c).tenant va
      set s
      match r with
      | .post => stop (.page va .atomic)
      | .bad k => trap k va
      | .ok pa => do
        fenceRelease (scopeOf f)
        modify (fun s => s.flushBlock c pa 32)
        let s ← get
        let b := s.joinBlock pa
        if s.joinPoisoned pa then stop (.trapAfter s cPOISON va)
        else if b.count = 0 then stop (.trapAfter s cJOIN_COUNT va)
        else do
          set (s.homeWriteNat (coreAgent c) pa 4 (b.count - 1))
          if b.count = 1 then do
            fenceAcquire (scopeOf f)
            modify (fun s => s.continueJoin c t b lastPc)
          else modify (fun s => s.exitUnit c t 2 lastPc)
  | _ => pure ()

def execJoin (f : TFields) (s : State) : Out := runT 0x142 f (joinBody f s.pcNow) s

/-! ### Packets (07 R158) -/

/-- The core that a packet is for; none where its position cannot take it. -/
def State.destCore (s : State) (pk : Packet) : Option Nat :=
  if pk.phys then
    if !s.good.get false pk.dst then none
    else match s.coreAt pk.dst with
      | some c => if s.mapped && 960 ≤ c then none else some c
      | none => none
  else some pk.dst

/-- Credit for the message spill queue of a tenant on a core: packets held and in flight stay below 1,024. -/
def State.credit (s : State) (ten c : Nat) : Bool :=
  (s.msgs.get [] (tcKey ten c)).length + (s.net.filter (fun p => p.ten == ten && s.destCore p == some c)).length < 1024

/-- The destination word is well formed; none of its zero fields is set. -/
def destOk (d : Nat) (multi phys : Bool) : Bool :=
  d / 2 ^ 54 == 0 && bitsOf d 47 42 == 0 && bitsOf d 31 22 == 0 && bitsOf d 15 10 == 0 && (multi || bitsOf d 41 32 == 0)
    && (phys || bitsOf d 9 0 < 960) && (!multi || bitsOf d 9 0 ≤ bitsOf d 41 32)

/-- A packet leaves the core: into the network, or discarded by the router of a position that cannot take it. -/
def State.sendPacket (s : State) (c : Nat) (pk : Packet) : State :=
  let x := s.core c
  let s := s.setCore c { x with sent := x.sent + 1 }
  if (s.destCore pk).isNone then s.discard pk.ten c else { s with net := s.net ++ [pk] }

/-- Send a payload to the cores of a destination word. -/
def sendBody (f : TFields) (multi : Bool) (payload : M (List Byte)) : M Unit := do
  let dw ← readNat f.d
  let h ← getHart
  let s ← get
  let phys := f.m.getLsbD 0
  if phys && s.tenantMode h then trap cPRIVILEGE 0
  require (destOk dw multi phys && (phys || s.mapped)) dw
  let pkg := bitsOf dw 53 48
  require (!multi || pkg == s.pkg) dw
  let bs ← payload
  match h with
  | .core c t => do
    let lo := bitsOf dw 9 0
    let hi := if multi then bitsOf dw 41 32 else lo
    let src := s.cidOf c
    let all := ((List.range (hi + 1 - lo)).map (fun i => lo + i)).filter (fun d => phys || d < 960)
    let sent := ((s.thread c t).ctr.get 0 15).toNat
    let pks := all.zipIdx.map (fun e => Packet.mk (s.core c).tenant src t e.1 (bitsOf dw 21 16) phys bs (s.thread c t).launch false (sent + 1 + e.2))
    if pkg ≠ s.pkg then do
      if s.unreachable pkg then trap cHW_ERROR 0
      if ordRel f then fenceRelease (scopeOf f)
      modify (fun s => (s.setCore c { s.core c with sent := (s.core c).sent + 1 }).countThread c t 15 1)
    else if pks.all (fun p => match s.destCore p with | some k => s.credit p.ten k | none => true) then do
      if ordRel f then fenceRelease (scopeOf f)
      modify (fun s => (pks.foldl (fun s p => s.sendPacket c p) s).countThread c t 15 pks.length)
    else if nbBit f then stop .report
    else stop (.wait .waitChannel 256 0)
  | _ => pure ()

/-- The first bytes of a vector, as many as B says: 1 to 256. -/
def vecPayload (f : TFields) : M (List Byte) := do
  let v ← readVecOp f.a
  let n ← readNat f.b
  require (1 ≤ n && n ≤ 256) n
  pure (bytesOf n v)

def scalarPayload (f : TFields) : M (List Byte) :=
  match f.a with
  | .w _ => do
    let (a, b) ← readPair f.a
    pure (bytesOf 8 a.toNat ++ bytesOf 8 b.toNat)
  | _ => do
    let a ← readNat f.a
    pure (bytesOf 8 a)

def execSend (f : TFields) (s : State) : Out := runT 0x143 f (sendBody f false (scalarPayload f)) s
def execSendv (f : TFields) (s : State) : Out := runT 0x144 f (sendBody f false (vecPayload f)) s
def execMcast (f : TFields) (s : State) : Out := runT 0x145 f (sendBody f true (vecPayload f)) s

/-! ### Tags (07 R159) -/

def State.setTag (s : State) (c i : Nat) (x : Tag) : State :=
  { s with tags := s.tags.set Tag.zero (tcKey (s.core c).tenant c * 64 + i) x }

def bindtagBody (f : TFields) : M Unit := do
  let tag ← readNat f.a
  require (tag < 64) tag
  let h ← getHart
  let ctx ← getCtx
  match h with
  | .core c t =>
    if f.m.getLsbD 0 then
      (match f.d with
      | .h n _ => do
        let e ← handleEntry n.toNat
        modify (fun s => (s.setTag c tag { Tag.zero with v := true, deposit := true, target := BitVec.ofNat 64 e }).feed c)
      | _ => pure ())
    else do
      let pc ← readNat f.b
      let s ← get
      let (pol, bud) := polBud (mField f.m 3 1) (mField f.m 5 4) (s.rootPolicy (s.thread c t).launch)
      set ((s.setTag c tag { v := true, deposit := false, pol := pol, bud := bud, low := classOf (mField f.m 7 6) ctx.low,
                             target := BitVec.ofNat 64 (pc % 2 ^ 48) }).feed c)
  | _ => pure ()

def execBindtag (f : TFields) (s : State) : Out := runT 0x146 f (bindtagBody f) s
def execUnbindtag (f : TFields) (s : State) : Out :=
  runT 0x147 f (do
    let tag ← readNat f.a
    require (tag < 64) tag
    let h ← getHart
    match h with
    | .core c _ => modify (fun s => (s.setTag c tag Tag.zero).feed c)
    | _ => pure ()) s

/-! ### Channels (07 R160, R161) -/

/-- The handle number of a field. -/
def handleNum : Operand → Nat
  | .h n _ => n.toNat
  | _ => 0

/-- Set or clear an entry of the thread's handle map. -/
def mapHandle (n : Nat) (e : Option Nat) : M Unit := modCtx (fun c => { c with handles := c.handles.set none n e })

/-- Run a channel instruction's part on the issuing core. -/
def onCore (k : Nat → Nat → M Unit) : M Unit := do
  let h ← getHart
  match h with
  | .core c t => k c t
  | _ => pure ()

def execHcfgBind (f : TFields) (s : State) : Out :=
  runT 0x148 f (do
    let e ← readNat f.a
    onCore (fun c _ => do
      let s ← get
      require (e < 64 && (s.chan c e).v && (s.chan c e).ten == (s.core c).tenant % 16) e
      mapHandle (handleNum f.d) (some e))) s

/-- The geometry word is well formed: a slot of 2^4 to 2^12 bytes, 2 to 2^12 slots, at most 128 KiB. -/
def geometryOk (g : Nat) : Bool :=
  g < 2 ^ 12 && bitsOf g 7 4 == 0 && 4 ≤ g % 16 && g % 16 ≤ 12 && 1 ≤ bitsOf g 11 8 && bitsOf g 11 8 ≤ 12
    && g % 16 + bitsOf g 11 8 ≤ 17

def execHcfgNew (f : TFields) (s : State) : Out :=
  runT 0x148 f (do
    let base ← readNat f.a
    let g ← readNat f.b
    onCore (fun c _ => do
      let s ← get
      let w := s.windowBase (s.core c).tenant + c % 48 * 0x40000
      require (w ≤ base && base < w + 0x40000) base
      require (geometryOk g) g
      let total := 2 ^ (g % 16 + bitsOf g 11 8)
      require (base % total == 0 && base + total ≤ w + 0x40000) base
      let free := (List.range 64).filter (fun e => !(s.chan c e).v)
      if free.isEmpty then trap cQUEUE_FULL (handleNum f.d)
      else do
        let e ← pickFrom free
        modify (fun s => s.setChan c e { v := true, ten := (s.core c).tenant % 16, lcnt := bitsOf g 11 8, lsz := g % 16,
                                          base := base - w, wp := 0, rp := 0, clm := 0 })
        mapHandle (handleNum f.d) (some e))) s

def execHcfgUnbind (f : TFields) (s : State) : Out := runT 0x148 f (mapHandle (handleNum f.d) none) s

/-- A context without the handles that name an entry. -/
def Ctx.dropEntry (c : Ctx) (e : Nat) : Ctx := { c with handles := c.handles.filter (fun m => m.2 != some e) }

/-- A claim on a freed channel resolves its symbol, where that is still the claim's, to poison (07 R160, 11 R240). -/
def State.poisonClaim (s : State) (c e first : Nat) (i : Nat × Nat) : State :=
  match s.sym c i.1 with
  | some y => if y.src = Source.slots e first i.2 ∧ y.ten = (s.core c).tenant then s.poisonSym c i.1 cHANDLE else s
  | none => s

/-- A descriptor is freed: its claims poison, waiting threads trap with HANDLE, the handles that name it are unbound, and
deposits for it are discarded (07 R160). -/
def State.freeChan (s : State) (c e : Nat) : State :=
  let waiters := (List.range 16).filterMap (fun t =>
    let x := s.thread c t
    if x.ctx.run = .waitChannel ∧ x.ctx.handles.get none x.ctx.waitObj.toNat = some e then some (t, x.ctx.waitObj.toNat, x.waiting)
    else none)
  let s := ((s.claimsOf c e).foldl (fun (r : State × Nat) i => (r.1.poisonClaim c e r.2 i, (r.2 + i.2) % 2 ^ 32))
    (s, (s.chan c e).rp.toNat)).1
  let s := (s.setClaims c e []).setChan c e Chan.zero
  let s := (List.range 16).foldl (fun s t =>
    let x := s.thread c t
    s.setThread c t { x with ctx := x.ctx.dropEntry e, inl := x.inl.map (fun p => { p with ctx := p.ctx.dropEntry e }) }) s
  let s := waiters.foldl (fun s w =>
    match w.2.2 with
    | some (op, f) => s.takeTrap (.core c w.1) cHANDLE w.2.1 .plain (ignorableOf op cHANDLE) (destsOf op f)
    | none => s) s
  s.feed c

def execHcfgFree (f : TFields) (s : State) : Out :=
  runT 0x148 f (do
    let ctx ← getCtx
    onCore (fun c _ => match ctx.handles.get none (handleNum f.d) with
      | some e => modify (fun s => s.freeChan c e)
      | none => pure ())) s

/-- A pointer advance of HADV or HADVW: the number of slots, the wait, then the advance. -/
def advanceBody (f : TFields) (ready : State → Nat → Nat → Chan → Nat → Bool) (go : State → Nat → Nat → Chan → Nat → State) : M Unit := do
  let (e, x) ← chanOf (handleNum f.d)
  let k ← readNat f.a
  require (k ≤ x.slots) k
  if k = 0 then pure ()
  else onCore (fun c _ => do
    let s ← get
    if ready s c e x k then set (((go s c e x k).wakeChan c e).feed c)
    else if nbBit f then stop .report
    else stop (.wait .waitChannel (handleNum f.d) k))

def execHadv (f : TFields) (s : State) : Out :=
  runT 0x149 f (advanceBody f (fun s c e x k => k ≤ x.filled && (s.claimsOf c e).isEmpty)
    (fun s c e x k => s.setChan c e { x with rp := x.rp + BitVec.ofNat 32 k, clm := x.rp + BitVec.ofNat 32 k })) s
def execHadvw (f : TFields) (s : State) : Out :=
  runT 0x14A f (advanceBody f (fun _ _ _ x k => k ≤ x.empty)
    (fun s c e x k => (s.setChan c e { x with wp := x.wp + BitVec.ofNat 32 k }).resolveClaims c e ((s.claimsOf c e).length + 1))) s
def execHq (f : TFields) (s : State) : Out :=
  runT 0x14B f (do
    let (e, x) ← chanOf (handleNum f.a)
    writeNat f.d (x.filled + x.empty * 2 ^ 16 + e * 2 ^ 32 + x.lsz * 2 ^ 40 + x.lcnt * 2 ^ 48)) s

/-! ### Containment, jobs and sleep (07 R162) -/

def execPolicy (f : TFields) (s : State) : Out :=
  runT 0x14C f (do
    let x ← readNat f.a
    require (x < 16) x
    modCtx (fun c => { c with policy := BitVec.ofNat 4 x })) s
def execRaise (f : TFields) (s : State) : Out :=
  runT 0x14D f (do
    let x ← readNat f.a
    stop (.raise x)) s

/-- The state and cause of a job of a core; 3 where it is unknown. -/
def State.jobState (s : State) (c id : Nat) : Nat × Nat :=
  match (s.core c).jobs.find? (fun r => r.id == id) with
  | some r => (r.state, r.cause)
  | none => (3, 0)

/-- The job status word. -/
def State.jobStatus (s : State) (c id : Nat) : Nat :=
  let (st, cause) := s.jobState c id
  id * 2 ^ 16 + cause * 2 ^ 8 + st

/-- Write a job's status word; with `acq` an observed end acquires at DIE scope (10 R226). -/
def writeJob (f : TFields) (acq : Bool) (c id : Nat) : M Unit := do
  let s ← get
  writeNat f.d (s.jobStatus c id)
  if acq && (s.jobState c id).1 == 2 then fenceAcquire 3

def execWaitj (f : TFields) (s : State) : Out :=
  runT 0x14E f (do
    let x ← readNat f.a
    let id := x % 2 ^ 16
    onCore (fun c _ => do
      let s ← get
      if (s.jobState c id).1 < 2 then stop (.wait .waitJob id 0) else writeJob f true c id)) s
def execJobq (f : TFields) (s : State) : Out :=
  runT 0x14F f (do
    let x ← readNat f.a
    onCore (fun c _ => writeJob f false c (x % 2 ^ 16))) s

def sleepBody (f : TFields) (again : Bool) : M Unit := do
  let x ← readNat f.a
  let c ← getCtx
  let s ← get
  let d := if again then c.waitObj.toNat else if x = 0 then 2 ^ 64 - 1 else s.deadline x
  if c.wake then do
    modCtx (fun c => { c with wake := false })
    writePredBool f.d true
  else if d < 2 ^ 64 - 1 ∧ d ≤ s.timeNow then writePredBool f.d false
  else stop (.wait .waitTime d 1)

def execSleep (f : TFields) (s : State) : Out := runWait 0x150 f (sleepBody f) s

/-- Set the wake bit of a thread that runs a unit of a tenant; a sleeping one is ready where its tenant runs. -/
def State.wakeThread (s : State) (ten c t : Nat) : State :=
  let k := thKey ten c t
  let x := s.threads.get Thread.zero k
  if x.ctx.run = .free then s
  else
    let sleeps := x.ctx.run = .waitTime ∧ x.ctx.waitCnt = 1 ∧ (s.core c).tenant = ten
    let y : Thread := { x with ctx := { x.ctx with wake := true, run := if sleeps then .ready else x.ctx.run },
                               stamp := if sleeps then s.now c else x.stamp }
    { s with threads := s.threads.set Thread.zero k y }.syncImage ten c t y

def execWake (f : TFields) (s : State) : Out :=
  runT 0x151 f (do
    let x ← readNat f.a
    require (x < 2 ^ 20 && bitsOf x 15 10 == 0 && x % 1024 < 960) x
    let ten ← getTen
    modify (fun s => s.wakeThread ten (x % 1024) (x / 2 ^ 16))) s

end Sys2Proof.Machine
end

