-- ==== Sys2Proof/Machine/Symbols.lean ====
section
/-! DEFINITION. Group G: late-value instructions (07 R163; 11 R233 to R240). -/

namespace Sys2Proof.Machine

/-- The late entry of an operand's register, poisoned or not. -/
def lateEntry (o : Operand) : M (Option Late) := do
  let c ← getCtx
  match operandKey o with
  | some k => pure (c.late.get none k)
  | none => pure none

def execSymq (f : TFields) (s : State) : Out :=
  runT 0x160 f (do
    let l ← lateEntry f.a
    writePredBool f.d l.isSome) s
def execSymwait (f : TFields) (s : State) : Out :=
  runT 0x161 f (do
    let c ← getCtx
    match f.a with
    | .none => (match c.late.find? (fun e => e.2.isSome) with
      | some e => needPresent e.1
      | none => pure ())
    | o => needPresent ((operandKey o).getD 0)) s
def execSymid (f : TFields) (s : State) : Out :=
  runT 0x162 f (do
    let l ← lateEntry f.a
    writeOp f.d (match l with | some l => BitVec.ofNat 64 l.sym | none => BitVec.allOnes 64)) s
def execSymdrop (f : TFields) (s : State) : Out :=
  runT 0x163 f (match f.a with
    | .s n => writeS n.toNat 0
    | .v n => writeV n.toNat 0
    | _ => pure ()) s

def joblBody (f : TFields) : M Unit := do
  let x ← readNat f.a
  let id := x % 2 ^ 16
  onCore (fun c _ => do
    let s ← get
    if (s.jobState c id).1 < 2 then do
      let i ← allocSym false (.job id) 0
      bindLate (destKey f.d) i
    else writeJob f true c id)

def execJobl (f : TFields) (s : State) : Out := runT 0x164 f (joblBody f) s

/-- RCVL takes the next k slots at once where they are filled and no earlier claim is outstanding, and else claims the next
k unclaimed slots (07 R163, 11 R234). -/
def rcvlBody (f : TFields) : M Unit := do
  let (e, x) ← chanOf (handleNum f.a)
  let vec := match f.d with | .v _ => true | _ => false
  let k := x.spanSlots
  onCore (fun c _ => do
    let s ← get
    let first := if (s.claimsOf c e).isEmpty then x.rp else x.clm
    if (s.claimsOf c e).isEmpty && k ≤ x.filled then do
      let bs := s.slotBytes c e k
      (if vec then putVec f.d (ofBytes bs) else writeNat f.d (ofBytes (bs.take 8)))
      modify (fun s => ((s.setChan c e { x with rp := x.rp + BitVec.ofNat 32 k, clm := x.rp + BitVec.ofNat 32 k }).wakeChan c e).drainDeposits c)
    else do
      let i ← allocSym vec (.slots e first.toNat k) 0
      bindLate (destKey f.d) i
      modify (fun s => (s.setChan c e { x with clm := first + BitVec.ofNat 32 k }).setClaims c e (s.claimsOf c e ++ [(i, k)])))

def execRcvl (f : TFields) (s : State) : Out := runT 0x165 f (rcvlBody f) s
def execSymlim (f : TFields) (s : State) : Out :=
  runT 0x166 f (do
    let x ← readNat f.a
    require (x < 256) x
    modCtx (fun c => { c with quota := BitVec.ofNat 8 x })) s

/-- SYMPEEK of a late register reports, but a poisoned symbol traps. -/
def sympeekBody (f : TFields) : M Unit := do
  let l ← lateEntry f.a
  let h ← getHart
  let s ← get
  match l with
  | some l => (match s.poisonOf h l with
    | some k => trap cSYMBOL_LOST (l.sym + 256 * k)
    | none => stop .report)
  | none => (match f.a with
    | .v n => do
      let v ← readV n.toNat
      writeNat f.d (v.toNat % 2 ^ 64)
    | o => do
      let x ← readOp o
      writeOp f.d x)

def execSympeek (f : TFields) (s : State) : Out := runT 0x167 f (sympeekBody f) s

end Sys2Proof.Machine
end

