-- ==== Sys2Proof/Machine/Lineage.lean ====
section
/-! DEFINITION. Group H: lineage instructions, and the copy unit jobs that three of them run (08 R166 to R172, 13 R262 to
R273). -/

namespace Sys2Proof.Machine

/-! ### Nodes -/

/-- A node operand resolves to a descriptor, or raises NODE_INVALID (08 R167). -/
def nodeOf (x : Nat) : M Nat := do
  let ten ← getTen
  let s ← get
  if 2 ^ 24 ≤ x || s.nodeInvalid ten x then trap cNODE_INVALID x
  pure x

/-- An instruction that names or changes a node that a lineage job holds waits until the job ends (13 R271). -/
def waitNodes (ns : List Nat) : M Unit := do
  let ten ← getTen
  let s ← get
  match ns.find? (fun n => n != 0 && (s.node ten n).job != 0) with
  | some n => stop (.wait .waitJob n 0)
  | none => pure ()

/-- Change a node's descriptor. -/
def State.modNode (s : State) (ten n : Nat) (f : Node → Node) : State := s.setNode ten n (f (s.node ten n))

/-- Free(n): the node is FREE and keeps its version; its granules return to the pool (08 R168). -/
def State.freeNode (s : State) (ten n : Nat) : State :=
  let x := s.node ten n
  s.setNode ten n { state := 0, depth := 0, geom := 0, fmt := 0, parent := 0, kids := 0, version := x.version, count := 0,
                    lines := 0, mapg := 0, owned := 0, job := 0 }

/-- ReleaseParent; the fuel bounds the depth (08 R168). -/
def State.releaseParent (s : State) (ten : Nat) : Nat → Nat → State
  | 0, _ => s
  | fuel + 1, n =>
    if n = 0 then s
    else
      let x := s.node ten n
      let s := s.setNode ten n { x with kids := x.kids - 1, state := if x.kids = 1 ∧ x.state = 2 then 1 else x.state }
      if x.kids = 1 ∧ x.state = 3 then (s.freeNode ten n).releaseParent ten fuel x.parent else s

/-- A node gains a child: it is FROZEN, and one that is RETIRED stays so (13 R269). -/
def State.adopt (s : State) (ten n : Nat) : State :=
  s.modNode ten n (fun x => { x with kids := x.kids + 1, state := if x.state = 3 then 3 else 2 })

/-- Search for a FREE id from n, wrapping, that no job has taken. -/
def State.findNode (s : State) (ten cap : Nat) : Nat → Nat → Option Nat
  | 0, _ => none
  | fuel + 1, n =>
    if n ≠ 0 ∧ (s.node ten n).state = 0 ∧ (s.lnJobs.any (fun j => j.ten == ten && j.kind == 1 && j.other == n && j.ended.isNone)) = false
    then some n else s.findNode ten cap fuel ((n + 1) % cap)

/-- A FREE id of the tenant; which one is open. -/
def State.freeId (s : State) (ten : Nat) : Option Nat :=
  let cap := s.nodeCap ten
  s.findNode ten cap (min cap ((s.knownNodes ten).length + s.lnJobs.length + 2)) (Config.freeNat s.freeCtr % cap)

/-- Take granules for requests of (count, alignment), one after another. -/
def State.reserve (s : State) (ten : Nat) : List (Nat × Nat) → List Nat → Option (State × List Nat)
  | [], _ => some (s, [])
  | (k, step) :: r, used =>
    match s.takeGranules ten k step used with
    | none => none
    | some (s, g) =>
      let gs := (List.range k).map (g + ·)
      match s.reserve ten r (used ++ gs) with
      | none => none
      | some (s, rest) => some (s, gs ++ rest)

/-- Bytes of the pool written from a granule on, by the hart that moves (10 R218). -/
def State.setGranule (s : State) (ten g : Nat) (bs : List Byte) : State := s.homeWrite (agentOf s.hart) (s.granAddr ten g) bs

/-- Create node c as a child of `parent` with the shape of p and every line inherited; its map takes granule mapg. The
version is one above the kept one, and a wrap drops its tags (08 R168, 13 R272). -/
def State.createNode (s : State) (ten c parent depth mapg : Nat) (p : Node) : State :=
  let v := ((s.node ten c).version + 1) % 2 ^ 32
  let s := s.setGranule ten mapg (List.replicate (256 * mapGranules p.lines) 0)
  let s := s.setNode ten c { state := 1, depth := depth, geom := p.geom, fmt := p.fmt, parent := parent, kids := 0, version := v,
                             count := p.count, lines := p.lines, mapg := mapg, owned := 0, job := 0 }
  if v = 0 then s.dropTags ten c else s

/-! ### Jobs (13 R271, R273) -/

/-- The job that a waiting hart issued. -/
def State.lnJobOf (s : State) (cnt : Nat) : Option LnJob := s.lnJobs.find? (fun j => j.serial + 1 == cnt)

/-- Mark the nodes that a job holds. -/
def State.holdNodes (s : State) (ten kind : Nat) (ns : List Nat) : State :=
  ns.foldl (fun s n => if n = 0 then s else s.modNode ten n (fun x => { x with job := kind })) s

/-- Issue a copy unit job: its granules are reserved and its nodes held, and the thread waits in WAIT_JOB. -/
def issueJob (kind node other : Nat) (thresh : BitVec 32) (held : List Nat) (reqs : List (Nat × Nat)) (val : Nat) : M Unit := do
  let ten ← getTen
  let s ← get
  match s.hart with
  | .core c t =>
    match s.reserve ten reqs (s.usedGranules ten) with
    | none => trap cNODE_EXHAUSTED val
    | some (s, kept) =>
      let serial := s.freeCtr
      let job : LnJob := { kind := kind, ten := ten, octet := octetOfCore c, node := node, other := other, thread := t, core := c,
                           thresh := thresh, serial := serial, held := held, kept := kept, ended := none }
      let s : State := { s with freeCtr := serial + 1, lnJobs := s.lnJobs ++ [job] }
      stop (.waitAfter (s.holdNodes ten kind held) .waitJob node (serial + 1))
  | _ => pure ()

/-- Run a lineage instruction that may run a job: a hart whose own job has ended takes its result, one whose job runs
waits on, and any other runs the instruction. -/
def withJob (again : Bool) (result : Nat → M Unit) (fresh : M Unit) : M Unit := do
  let c ← getCtx
  let s ← get
  match (if again then s.lnJobOf c.waitCnt.toNat else none) with
  | some j =>
    match j.ended with
    | none => stop (.wait .waitJob j.node (j.serial + 1))
    | some (cause, r) => do
      set { s with lnJobs := s.lnJobs.filter (fun k => k.serial != j.serial) }
      if cause ≠ 0 then do
        let s ← get
        stop (.trapAfter s cause 0)
      else result r
  | none => fresh

/-! ### LNFORK (08 R168) -/

/-- The depth-0 ancestor of a node. -/
def State.rootOf (s : State) (ten : Nat) : Nat → Nat → Nat
  | 0, n => n
  | fuel + 1, n => if (s.node ten n).depth = 0 then n else s.rootOf ten fuel (s.node ten n).parent

def forkBody (f : TFields) (x : Nat) : M Unit := do
  let ten ← getTen
  let a ← nodeOf x
  waitNodes [a]
  let s ← get
  let p := s.node ten a
  if p.state = 3 then trap cNODE_RETIRED x
  if p.depth = 7 then trap cLINEAGE_DEPTH x
  match s.freeId ten with
  | none => trap cNODE_EXHAUSTED x
  | some c =>
    match s.reserve ten [(mapGranules p.lines, 1)] (s.usedGranules ten) with
    | none => trap cNODE_EXHAUSTED x
    | some (s, gs) => do
      let s : State := { s with freeCtr := s.freeCtr + 1 }
      set ((s.createNode ten c a (p.depth + 1) (gs.headD 0) p).adopt ten a)
      writeNat f.d c

def execLnfork (f : TFields) (s : State) : Out :=
  runT 0x170 f (do
    let x ← readNat f.a
    forkBody f x) s

def forkAfBody (f : TFields) (again : Bool) : M Unit := do
  let x ← readNat f.a
  withJob again (fun r => writeNat f.d r) (do
    let ten ← getTen
    let a ← nodeOf x
    waitNodes [a]
    let s ← get
    let p := s.node ten a
    if p.depth < 7 then forkBody f x
    else do
      let r := s.rootOf ten 8 a
      waitNodes [r]
      if (s.node ten r).state = 3 then trap cNODE_RETIRED r
      match s.freeId ten with
      | none => trap cNODE_EXHAUSTED x
      | some c =>
        set { s with freeCtr := s.freeCtr + 1 }
        issueJob 1 a c 0 [a] ((mapGranules p.lines, 1) :: List.replicate p.lines (1, 1)) x)

def execLnforkAf (f : TFields) (s : State) : Out := runWait 0x171 f (forkAfBody f) s

/-! ### LNPATCH (08 R168) -/

/-- Set one element of a line of node n: none where the pool has no granule. The words that hold other elements stay as
they are (19 R355). -/
def State.patchElem (s : State) (ten n l e q v : Nat) : Option State :=
  let x := s.node ten n
  let (code, g) := s.lineEntry ten x l
  if code = 2 then
    let a := s.granAddr ten g
    some (s.homeWrite (agentOf s.hart) (if e < 8 then a + q / 2 else a + q * (e / 8))
      (if e < 8 then bytesOf 1 (setElem (s.homeNat (a + q / 2) 1) 4 (q % 2) v) else bytesOf (e / 8) v))
  else if code = 1 then
    let ps := s.recPairs ten g
    if ps.any (fun p => p.1 == q) || ps.length < 30 then some (s.putPair ten g q v)
    else s.putFullLine ten n l (setLineElem e q v ((s.resolveLine ten n l).getD (List.replicate 256 0))) []
  else match s.takeGranules ten 2 2 (s.usedGranules ten) with
    | some (s, g) => some (((s.setRecPairs ten g [(q, v)]).setLineEntry ten x l 1 g).setNode ten n { x with owned := x.owned + 1 })
    | none => none

/-- What LNPATCH reads of line l of node n is poisoned: its entry, the head of its record, or, where the record is full, the
line as resolved. -/
def State.patchPoisoned (s : State) (ten n l : Nat) : Bool :=
  let (code, g) := s.lineEntry ten (s.node ten n) l
  let k := (s.recPairs ten g).length
  s.entryDead ten n l
    || (code == 1 && (s.homePoisoned (s.granAddr ten g) (4 + 2 * k) || (30 ≤ k && s.linePoisoned ten n l)))

def patchBody (f : TFields) : M Unit := do
  let ten ← getTen
  let x ← readNat f.d
  let i ← readNat f.a
  let b ← readNat f.b
  let n ← nodeOf x
  waitNodes [n]
  let s ← get
  let d := s.node ten n
  if d.state = 3 then trap cNODE_RETIRED x
  if d.state = 2 then trap cNODE_FROZEN x
  require (i < d.count) i
  let e := fmtBits d.fmt
  let l := i / (2048 / e)
  if s.patchPoisoned ten n l then trap cPOISON x
  match s.patchElem ten n l e (i % (2048 / e)) (b % 2 ^ e) with
  | none => trap cNODE_EXHAUSTED x
  | some s => set (s.bump ten n)

def execLnpatch (f : TFields) (s : State) : Out := runT 0x172 f (patchBody f) s

/-! ### LNREBASE (08 R169) -/

/-- The rebase of c onto q takes effect. -/
def State.rebase (s : State) (ten c q : Nat) : State :=
  let s := s.releaseParent ten 8 (s.node ten c).parent
  let s := s.modNode ten c (fun x => { x with parent := q, depth := (s.node ten q).depth + 1 })
  (s.adopt ten q).bump ten c

/-- The checks that both forms make: the child and the new parent. -/
def rebaseChecks (x y : Nat) : M (Nat × Nat) := do
  let ten ← getTen
  let c ← nodeOf x
  let q ← nodeOf y
  waitNodes [c, q]
  let s ← get
  let dc := s.node ten c
  let dq := s.node ten q
  if x = y then trap cNODE_INVALID y
  if dc.state = 3 then trap cNODE_RETIRED x
  if dq.state = 3 then trap cNODE_RETIRED y
  if 0 < dc.kids then trap cNODE_FROZEN x
  if dq.depth = 7 then trap cLINEAGE_DEPTH y
  if dc.fmt ≠ dq.fmt || dc.geom ≠ dq.geom || dc.count ≠ dq.count then trap cFORMAT y
  waitNodes [dc.parent]
  pure (c, q)

def execLnrebase (f : TFields) (s : State) : Out :=
  runT 0x173 f (do
    let x ← readNat f.a
    let y ← readNat f.b
    let (c, q) ← rebaseChecks x y
    let ten ← getTen
    modify (fun s => s.rebase ten c q)) s

def rebaseChkBody (f : TFields) (again : Bool) : M Unit := do
  let x ← readNat f.a
  let y ← readNat f.b
  let d ← readNat f.d
  withJob again (fun r => writeNat f.d r) (do
    let (c, q) ← rebaseChecks x y
    let t := decodeF fp32 (d % 2 ^ 32)
    require (!isNaN t && !(signOf t && !isZero t)) d
    let ten ← getTen
    let s ← get
    issueJob 4 c q (BitVec.ofNat 32 d) [c, (s.node ten c).parent, q] [] x)

def execLnrebaseChk (f : TFields) (s : State) : Out := runWait 0x174 f (rebaseChkBody f) s

/-! ### LNFLAT and LNDROP (08 R170) -/

/-- The lines of a node. -/
def State.linesOf (s : State) (ten n : Nat) : List Nat := List.range (s.node ten n).lines

def flatBody (f : TFields) (again : Bool) : M Unit := do
  let x ← readNat f.a
  withJob again (fun _ => pure ()) (do
    let ten ← getTen
    let n ← nodeOf x
    waitNodes [n]
    let s ← get
    let d := s.node ten n
    if 0 < d.kids then trap cNODE_FROZEN x
    waitNodes [d.parent]
    let need := (s.linesOf ten n).filter (fun l => (s.lineEntry ten d l).1 == 0)
    issueJob 2 n d.parent 0 [n, d.parent] (need.map (fun _ => (1, 1))) x)

def execLnflat (f : TFields) (s : State) : Out := runWait 0x175 f (flatBody f) s

def dropBody (n : Nat) : M Unit := do
  let ten ← getTen
  let s ← get
  let d := s.node ten n
  if d.state = 3 then pure ()
  else if 0 < d.kids then set (s.modNode ten n (fun d => { d with state := 3 }))
  else do
    waitNodes [d.parent]
    set ((s.freeNode ten n).releaseParent ten 8 d.parent)

def execLndrop (f : TFields) (s : State) : Out :=
  runT 0x176 f (do
    let x ← readNat f.a
    let n ← nodeOf x
    waitNodes [n]
    dropBody n) s

/-- The children of a node, in ascending order. -/
def State.kidsOf (s : State) (ten n : Nat) : List Nat :=
  (s.knownNodes ten).filter (fun k => (s.node ten k).state != 0 && (s.node ten k).parent == n)

/-- What a fold does with line l of child c: nothing, copy the record or the full line of n, merge the records, or a full
line of c (08 R170). -/
inductive FoldLine where
  | keep
  | record (ps : List (Nat × Nat))
  | full

def State.foldLine (s : State) (ten n c l : Nat) : FoldLine :=
  let (cc, cg) := s.lineEntry ten (s.node ten c) l
  let (nc, ng) := s.lineEntry ten (s.node ten n) l
  if cc = 2 ∨ nc = 0 then .keep
  else if cc = 0 then (if nc = 1 then .record (s.recPairs ten ng) else .full)
  else if nc = 1 then
    let ps := s.recPairs ten cg
    let all := ps ++ (s.recPairs ten ng).filter (fun p => !(ps.any (fun q => q.1 == p.1)))
    if all.length ≤ 30 then .record all else .full
  else .full

/-- The granules that a fold needs for line l of child c. -/
def State.foldNeed (s : State) (ten n c l : Nat) : List (Nat × Nat) :=
  if (s.lineEntry ten (s.node ten c) l).1 ≠ 0 then []
  else match s.foldLine ten n c l with
    | .keep => []
    | .record _ => [(2, 2)]
    | .full => [(1, 1)]

def foldBody (f : TFields) (again : Bool) : M Unit := do
  let x ← readNat f.a
  withJob again (fun _ => pure ()) (do
    let ten ← getTen
    let n ← nodeOf x
    waitNodes [n]
    let s ← get
    let d := s.node ten n
    if d.kids = 0 then dropBody n
    else do
      let kids := s.kidsOf ten n
      waitNodes (d.parent :: kids)
      let reqs := kids.flatMap (fun c => (s.linesOf ten c).flatMap (fun l => s.foldNeed ten n c l))
      issueJob 3 n d.parent 0 (n :: d.parent :: kids) reqs x)

def execLndropFold (f : TFields) (s : State) : Out := runWait 0x177 f (foldBody f) s

/-! ### LNINFO and LNRES (08 R171) -/

def infoWord (d : Node) (ver : Bool) : Nat :=
  if ver then d.version
  else d.geom * 2 ^ 60 + d.fmt * 2 ^ 55 + min d.kids 65535 * 2 ^ 32 + d.state * 2 ^ 28 + d.depth * 2 ^ 24 + d.parent

def execLninfo (f : TFields) (s : State) : Out :=
  runT 0x178 f (do
    let ten ← getTen
    let x ← readNat f.a
    let n ← nodeOf x
    waitNodes [n]
    let s ← get
    writeNat f.d (infoWord (s.node ten n) (f.m.getLsbD 0))) s

/-- Element i of a node, and for a BS4 node its scale byte; none where a word that holds one is poisoned (13 R265;
19 R355). -/
def State.nodeElem (s : State) (ten n i : Nat) : Option (Nat × Nat) :=
  let d := s.node ten n
  let e := fmtBits d.fmt
  match s.nodeBytes ten n (i * e / 8) (max 1 (e / 8)) with
  | none => none
  | some bs =>
    let x := if e < 8 then elemOf (ofBytes bs) 4 (i % 2) else ofBytes bs
    if d.fmt ≠ 12 then some (x, 0)
    else match s.nodeBytes ten n (256 * ceilDiv d.count 512 + i / (16 * 2 ^ (d.geom % 4))) 1 with
      | some sb => some (x, ofBytes sb)
      | none => none

def lnresBody (f : TFields) : M Unit := do
  let ten ← getTen
  let x ← readNat f.a
  let i ← readNat f.b
  let n ← nodeOf x
  waitNodes [n]
  let s ← get
  let d := s.node ten n
  if d.state = 3 then trap cNODE_RETIRED x
  require (i < d.count) i
  let dec := f.m.getLsbD 0
  if dec && d.fmt == 0 then trap cFORMAT x
  match s.nodeElem ten n i with
  | none => trap cPOISON x
  | some (v, sb) =>
    if dec then do
      let c ← getCtx
      let r ← convertNow (.scalar d.fmt c.rm.toNat) (if d.fmt = 12 then sb * 16 + v else v)
      writeNat f.d r
    else writeNat f.d v

def execLnres (f : TFields) (s : State) : Out := runT 0x179 f (lnresBody f) s

/-! ### The end of a lineage job (13 R271 to R273) -/

/-- The state in which child c has the parent q, as a rebase would leave its lines; it serves only to resolve them. -/
def State.reparented (s : State) (ten c q : Nat) : State := s.modNode ten c (fun x => { x with parent := q })

/-- The exact values of a node's elements from its lines. -/
def nodeValues (d : Node) (lines : List Byte) : List FV :=
  let e := fmtBits d.fmt
  (List.range d.count).map (fun i =>
    let x := lineElem e (i % (2048 / e)) ((lines.drop (256 * (i / (2048 / e)))).take 256)
    if d.fmt = 12 then
      (decodeBS4 x (fieldAt lines (256 * ceilDiv d.count 512 + i / (16 * 2 ^ (d.geom % 4))) 1)).getD (.nan false)
    else decodeElem d.fmt x)

/-- Two elements differ by more than t, or exactly one is NaN (08 R169). -/
def differs (t a b : FV) : Bool :=
  if isNaN a || isNaN b then isNaN a != isNaN b
  else match addV false a (negV b) with
    | none => false
    | some d => cmpV (absV d) t == some .gt

/-- The blocks of a rebased child that move by more than the threshold, and the blocks compared. -/
def State.rebaseCount (s : State) (ten c q : Nat) (t : BitVec 32) : Nat × Nat :=
  let d := s.node ten c
  let old := nodeValues d ((s.linesOf ten c).flatMap (fun l => (s.resolveLine ten c l).getD (List.replicate 256 0)))
  let new := nodeValues d ((s.linesOf ten c).flatMap (fun l => ((s.reparented ten c q).resolveLine ten c l).getD (List.replicate 256 0)))
  let k := if d.fmt = 12 then 16 * 2 ^ (d.geom % 4) else 32
  let bad := (old.zip new).map (fun p => differs (decodeF fp32 t.toNat) p.1 p.2)
  let nb := ceilDiv d.count k
  (((blocksOf k nb bad).filter (fun b => b.any id)).length, nb)

/-- A line of child c that a fold of n reads is poisoned: an entry or record that it uses, or a line that it resolves. -/
def State.foldPoisoned (s : State) (ten n c l : Nat) : Bool :=
  let (cc, cg) := s.lineEntry ten (s.node ten c) l
  let (nc, ng) := s.lineEntry ten (s.node ten n) l
  s.entryDead ten c l || (cc != 2 && s.entryDead ten n l)
    || match s.foldLine ten n c l with
      | .keep => false
      | .record _ => (cc == 1 && s.recPoisoned ten cg) || (nc == 1 && s.recPoisoned ten ng)
      | .full => s.linePoisoned ten c l

/-- Some word that a job reads is poisoned. A job reads the whole of each line that it resolves (log entry 101). -/
def State.jobPoisoned (s : State) (j : LnJob) : Bool :=
  if j.kind = 3 then (s.kidsOf j.ten j.node).any (fun c => (s.linesOf j.ten c).any (s.foldPoisoned j.ten j.node c))
  else (s.linesOf j.ten j.node).any (fun l => s.linePoisoned j.ten j.node l
    || (j.kind == 4 && (s.reparented j.ten j.node j.other).linePoisoned j.ten j.node l))

/-- Line l of node n becomes a full line in the granules that it has, or else in the first of those that the job has
reserved: the state, and the granules that stay reserved (13 R264). -/
def State.jobLine (s : State) (ten n l : Nat) (line : List Byte) (kept : List Nat) : State × List Nat :=
  let (code, g) := s.lineEntry ten (s.node ten n) l
  if code = 1 ∨ code = 2 then (s.fullLineAt ten n l g false line [], kept)
  else (s.fullLineAt ten n l (kept.headD 0) true line [], kept.drop 1)

/-- Write a node's lines as full lines that hold the resolved values of another's. -/
def State.fillLines (s : State) (ten n from_ : Nat) (kept : List Nat) : State :=
  ((s.linesOf ten from_).foldl (fun (r : State × List Nat) l =>
    r.1.jobLine ten n l ((r.1.resolveLine ten from_ l).getD (List.replicate 256 0)) r.2) (s, kept)).1

/-- A fold of one line into child c. -/
def State.foldInto (s : State) (ten n c l : Nat) (kept : List Nat) : State × List Nat :=
  let x := s.node ten c
  match s.foldLine ten n c l with
  | .keep => (s, kept)
  | .full => s.jobLine ten c l ((s.resolveLine ten c l).getD (List.replicate 256 0)) kept
  | .record ps =>
    let (code, g) := s.lineEntry ten x l
    if code = 1 then (s.setRecPairs ten g ps, kept)
    else
      let g := kept.headD 0
      (((s.setRecPairs ten g ps).setLineEntry ten x l 1 g).setNode ten c { x with owned := x.owned + 1 }, kept.drop 2)

/-- The nodes under n. -/
def State.under (s : State) (ten n : Nat) : Nat → List Nat
  | 0 => []
  | fuel + 1 => (s.kidsOf ten n).flatMap (fun c => c :: s.under ten c fuel)

/-- The lines and the descriptors change as the job's instruction says, in the granules that the job has reserved: the
state, its result, and the record's two last words. -/
def State.applyJob (s : State) (j : LnJob) : State × Nat × Nat × Nat :=
  let ten := j.ten
  let d := s.node ten j.node
  if j.kind = 1 then
    let r := s.rootOf ten 8 j.node
    let s := (s.createNode ten j.other r 1 (j.kept.headD 0) d).fillLines ten j.other j.node (j.kept.drop (mapGranules d.lines))
    (s.adopt ten r, j.other, 0, d.lines)
  else if j.kind = 2 then
    let s := s.fillLines ten j.node j.node j.kept
    let s := s.modNode ten j.node (fun x => { x with parent := 0, depth := 0, owned := x.lines })
    (s.releaseParent ten 8 d.parent, 0, 0, d.lines)
  else if j.kind = 3 then
    let kids := s.kidsOf ten j.node
    let work := kids.flatMap (fun c => (s.linesOf ten c).map (fun l => (c, l)))
    let written := (work.filter (fun p => match s.foldLine ten j.node p.1 p.2 with | .keep => false | _ => true)).length
    let below := s.under ten j.node 8
    let s := (work.foldl (fun (r : State × List Nat) p => r.1.foldInto ten j.node p.1 p.2 r.2) (s, j.kept)).1
    let s := kids.foldl (fun s c => s.modNode ten c (fun x => { x with parent := d.parent })) s
    let s := below.foldl (fun s c => s.modNode ten c (fun x => { x with depth := x.depth - 1 })) s
    let s : State := if d.parent = 0 then s else s.modNode ten d.parent (fun x => { x with kids := x.kids + kids.length })
    ((s.freeNode ten j.node).releaseParent ten 8 d.parent, 0, 0, written)
  else
    let (moved, nb) := s.rebaseCount ten j.node j.other j.thresh
    (s.rebase ten j.node j.other, moved, moved, nb)

/-- Write a job's record to the tenant's lineage completion ring (13 R273). -/
def State.lnRecord (s : State) (j : LnJob) (cause a b : Nat) : State :=
  let d := s.descWord j.ten 5
  if d = 0 then s
  else
    let seq := s.homeNat d 4
    let base := s.homeNat (d + 16) 8
    let lcnt := s.homeNat (d + 24) 1 % 16
    let bs := bytesOf 4 seq ++ bytesOf 1 j.kind ++ bytesOf 1 cause ++ bytesOf 2 0
      ++ bytesOf 4 (if j.kind = 1 then j.other else j.node) ++ bytesOf 4 (if j.kind = 1 then j.node else j.other)
      ++ bytesOf 8 a ++ bytesOf 8 b
    (s.homeWrite (1080 + j.octet) (base + 32 * (seq % 2 ^ lcnt)) bs).homeWriteNat (1080 + j.octet) d 8 ((seq + 1) % 2 ^ 32)

/-- A thread still has to take the result of a job: it has recorded a wait for it, whether or not it waits now. -/
def Thread.awaits (x : Thread) (j : LnJob) : Bool := x.waiting.isSome && x.ctx.waitCnt.toNat == j.serial + 1

/-- A lineage job ends, performed by its octet's copy unit: its holds and its reserved granules are given up, its
descriptors change unless a word was poisoned or a failure ends it (`forced`), its record is written, and its thread takes
the result when it issues again, once (13 R270, R271). -/
def State.endLineage (s : State) (j : LnJob) (forced : Nat) : State :=
  let h := s.hart
  let s := { s with hart := .cu j.octet 8 }
  let cause := if forced ≠ 0 then forced else if s.jobPoisoned j then cPOISON else 0
  let s := s.holdNodes j.ten 0 j.held
  let s := { s with lnJobs := s.lnJobs.filter (fun k => k.serial != j.serial) }
  let (s, result, a, b) := if cause = 0 then s.applyJob j else (s, 0, 0, 0)
  let s := { s.lnRecord j cause a b with hart := h }
  let k := thKey j.ten j.core j.thread
  let x := s.threads.get Thread.zero k
  if x.awaits j then
    let s := { s with lnJobs := s.lnJobs ++ [{ j with kept := [], held := [], ended := some (cause, result) }] }
    if x.ctx.run = .waitJob then
      let y : Thread := { x with ctx := { x.ctx with run := .ready }, stamp := s.now j.core }
      ({ s with threads := s.threads.set Thread.zero k y } : State).syncImage j.ten j.core j.thread y
    else s
  else s

end Sys2Proof.Machine
end

