-- ==== Sys2Proof/Machine/Kicks.lean ====
section
/-! DEFINITION. Group I: matrix engine kicks, drops and bursts, copy queues and completions (08 R173 to R181; 12 R253,
R254). -/

namespace Sys2Proof.Machine

/-! ### Matrix engine (08 R173 to R177) -/

/-- The packet of a kick: the low 64 bytes of a vector register, or 64 bytes by the ordinary load path. -/
def kickPacket (o : Operand) : M (List Byte) := do
  match o with
  | .v _ => do
    let x ← readVecOp o
    pure (bytesOf 64 x)
  | _ => do
    let a ← readNat o
    loadBytes a 64 64

/-- The job counter after id: 1 to 65535, then 1. -/
def nextJobId (id : Nat) : Nat := if 65535 ≤ id then 1 else id + 1

/-- The core's job counter gives an id and advances; the core keeps a record of its last 64 jobs (07 R162, 08 R174). -/
def Core.newJob (x : Core) : Core :=
  { x with jobCtr := nextJobId x.jobCtr,
           jobs := let l := x.jobs.filter (fun r => r.id != x.jobCtr) ++ [{ id := x.jobCtr, state := 0, cause := 0 }]
                   l.drop (l.length - 64) }

/-- The entries that a queue holds. -/
def State.heldJobs (s : State) (o q : Nat) : Nat := (((s.octet o).queues.get [] q).filter (fun j => !j.done)).length

/-- Enqueue a job of a core thread. -/
def State.enqueueJob (s : State) (c t : Nat) (packet : List Byte) : State :=
  let x := s.core c
  let o := octetOfCore c
  let j : Job := { packet := packet, id := x.jobCtr, ten := x.tenant, core := c, thread := t, launch := (s.thread c t).launch,
                   running := false, micro := false, waitTake := false, cyc := 0, path := false, done := false, ending := none, prog := none }
  let s := s.setCore c x.newJob
  let y := s.octet o
  s.setOctet o { y with queues := y.queues.set [] (c % 8) (y.queues.get [] (c % 8) ++ [j]) }

/-- A kick of KIND k. -/
def kickBody (k : Nat) (f : TFields) : M Unit := do
  onCore (fun c t => do
    let s ← get
    if 8 ≤ s.heldJobs (octetOfCore c) (c % 8) then
      (if nbBit f then stop .report else stop (.wait .waitJob 0 0))
    else do
      let p ← kickPacket f.a
      fenceRelease (scopeOf f)
      let s ← get
      set (s.enqueueJob c t (patchBytes p 0 [BitVec.ofNat 8 k]))
      writeNat f.d (s.core c).jobCtr)

def execMeload (f : TFields) (s : State) : Out := runT 0x180 f (kickBody 1 f) s
def execMemm (f : TFields) (s : State) : Out := runT 0x181 f (kickBody 2 f) s
def execMelin (f : TFields) (s : State) : Out := runT 0x182 f (kickBody 3 f) s
def execMedl (f : TFields) (s : State) : Out := runT 0x183 f (kickBody 4 f) s

/-- The take of (die, tenant, layer) is between a lookup and its job's end (15 R298). -/
def State.takeIsBusy (s : State) (d ten layer : Nat) : Bool :=
  s.takeBusy.any (fun b => b.octet / 30 == d && b.ten == ten && b.layer == layer)

/-- The take line 0 of directory entry k becomes invalid, and the entry stays while its job runs. -/
def State.clearHeader (s : State) (k : Nat) (e : TakeDir) : State :=
  let a := s.takeLine (k / 4096) e 0
  s.homeWriteNat (agentOf s.hart) a 8 (s.homeNat a 8 % 2 ^ 63)

/-- MEDROP at all four directories: a take is freed, and one that is BUSY is only made invalid (08 R177, 15 R307). -/
def State.dropLayer (s : State) (ten layer : Nat) : State :=
  (s.takesWith (fun _ e => e.ten == ten && e.layer == layer)).foldl (fun s k =>
    match s.takes.get none k with
    | some e => if s.takeIsBusy (k / 4096) ten layer then s.clearHeader k e else s.dropTake k
    | none => s) s

def execMedrop (f : TFields) (s : State) : Out :=
  runT 0x184 f (do
    let x ← readNat f.a
    require (x < 2 ^ 16) x
    let ten ← getTen
    modify (fun s => s.dropLayer ten x)) s

/-- A burst declaration: the fillers start 16 ns before the lead's end, or at once (12 R254). -/
def Ramp.declare (r : Ramp) (now lead len : Nat) : Ramp :=
  if len = 0 then { r with declared := false }
  else { r with start := max now (now + lead - 16), stop := now + lead + 1000 * len, declared := true, stepped := false }

def execMeburst (f : TFields) (s : State) : Out :=
  runT 0x185 f (do
    let lead ← readNat f.a
    let len ← readNat f.b
    onCore (fun c _ => modify (fun s =>
      let o := octetOfCore c
      let x := s.octet o
      s.setOctet o { x with ramp := x.ramp.declare s.time lead len }))) s

/-! ### Copy queues (08 R178 to R181) -/

/-- Append a packet to a copy queue: the claim at the home, then the packet's store, with the claimed sequence in bytes
4 to 7. `scope` is that of the release before the claim (08 R179). An LCNT outside 1 to 12 is a value outside its range (08
R178, R196). -/
def appendPacket (f : TFields) (scope dva : Nat) (p : List Byte) : M Nat := do
  let (loc, pg) ← homeLoc dva 64 .atomic
  flushCopy loc
  let d ← homeRead dva 64 loc pg
  let wi := bitsOf d 31 0
  let ri := bitsOf d 95 64
  let base := bitsOf d 191 128
  require (1 ≤ bitsOf d 199 192 && bitsOf d 199 192 ≤ 12) (dva + 24)
  let count := 2 ^ bitsOf d 195 192
  if count ≤ (wi + 2 ^ 32 - ri) % 2 ^ 32 then
    (if nbBit f then stop .report else stop (.wait .waitJob dva 0))
  else do
    let slot := base + 64 * (wi % count)
    aligned slot 64
    let (sloc, spg) ← checkAccess slot .write anyPage
    fenceRelease scope
    writeHome dva loc pg (bytesOf 4 (wi + 1))
    writeLoc slot sloc spg (patchBytes p 4 (bytesOf 4 wi)) true
    bumpLoc sloc
    let h ← getHart
    modify (fun s => match h, loc with
      | .core c t, .dev pa => (match (s.thread c t).launch with
        | some l => { s with posted := s.posted ++ [(pa, wi, l)] }
        | none => s)
      | _, _ => s)
    pure wi

def execCuq (f : TFields) (s : State) : Out :=
  runT 0x186 f (do
    let dva ← readNat f.a
    let p ← readVecOp f.b
    let i ← appendPacket f (scopeOf f) dva (bytesOf 64 p)
    writeNat f.d i) s

/-- The destinations that a channel reports: of every packet that has moved its pointer (10 R226, log entry 33). -/
def State.wpRanges (s : State) (h : HartId) (o ch : Nat) : List (Nat × Nat) :=
  ((s.octet o).wpDests.get [] ch).flatMap (fun d => s.physRanges h d.1 d.2.1 d.2.2)

/-- CUWP. An acquiring read drops the non-owned words of the lines of the channel's destination. -/
def execCuwp (f : TFields) (s : State) : Out :=
  runT 0x187 f (do
    let ch ← readNat f.a
    require (ch < 8) ch
    onCore (fun c _ => do
      let s ← get
      writeOp f.d ((s.octet (octetOfCore c)).wp.get 0 ch)
      if ordAcq f then modify (fun s =>
        let rs := s.wpRanges s.hart (octetOfCore c) ch
        s.selfInvalSel c (fun w _ => lineInRanges rs w)))) s

/-- Wait on a completion: with NB a report, else WAIT_JOB. -/
def awaitDone (f : TFields) (va : Nat) : M Unit := if nbBit f then stop .report else stop (.wait .waitJob va 0)

def execCucq (f : TFields) (s : State) : Out :=
  runT 0x188 f (do
    let va ← readNat f.a
    let b ← readNat f.b
    let (loc, pg) ← homeReadLoc va 32
    let r ← homeRead va 32 loc pg
    if r % 2 ^ 32 = b % 2 ^ 32 then do
      putVec f.d r
      fenceAcquire 4
    else awaitDone f va) s

def execCuwait (f : TFields) (s : State) : Out :=
  runT 0x193 f (do
    let va ← readNat f.a
    let b ← readNat f.b
    let (loc, pg) ← homeReadLoc va 8
    let w ← homeRead va 8 loc pg
    if (w + 2 ^ 32 - b % 2 ^ 32) % 2 ^ 32 < 2 ^ 31 then do
      writeNat f.d w
      fenceAcquire 4
    else awaitDone f va) s

/-- Check the fields of a descriptor; the first that is out of its range raises ILLEGAL_OPERAND with its word's
address. -/
def checkWords (va : Nat) : List (Nat × Bool) → M Unit
  | [] => pure ()
  | (i, ok) :: r => do
    require ok (va + 8 * i)
    checkWords va r

/-- A copy packet that a descriptor gives rise to (12 R256). Byte 2 of COLL's holds its OPC (log entry 34). -/
def derivedPacket (op flags b2 src : Nat) : List Byte :=
  bytesOf 1 op ++ bytesOf 1 flags ++ bytesOf 1 b2 ++ bytesOf 5 0 ++ bytesOf 8 src ++ List.replicate 48 0

def execColl (f : TFields) (s : State) : Out :=
  runT 0x189 f (do
    let va ← readNat f.a
    let d ← loadBytes va 64 64
    let w (i : Nat) : Nat := fieldAt d (8 * i) 8
    checkWords va [(1, 1 ≤ w 1 && w 1 ≤ 2 ^ 32), (2, w 2 < 2 ^ 16), (4, w 4 == 0), (5, w 5 == 0), (6, w 6 == 0), (7, w 7 == 0)]
    let i ← appendPacket f 4 (w 3) (derivedPacket 4 0 (mField f.m 2 0) va)
    writeNat f.d i) s

def execGather (f : TFields) (s : State) : Out :=
  runT 0x192 f (do
    let va ← readNat f.a
    let d ← loadBytes va 64 64
    let w (i : Nat) : Nat := fieldAt d (8 * i) 8
    checkWords va [(1, 1 ≤ w 1 && w 1 ≤ 2 ^ 32), (3, 8 ≤ w 3 && w 3 ≤ 4096 && w 3 % 8 == 0), (7, w 7 == 0)]
    let i ← appendPacket f 4 (w 6) (derivedPacket 3 (if f.m.getLsbD 0 then 8 else 0) 0 va)
    writeNat f.d i) s

end Sys2Proof.Machine
end

