-- ==== Sys2Proof/Machine/Kv.lean ====
section
/-! DEFINITION. Group I: KV slabs, attention requests and the prefix table (08 R182 to R186; 16 R309 to R320). -/

namespace Sys2Proof.Machine

/-! ### The sequence table (16 R313, R314) -/

/-- A sequence table entry. -/
structure SeqEntry where
  base   : Nat
  grow   : Bool
  v      : Bool
  tpd    : Nat
  tpn    : Nat
  dim    : Nat
  lheads : Nat
  lsize  : Nat
  deriving DecidableEq, Repr

/-- The address of a tenant's entry. -/
def State.seqAddr (s : State) (ten id : Nat) : Nat := s.descWord ten 10 + 16 * id

def State.seqEntry (s : State) (ten id : Nat) : SeqEntry :=
  let a := s.seqAddr ten id
  let w := s.homeNat (a + 8) 8
  { base := s.homeNat a 8, grow := w.testBit 63, v := w.testBit 62, tpd := bitsOf w 53 52, tpn := bitsOf w 51 48,
    dim := bitsOf w 19 16, lheads := bitsOf w 10 8, lsize := bitsOf w 5 0 }

/-- Word 1 of an entry. -/
def SeqEntry.word1 (e : SeqEntry) : Nat :=
  (if e.grow then 2 ^ 63 else 0) + (if e.v then 2 ^ 62 else 0) + e.tpd * 2 ^ 52 + e.tpn * 2 ^ 48 + e.dim * 2 ^ 16
    + e.lheads * 2 ^ 8 + e.lsize

/-- Write an entry at its home; the hart that moves becomes the words' owner (10 R218). -/
def State.setSeqEntry (s : State) (ten id : Nat) (e : SeqEntry) : State :=
  s.homeWrite (agentOf s.hart) (s.seqAddr ten id) (bytesOf 8 e.base ++ bytesOf 8 e.word1)

/-- Heads, and the capacity in tokens. -/
def SeqEntry.heads (e : SeqEntry) : Nat := 2 ^ e.lheads
def SeqEntry.capacity (e : SeqEntry) : Nat := 2 ^ e.lsize / (8192 * e.heads) * 32

/-- The pair of an entry that grows. -/
def State.pairOf (s : State) (e : SeqEntry) : Option Transom := s.transoms.find? (fun p => p.die == e.tpd && p.pair == e.tpn)

/-- The tenant of the issuing hart; the boot context has none, and no table of a tenant (log entry 35). -/
def needTenant : M Nat := do
  let ten ← getTen
  require (ten < 16) 0
  pure ten

/-- A sequence id, within the table. -/
def readSeq (o : Operand) : M Nat := do
  let x ← readNat o
  require (x < 4096) x
  pure x

def execKvmap (f : TFields) (s : State) : Out :=
  runT 0x18B f (do
    let (b, w) ← readPair f.b
    let ten ← needTenant
    let id ← readSeq f.a
    let w := w.toNat
    let lsize := bitsOf w 5 0
    require (b.toNat % 2 ^ lsize == 0) b.toNat
    require (bitsOf w 63 20 == 0 && bitsOf w 15 11 == 0 && bitsOf w 7 6 == 0 && 1 ≤ bitsOf w 19 16 && bitsOf w 19 16 ≤ 8
      && bitsOf w 10 8 ≤ 6 && 13 + bitsOf w 10 8 ≤ lsize && lsize ≤ 40) w
    let s ← get
    if (s.seqEntry ten id).grow then stop (.wait .waitJob id 0)
    else set (s.setSeqEntry ten id
      { base := b.toNat, grow := false, v := true, tpd := 0, tpn := 0, dim := bitsOf w 19 16, lheads := bitsOf w 10 8, lsize := lsize })) s

/-- The relocation packet of a growth: raw bytes, as rows of 8 KiB (12 R256, 16 R314, log entry 36). -/
def relocPacket (old new lsize : Nat) : List Byte :=
  let rows := min (2 ^ (lsize - 13)) 65535
  bytesOf 1 5 ++ bytesOf 1 4 ++ bytesOf 6 0 ++ bytesOf 8 old ++ bytesOf 8 new ++ bytesOf 2 8192 ++ bytesOf 2 rows
    ++ bytesOf 2 8192 ++ bytesOf 2 rows ++ bytesOf 4 8192 ++ bytesOf 4 8192 ++ List.replicate 24 0

/-- The lowest free transom pair of a die. -/
def State.freePair (s : State) (d : Nat) : Option Nat :=
  (List.range 16).find? (fun n => !(s.transoms.any (fun p => p.die == d && p.pair == n)))

def kvgrowBody (f : TFields) : M Unit := do
  let new ← readNat f.b
  let ten ← needTenant
  let id ← readSeq f.a
  let h ← getHart
  let s ← get
  let e := s.seqEntry ten id
  let d := dieOf h
  require e.v id
  require (new % 2 ^ (e.lsize + 1) == 0) new
  match s.freePair d, e.grow with
  | some n, false => do
    let i ← appendPacket f 4 (s.descWord ten 11) (relocPacket e.base new e.lsize)
    modify (fun s =>
      let p : Transom := { ten := ten, seq := id, old := e.base, new := new, mark := 0, die := d, pair := n, base := 0 }
      { s with transoms := s.transoms ++ [p] }.setSeqEntry ten id { e with grow := true, tpd := d, tpn := n })
    writeNat f.d i
  | _, _ => if nbBit f then stop .report else stop (.wait .waitJob id 0)

def execKvgrow (f : TFields) (s : State) : Out := runT 0x18C f (kvgrowBody f) s

/-! ### Attention requests (08 R183, 16 R315, R316) -/

/-- The address of the page of head h of group g: the new slab below the watermark of a growth. -/
def State.kvPage (s : State) (e : SeqEntry) (g h : Nat) : Nat :=
  let off := (g * e.heads + h) * 8192
  match (if e.grow then s.pairOf e else none) with
  | some p => (if off < p.mark then p.new else e.base) + off
  | none => e.base + off

/-- A triple that nothing has been merged into. -/
def Triple.empty : Triple := { o := [], m := fp32.inf true, l := 0, cnt := 0, cause := 0 }

/-- Bytes 0 to 523 of a triple area. -/
def Triple.bytes (t : Triple) : List Byte :=
  (List.range 128).flatMap (fun c => bytesOf 4 (t.o.getD c 0)) ++ bytesOf 4 t.m ++ bytesOf 4 t.l ++ bytesOf 4 t.cnt

/-- The status word of a triple area that is done. -/
def doneStatus (cause : Nat) : Nat := 2 ^ 31 + cause % 256

/-- The byte offset of a triple address in the window of its own core, aligned to 1 KiB. -/
def State.tripleOff (s : State) (ten c va : Nat) : Option Nat :=
  let b := s.windowBase ten + c % 48 * 0x40000
  if va % 1024 = 0 ∧ b ≤ va ∧ va < b + 0x40000 then some (va - b) else none

/-- ATTN. It stalls, RUNNING, while 64 requests of its core are in flight. -/
def attnBody (f : TFields) : M Unit := do
  let d ← readNat f.d
  let q ← readVecOp f.a
  let (w, r) ← readPair f.b
  let ten ← needTenant
  onCore (fun c _ => do
    let s ← get
    let id := bitsOf w.toNat 15 0
    let head := bitsOf w.toNat 23 16
    let lo := bitsOf r.toNat 31 0
    let hi := bitsOf r.toNat 63 32
    match s.tripleOff ten c d with
    | none => illegal d
    | some off => do
      require (id < 4096) w.toNat
      let e := s.seqEntry ten id
      require e.v w.toNat
      require (head < e.heads) w.toNat
      require (hi ≤ e.capacity && lo ≤ hi) r.toNat
      if 64 ≤ (s.attns.filter (fun a => a.core == c)).length then stop (.wait .running 0 0)
      else do
        let key := tcKey ten c
        if lo = hi then set ((s.scrWrite key off Triple.empty.bytes).scrWrite key (off + 524) (bytesOf 4 (doneStatus 0)))
        else
          let groups := (List.range ((hi + 31) / 32 - lo / 32)).map (fun i => lo / 32 + i)
          let a : Attn := { core := c, ten := ten, addr := off, query := BitVec.ofNat 2048 q, seq := id, head := head, lo := lo, hi := hi,
                            dim := 16 * e.dim, pages := groups.map (fun g => (g, s.kvPage e g head)), parts := [], acc := Triple.empty }
          set (({ s.scrWrite key (off + 524) (bytesOf 4 0) with attns := s.attns ++ [a] }).countCluster (clusterOfCore c) 51 1))

def execAttn (f : TFields) (s : State) : Out := runT 0x18A f (attnBody f) s

/-! ### The prefix table (08 R184 to R186) -/

/-- Mp of the chained hash. -/
def pfxMod : Nat := 2 ^ 61 - 1

/-- One link of the chained hash (08 R185). -/
def pfxLink (prev i : Nat) (ids : List Byte) : Nat :=
  let bsum := ((List.range 16).foldl (fun a j => a + fieldAt ids (4 * j) 4 * (j + 1)) 0) % pfxMod
  (prev * 2 ^ 17 + bsum + i) % pfxMod

def pfxhBody (f : TFields) : M Unit := do
  let va ← readNat f.a
  let i ← readNat f.b
  require (1 ≤ i && i ≤ 4095) i
  let first := f.m.getLsbD 0
  require (!first || i == 1) i
  let ten ← getTen
  let s ← get
  let d ← (if first then pure 0 else readNat f.d)
  let prev := if first then bitsOf (s.descWord ten 7) 60 0 else d
  require (first || prev < pfxMod) prev
  let ids ← loadBytes va 64 64
  writeNat f.d (pfxLink prev i ids)

def execPfxh (f : TFields) (s : State) : Out := runT 0x18D f (pfxhBody f) s

/-- A prefix table entry (08 R184). -/
structure PfxEntry where
  state  : Nat
  hash   : Nat
  pins   : Nat
  depth  : Nat
  kvpage : Nat
  tokens : Nat
  stamp  : Nat
  deriving DecidableEq, Repr

/-- The address of entry e. -/
def State.pfxAddr (s : State) (ten e : Nat) : Nat := s.descWord ten 6 + 64 * e

def State.pfxEntry (s : State) (ten e : Nat) : PfxEntry :=
  let a := s.pfxAddr ten e
  let w (i : Nat) : Nat := s.homeNat (a + 8 * i) 8
  { state := bitsOf (w 0) 63 61, hash := bitsOf (w 0) 60 0, pins := bitsOf (w 1) 31 16, depth := bitsOf (w 1) 15 0,
    kvpage := w 2, tokens := w 3, stamp := w 4 }

/-- Write an entry at the table's home; the hart that moves becomes the words' owner (10 R218). -/
def State.setPfxEntry (s : State) (ten e : Nat) (x : PfxEntry) : State :=
  s.homeWrite (agentOf s.hart) (s.pfxAddr ten e) (bytesOf 8 (x.state * 2 ^ 61 + x.hash) ++ bytesOf 8 (x.pins * 2 ^ 16 + x.depth)
    ++ bytesOf 8 x.kvpage ++ bytesOf 8 x.tokens ++ bytesOf 8 x.stamp ++ List.replicate 24 0)

/-- n token ids at an address, read at their homes. -/
def homeIds (va : Nat) : Nat → M (List Byte)
  | 0 => pure []
  | n + 1 => do
    aligned va 4
    let (loc, pg) ← checkAccess va .read anyPage
    let (bs, bad) ← fetchLoc loc pg 4 .home
    if bad then trap cPOISON va
    let r ← homeIds (va + 4) n
    pure (bs ++ r)

/-- The first LIVE entry of a list that matches: hash and depth, then the ids at TOKENS and those at the prefix address,
which are read only to be compared. -/
def pfxFind (ten hash depth p : Nat) : List Nat → M (Option Nat)
  | [] => pure none
  | e :: r => do
    let s ← get
    let x := s.pfxEntry ten e
    if x.state = 1 ∧ x.hash = hash ∧ x.depth = depth then do
      let ids ← homeIds p (16 * depth)
      let own ← homeIds x.tokens (16 * depth)
      if own = ids then pure (some e) else pfxFind ten hash depth p r
    else pfxFind ten hash depth p r

def pfxlBody (f : TFields) : M Unit := do
  let hash ← readNat f.a
  let (p, i) ← readPair f.b
  let ten ← needTenant
  require (hash < pfxMod) hash
  require (1 ≤ i.toNat && i.toNat ≤ 4095) i.toNat
  aligned p.toNat 64
  let hit ← pfxFind ten hash i.toNat p.toNat (List.range 64)
  match hit with
  | some e => do
    modify (fun s =>
      let x := s.pfxEntry ten e
      s.setPfxEntry ten e { x with pins := if f.m.getLsbD 0 then min 65535 (x.pins + 1) else x.pins, stamp := s.timeNow })
    writeNat f.d e
  | none => writeNat f.d (2 ^ 64 - 1)

def execPfxl (f : TFields) (s : State) : Out := runT 0x18E f (pfxlBody f) s

/-- The entry that an insertion takes: the lowest FREE one, else the LIVE one without pins that is oldest, the lower
index first. -/
def State.pfxVictim (s : State) (ten : Nat) : Option Nat :=
  match (List.range 64).find? (fun e => (s.pfxEntry ten e).state == 0) with
  | some e => some e
  | none => (List.range 64).foldl (fun (b : Option Nat) e =>
      let x := s.pfxEntry ten e
      if x.state = 1 ∧ x.pins = 0 then
        (match b with
          | some k => if x.stamp < (s.pfxEntry ten k).stamp then some e else b
          | none => some e)
      else b) none

/-- PFXINS. A field of its entry that is out of range is reported by its own word, since a vector has no 64-bit operand value:
the model's choice (log entry 100). -/
def pfxinsBody (f : TFields) : M Unit := do
  let a ← readVecOp f.a
  let ten ← needTenant
  let bs := bytesOf 32 a
  let hash := fieldAt bs 0 8
  let depth := fieldAt bs 8 8
  require (hash < pfxMod) hash
  require (1 ≤ depth && depth ≤ 4095) depth
  let s ← get
  match s.pfxVictim ten with
  | some e => do
    set (s.setPfxEntry ten e { state := 1, hash := hash, pins := 1, depth := depth, kvpage := fieldAt bs 16 8, tokens := fieldAt bs 24 8,
                               stamp := s.timeNow })
    writeNat f.d e
  | none => if nbBit f then stop .report else trap cQUEUE_FULL hash

def execPfxins (f : TFields) (s : State) : Out := runT 0x18F f (pfxinsBody f) s

/-- The entry that an operand names. -/
def readEntry (o : Operand) : M Nat := do
  let e ← readNat o
  require (e < 64) e
  pure e

def execPfxpin (f : TFields) (s : State) : Out :=
  runT 0x190 f (do
    let ten ← needTenant
    let e ← readEntry f.a
    let s ← get
    let x := s.pfxEntry ten e
    require (x.state != 0) e
    if f.m.getLsbD 0 then
      set (s.setPfxEntry ten e { x with pins := x.pins - 1, state := if x.state = 2 ∧ x.pins ≤ 1 then 0 else x.state })
    else set (s.setPfxEntry ten e { x with pins := min 65535 (x.pins + 1), stamp := s.timeNow })) s

def execPfxdel (f : TFields) (s : State) : Out :=
  runT 0x191 f (do
    let ten ← needTenant
    let e ← readEntry f.a
    modify (fun s =>
      let x := s.pfxEntry ten e
      if x.state = 0 then s else s.setPfxEntry ten e { x with state := if x.pins = 0 then 0 else 2 })) s

end Sys2Proof.Machine
end

