-- ==== Sys2Proof/Machine/Engine.lean ====
section
/-! DEFINITION. The matrix engine's arithmetic and the tile steps of its jobs: operand blocks and bit planes, exact block
sums, outlier splits, resident tiles, takes (03 R63 to R66; 08 R175, R176; 12 R246 to R251; 15 R296 to R308). -/

namespace Sys2Proof.Machine

/-! ### Bit planes (12 R248) -/

/-- The bit length of a number. -/
def bitLen (n : Nat) : Nat := if n = 0 then 0 else Nat.log2 n + 1

/-- The least p with x in −2^(p−1)..2^(p−1)−1. -/
def signedBits (x : Int) : Nat := if 0 ≤ x then bitLen x.toNat + 1 else bitLen (-x - 1).toNat + 1

/-- Significant planes of a block of signed values; 0 where every one is 0. -/
def planesSigned (q : List Int) : Nat := if q.all (fun x => x == 0) then 0 else q.foldl (fun m x => max m (signedBits x)) 0

/-- Significant planes of a block of unsigned values. -/
def planesUnsigned (q : List Int) : Nat := q.foldl (fun m x => max m (bitLen x.toNat)) 0

/-! ### Operand A (12 R248, R249; 03 R64 to R66) -/

/-- An element of A: its exact value (NaN for one that is not a number), the integer that is broadcast, and the largest
plane count of its format. -/
structure AElem where
  v    : FV
  q    : Int
  full : Nat
  deriving DecidableEq, Repr

/-- The largest plane count of a BS4 type. -/
def bs4Full (t : Nat) : Nat := if t = 0 then 4 else if t = 2 then 8 else 5

/-- The integer that a BS4 code is broadcast as, in units of 0.5 for type 1 and of 1 otherwise. -/
def bs4Cast (t code : Nat) : Int :=
  let (neg, h) := bs4Half t code
  signedNum neg (if t = 1 then h else h / 2)

/-- An element of A from its bits and scale byte. -/
def aElem (fmt x sb : Nat) : AElem :=
  if fmt = 12 then
    { v := (decodeBS4 x sb).getD (.nan false), q := bs4Cast (sb / 64) x, full := bs4Full (sb / 64) }
  else
    let v := decodeElem fmt x
    { v := v, q := (match v with | .fin neg num den => signedNum neg (num / den) | _ => 0), full := 16 }

/-- The padding of a block. -/
def aZero : AElem := { v := FV.zero, q := 0, full := 0 }

/-- A block of A: exact values, the integers broadcast, whether it holds a value that is not a number, and its
significant planes. -/
structure ABlock where
  vals   : List FV
  q      : List Int
  nan    : Bool
  planes : Nat
  deriving DecidableEq, Repr

/-- A finite value. -/
def finite : FV → Bool
  | .fin _ _ _ => true
  | _ => false

/-- The unbiased exponent of a nonzero BF16 or FP32 value; a subnormal's is −126. -/
def expOf : FV → Option Int
  | .fin _ num den => if num = 0 then none else some (max (PReal.ofFrac num den).log2 (-126))
  | _ => none

/-- The block-aligned fixed point of a BF16 block: the integers and the exponent of their unit (03 R64). -/
def alignBlock (vs : List FV) : List Int × Int :=
  match vs.filterMap expOf with
  | [] => (vs.map (fun _ => 0), 0)
  | e :: es =>
    let u := es.foldl max e - 14
    (vs.map (fun v => match v with
      | .fin neg num den =>
        (match FV.scaled neg num (-u) with
          | .fin _ n d => (roundInt .rne neg n (d * den)).1
          | _ => 0)
      | _ => 0), u)

/-- A block of elements of a format. -/
def aBlock (fmt : Nat) (es : List AElem) : ABlock :=
  let vs := es.map (·.v)
  if fmt = 8 then
    if vs.all finite then
      let (q, u) := alignBlock vs
      { vals := q.map (fun x => FV.scaled (x < 0) x.natAbs u), q := q, nan := false, planes := planesSigned q }
    else { vals := vs.map (fun _ => FV.zero), q := vs.map (fun _ => 0), nan := true, planes := 16 }
  else
    let q := es.map (·.q)
    if vs.all finite then { vals := vs, q := q, nan := false, planes := if fmt = 2 then planesUnsigned q else planesSigned q }
    else { vals := vs, q := q, nan := true,
           planes := es.foldl (fun m e => if finite e.v then m else max m e.full) 0 }

/-- The halves of an element of A (03 R65). -/
def splitElem (fmt : Nat) (e : AElem) : AElem × AElem :=
  if fmt = 8 then
    match e.v with
    | .fin neg num den =>
      let a1 := decodeF fp32 (encodeF fp32 .rtz (.fin neg num (2 * den))).bits
      ({ e with v := a1 }, { e with v := (addV false e.v (negV a1)).getD FV.zero })
    | .inf _ => (e, { e with v := FV.zero })
    | .nan _ => (e, e)
  else
    let a1 := e.q / 2
    ({ e with v := FV.ofInt a1, q := a1 }, { e with v := FV.ofInt (e.q - a1), q := e.q - a1 })

/-- A row split by a map: the row with the first halves, and the twins (03 R65, R66). -/
def splitRow (fmt : Nat) (map : List Nat) (row : List AElem) : List AElem × List AElem :=
  ((row.zipIdx).map (fun p => if map.contains p.2 then (splitElem fmt p.1).1 else p.1),
   map.map (fun k => (splitElem fmt (row.getD k aZero)).2))

/-- A list cut into pieces of n; the fuel bounds their number. -/
def chunksOf {α : Type} (n : Nat) : Nat → List α → List (List α)
  | 0, _ => []
  | fuel + 1, l => if l.isEmpty then [] else l.take n :: chunksOf n fuel (l.drop n)

/-- The K blocks of a row, the twins' last (03 R66). -/
def rowBlocks (fmt : Nat) (map : List Nat) (row : List AElem) : List ABlock :=
  let (main, twins) := splitRow fmt map row
  ((chunksOf 32 row.length main) ++ (if twins.isEmpty then [] else [twins])).map (aBlock fmt)

/-- The B rows of each K block (03 R66). -/
def blockRows (k : Nat) (map : List Nat) : List (List Nat) :=
  chunksOf 32 k (List.range k) ++ (if map.isEmpty then [] else [map])

/-! ### Exact sums (03 R63) -/

/-- The exact sum of products; NaN where a product or sum is not a number. A zero sum is +0. -/
def exactDot : List FV → List FV → FV
  | a :: as, b :: bs =>
    match mulV a b with
    | none => .nan false
    | some p =>
      match addV false p (exactDot as bs) with
      | some (.fin _ 0 _) => FV.zero
      | some x => x
      | none => .nan false
  | _, _ => FV.zero

/-- The sum of a block with the B rows that it uses. -/
def blockSum (b : ABlock) (bs : List FV) : FV := if b.nan then .nan false else exactDot b.vals bs

/-- Round(acc + x, FP32, RNE), on bits. -/
def accAdd (acc : Nat) (x : FV) : Nat := (addF fp32 .rne (decodeF fp32 acc) x).bits

/-- One output element: the blocks in order, those of 0 planes skipped; `scale` multiplies each block's sum (R63, 12
R248, 15 R303). -/
def accumulate (acc : Nat) (blocks : List (ABlock × FV)) (bs : List (List FV)) : Nat :=
  (blocks.zip bs).foldl (fun acc p =>
    if p.1.1.planes = 0 then acc
    else accAdd acc ((mulV p.1.2 (blockSum p.1.1 p.2)).getD (.nan false))) acc

/-! ### Ranges of memory by an engine -/

/-- The parts of [va, va + n) by 4 KiB page. -/
def pageParts (va : Nat) : Nat → Nat → List (Nat × Nat)
  | 0, _ => []
  | fuel + 1, n =>
    if n = 0 then []
    else
      let k := min n (4096 - va % 4096)
      (va, k) :: pageParts (va + k) fuel (n - k)

/-- The last of n bytes of an aperture lies within the node's lines (13 R265). -/
def nodeRoom (va n : Nat) (acc : Access) (loc : Loc) : M Unit := do
  let ten ← getTen
  let s ← get
  match loc with
  | .ln k off =>
    let room := 256 * (s.node ten k).lines
    if room < off + n then stop (.page (va + (room - off)) acc)
  | _ => pure ()

/-- Read n bytes at the homes, page by page. -/
def readParts (refuse : Refuse) : List (Nat × Nat) → M (List Byte)
  | [] => pure []
  | (va, n) :: r => do
    let (loc, pg) ← checkAccess va .read refuse
    nodeRoom va n .read loc
    let bs ← readLoc va loc pg n .home
    let t ← readParts refuse r
    pure (bs ++ t)
def readRange (va n : Nat) (refuse : Refuse) : M (List Byte) := readParts refuse (pageParts va (n / 4096 + 2) n)

/-- The places of parts that a write reaches. -/
def writePlaces (refuse : Refuse) : List (Nat × Nat) → M (List (Nat × Nat × Loc × Page))
  | [] => pure []
  | (va, n) :: r => do
    let (loc, pg) ← checkAccess va .write refuse
    nodeRoom va n .write loc
    let t ← writePlaces refuse r
    pure ((va, n, loc, pg) :: t)

/-- Write bytes at the homes, page by page, once every page has been found. -/
def writeParts : List (Nat × Nat × Loc × Page) → List Byte → M Unit
  | [], _ => pure ()
  | (va, n, loc, pg) :: r, bs => do
    writeLoc va loc pg (bs.take n) true
    writeParts r (bs.drop n)

/-- The nodes that the parts of one write reach, each once. -/
def partNodes (ps : List (Nat × Nat × Loc × Page)) : List Nat :=
  ps.foldl (fun l p => match p.2.2.1 with | .ln n _ => if l.contains n then l else l ++ [n] | _ => l) []

/-- A write at the homes counts once for each node that it reaches (08 R172, 13 R272). -/
def writeRange (va : Nat) (bs : List Byte) (refuse : Refuse) : M Unit := do
  let ps ← writePlaces refuse (pageParts va (bs.length / 4096 + 2) bs.length)
  writeParts ps bs
  let ten ← getTen
  modify (fun s => (partNodes ps).foldl (fun s n => s.bump ten n) s)

/-! ### Job packets (12 R249) -/

/-- A parsed job packet. -/
structure JobP where
  kind  : Nat
  acc   : Bool
  yfmt  : Nat
  b3    : Nat
  layer : Nat
  a     : Nat
  node  : Nat
  m     : Nat
  k     : Nat
  n     : Nat
  y     : Nat
  c     : Nat
  map   : Nat
  mbox  : Nat
  deriving DecidableEq, Repr

def parseJob (p : List Byte) : JobP :=
  { kind := fieldAt p 0 1, acc := (fieldAt p 1 1).testBit 0, yfmt := fieldAt p 2 1, b3 := fieldAt p 3 1, layer := fieldAt p 4 2,
    a := fieldAt p 8 8, node := fieldAt p 16 3, m := fieldAt p 24 2, k := fieldAt p 26 2, n := fieldAt p 28 2, y := fieldAt p 32 8,
    c := fieldAt p 40 8, map := fieldAt p 48 8, mbox := fieldAt p 56 8 }

/-- Bytes of an element of Y. -/
def ySize (fmt : Nat) : Nat := if fmt = 10 then 4 else 2

/-- The packet keeps the rules of 12 R249: zero bytes, ranges, and aligned addresses (log entry 38). -/
def jobOk (p : List Byte) : Bool :=
  let j := parseJob p
  let z (off n : Nat) : Bool := fieldAt p off n == 0
  let data : Bool := if j.kind = 1 then j.yfmt == 0 && j.a == 0 && j.m == 0
    else (j.yfmt == 10 || j.yfmt == 8 || j.yfmt == 9) && 1 ≤ j.m && j.y % ySize j.yfmt == 0
  z 6 2 && z 19 5 && z 30 2 && fieldAt p 1 1 < (if j.kind = 2 then 2 else 1) && 1 ≤ j.k && 1 ≤ j.n && data
    && (if j.kind = 4 then j.b3 ≤ 64 else if j.kind = 3 then 1 ≤ j.b3 && j.b3 ≤ 15 else j.b3 == 0)
    && (j.kind == 4 || j.layer == 0)
    && (if j.kind = 2 then (if j.acc then j.c % 4 == 0 else j.c == 0) else if j.kind = 3 then j.c % 64 == 0
        else if j.kind = 4 then j.c % 4 == 0 else j.c == 0)
    && j.map % 128 == 0 && j.mbox % 8 == 0

/-- The duplication map: its indices, or FORMAT (03 R66). -/
def readMap (j : JobP) : M (List Nat) := do
  if j.map = 0 then pure []
  else do
    let bs ← readRange j.map 66 anyPage
    let n := fieldAt bs 0 2
    let ks := (List.range n).map (fun i => fieldAt bs (2 + 2 * i) 2)
    let rising := (ks.zip (ks.drop 1)).all (fun p => p.1 < p.2)
    if 32 < n || !rising || ks.any (fun k => j.k ≤ k) then trap cFORMAT j.map
    pure ks

/-! ### Operand B (12 R246, R249) -/

/-- Node n resolves, or its cause. -/
def checkB (n : Nat) : M Unit := do
  let ten ← getTen
  let s ← get
  if s.nodeInvalid ten n then trap cNODE_INVALID n
  if (s.node ten n).state = 3 then trap cNODE_RETIRED n

/-- The format and geometry of a B node of K × N elements, or its cause (12 R246, R249; 03 R57, R58). -/
def checkShape (j : JobP) : M Unit := do
  checkB j.node
  let ten ← getTen
  let s ← get
  let x := s.node ten j.node
  if !([1, 12, 14].contains x.fmt) || x.count != j.k * j.n then trap cFORMAT j.node
  if x.fmt = 12 then
    if x.geom < 4 then trap cFORMAT_AXIS j.node
    if j.k % (16 * 2 ^ (x.geom % 4)) ≠ 0 then trap cFORMAT j.node

/-- Code index of element (k, n) of a node: BS4 blocks run along K (03 R57). -/
def bIndex (fmt kk nn k n : Nat) : Nat := if fmt = 12 then n * kk + k else k * nn + n

/-- Element (k, n) of a node: its bits and scale byte, or none where a line is poisoned. -/
def State.bElem (s : State) (ten node kk nn k n : Nat) : Option (Nat × Nat) :=
  let x := s.node ten node
  let i := bIndex x.fmt kk nn k n
  if x.fmt = 1 then (s.nodeBytes ten node i 1).map (fun b => (ofBytes b, 0))
  else
    match s.nodeBytes ten node (i / 2) 1, (if x.fmt = 12 then s.nodeBytes ten node (nodeScale s ten node x.geom (i / 2)) 1 else some [0]) with
    | some b, some sb => some (elemOf (ofBytes b) 4 (i % 2), ofBytes sb)
    | _, _ => none

/-- The exact value of an element of B. -/
def bValue (fmt x sb : Nat) : FV := if fmt = 12 then (decodeBS4 x sb).getD (.nan false) else decodeElem fmt x

/-- The rows ks of column n of B, or POISON. -/
def bColumn (j : JobP) (node n : Nat) : List Nat → M (List FV)
  | [] => pure []
  | k :: ks => do
    let ten ← getTen
    let s ← get
    match s.bElem ten node j.k j.n k n with
    | none => trap cPOISON node
    | some (x, sb) => do
      let r ← bColumn j node n ks
      pure (bValue (s.node ten node).fmt x sb :: r)

/-! ### Tiles (12 R246, R247) -/

/-- Tile i of an octet is free: it carries no tag, or the tag of a version that its node no longer has. -/
def State.tileFree (s : State) (x : Octet) (i : Nat) : Bool :=
  match x.tiles.get none i with
  | some t => (match t.tag with | some g => s.tileStale g | none => true)
  | none => true

/-- The tile that carries a tag. -/
def Octet.findTile (o : Octet) (g : TileTag) : Option Nat :=
  (o.tiles.find? (fun e => match e.2 with | some t => t.tag == some g | none => false)).map (·.1)

/-- The tile to load into: the lowest that is free, else the one whose last use is oldest. -/
def State.victimTile (s : State) (x : Octet) : Nat :=
  let used (i : Nat) : Nat := match x.tiles.get none i with | some t => t.used | none => 0
  match (List.range 4096).find? (s.tileFree x) with
  | some i => i
  | none => (List.range 4096).foldl (fun b i => if used i < used b then i else b) 0

/-- The latest use of a tile. -/
def Octet.lastUse (o : Octet) : Nat := o.tiles.foldl (fun m e => match e.2 with | some t => max m t.used | none => m) 0

/-- Columns of B in a tile. -/
def tileCols (fmt : Nat) : Nat := if fmt = 1 then 16 else 32

/-- The elements of a block of B, with their scale bytes: row i / 32 and cell column i % 32, an INT8 element in the two
columns 2n and 2n + 1; (0, 0) beyond B. None where a word that holds one is poisoned. -/
def State.tileElems (s : State) (ten : Nat) (j : JobP) (kb nb : Nat) : Option (List (Nat × Nat)) :=
  let fmt := (s.node ten j.node).fmt
  (List.range 1024).mapM (fun i =>
    let k := 32 * kb + i / 32
    let n := tileCols fmt * nb + (if fmt = 1 then i % 32 / 2 else i % 32)
    if k < j.k ∧ n < j.n then s.bElem ten j.node j.k j.n k n else some (0, 0))

/-- A tile that holds those elements: the cells, at nibble 32k + c with the low nibble of an INT8 element first (log
entry 39), the type, and the scale byte of each 16 rows of a column. -/
def tileOf (fmt : Nat) (g : TileTag) (use : Nat) (es : List (Nat × Nat)) : Tile :=
  { typ := if fmt = 12 then (es.headD (0, 0)).2 / 64 else 0,
    cells := packElems 4 ((es.zipIdx).map (fun e => if fmt = 1 then elemOf e.1.1 4 (e.2 % 2) else e.1.1)),
    scales := (List.range 64).map (fun i => (es.getD (512 * (i / 32) + i % 32) (0, 0)).2),
    tag := some g, used := use }

/-- Make the tile of K block kb and N block nb resident, loading it where it is missing or stale; a poisoned word of B ends
the job (19 R355). It answers the tile's index. -/
def needTile (o : Nat) (j : JobP) (kb nb : Nat) : M Nat := do
  let ten ← getTen
  let s ← get
  let x := s.octet o
  let d := s.node ten j.node
  let g : TileTag := { ten := ten, node := j.node, ver := d.version, k := j.k, n := j.n, kb := kb, nb := nb }
  let use := x.lastUse + 1
  match x.findTile g with
  | some i => do
    (match x.tiles.get none i with
      | some t => set (s.setOctet o { x with tiles := x.tiles.set none i (some { t with used := use }) })
      | none => pure ())
    pure i
  | none =>
    match s.tileElems ten j kb nb with
    | none => trap cPOISON j.node
    | some es => do
      let i := s.victimTile x
      set ((s.setOctet o { x with tiles := x.tiles.set none i (some (tileOf d.fmt g use es)) }).countOctet o 35 1)
      pure i

/-- The value that a resident tile holds for row k and column n, counted in the tile. -/
def Tile.value (t : Tile) (fmt k n : Nat) : FV :=
  if fmt = 1 then bValue 1 (elemOf t.cells 8 (16 * k + n)) 0
  else bValue fmt (elemOf t.cells 4 (32 * k + n)) (t.scales.getD (32 * (k / 16) + n) 0)

/-! ### Reading A, and the product -/

/-- Element index e of a dense operand at base: its bits and scale byte; its page has the operand's format. -/
def operandElem (fmt geom base e : Nat) : M (Nat × Nat) := do
  let ten ← getTen
  let s ← get
  let bits := fmtBits fmt
  let va := base + e * bits / 8
  let (loc, pg) ← checkShadowed va .read (fun _ pg => pg.fmt != fmt || (fmt == 12 && pg.geom != geom)) (shadowAt s ten va) (fun _ => pure ())
  let r ← readElem va (e % 2) bits loc pg .home
  noPoison r.bad
  pure (r.x, r.sb)

/-- The format and geometry of the page at an address. -/
def pageFormat (va : Nat) : M (Nat × Nat) := do
  let (_, pg) ← checkAccess va .read anyPage
  pure (pg.fmt, pg.geom)

/-- Row i of A. -/
def readRow (j : JobP) (fmt geom i : Nat) : M (List AElem) :=
  (List.range j.k).mapM (fun k => do
    let (x, sb) ← operandElem fmt geom j.a (i * j.k + k)
    pure (aElem fmt x sb))

/-- A's format, one of those of 12 R248, and its axis along K (03 R58); a BS4 A has no split (03 R65). -/
def aFormat (j : JobP) (map : List Nat) : M (Nat × Nat) := do
  let (fmt, geom) ← pageFormat j.a
  if !([1, 2, 14, 12, 8].contains fmt) || j.a % (max 1 (fmtBits fmt / 8)) != 0 then trap cFORMAT j.a
  if fmt = 12 then
    if 4 ≤ geom then trap cFORMAT_AXIS j.a
    if j.k % (16 * 2 ^ (geom % 4)) ≠ 0 || !map.isEmpty then trap cFORMAT j.a
  pure (fmt, geom)

/-- FP32 word i of an operand of raw or FP32 words at base. -/
def word32 (base i : Nat) : M Nat := do
  let va := base + 4 * i
  let (loc, pg) ← checkAccess va .read (fun _ pg => pg.fmt != 0 && pg.fmt != 10)
  let bs ← readLoc va loc pg 4 .home
  pure (ofBytes bs)

/-- The Y elements encoded, row-major. -/
def encodeY (fmt : Nat) (ys : List Nat) : List Byte :=
  let f := (fmtFloat fmt).getD fp32
  ys.flatMap (fun y => bytesOf (f.width / 8) (encodeF f .rne (decodeF fp32 y)).bits)

/-- Y is written in pages of RAW or YFMT. -/
def writeY (va fmt : Nat) (ys : List Nat) : M Unit :=
  writeRange va (encodeY fmt ys) (fun _ pg => pg.fmt != 0 && pg.fmt != fmt)

/-! ### MELIN (08 R175) -/

/-- Node n, or one of its ancestors, is r. -/
def State.descends (s : State) (ten r : Nat) : Nat → Nat → Bool
  | 0, _ => false
  | fuel + 1, n => n == r || (n != 0 && s.descends ten r fuel (s.node ten n).parent)

/-- The descendants of a MELIN: the node ids of its list. -/
def readKids (j : JobP) : M (List Nat) := do
  let bs ← readRange j.c (4 * j.b3) anyPage
  let ns := (List.range j.b3).map (fun i => fieldAt bs (4 * i) 4)
  let ten ← getTen
  let s ← get
  match ns.find? (fun n => 2 ^ 24 ≤ n || s.nodeInvalid ten n || !(s.descends ten j.node 8 n)) with
  | some n => trap cNODE_INVALID n
  | none => do
    match ns.find? (fun n => (s.node ten n).state == 3) with
    | some n => trap cNODE_RETIRED n
    | none => pure ns

/-- The correction of one element for a descendant: the exact sum of x(k)·δ(k), rounded once (08 R175). -/
def correct (y : Nat) (xs root kid : List FV) : Nat :=
  if root = kid then y
  else accAdd y (exactDot xs ((root.zip kid).map (fun p => if p.1 = p.2 then FV.zero else (addV false p.2 (negV p.1)).getD (.nan false))))

/-! ### Takes (15 R296 to R303) -/

/-- K blocks per row. -/
def takeKb (k mapn : Nat) : Nat := ceilDiv k 32 + (if mapn = 0 then 0 else 1)

/-- The first line of the qA and Y regions, and LINES. -/
def takeLines (m kb n : Nat) : Nat × Nat × Nat :=
  let a := ceilDiv (4 * m * kb) 256
  let b := a + ceilDiv (32 * m * kb) 256
  (a + 1, b + 1, b + 1 + ceilDiv (4 * m * n) 256)

/-- The header line of a take (15 R299). -/
def takeHeader (v : Bool) (ten count layer node ver m k n kb lines : Nat) (map : List Nat) : List Byte :=
  let w0 := (if v then 2 ^ 63 else 0) + ten * 2 ^ 59 + count * 2 ^ 48 + layer * 2 ^ 32 + node
  bytesOf 8 w0 ++ bytesOf 8 ver ++ bytesOf 8 (m * 2 ^ 32 + k * 2 ^ 16 + n) ++ bytesOf 8 (map.length * 2 ^ 32 + kb * 2 ^ 16 + lines % 2 ^ 16)
    ++ byteSlice (map.flatMap (bytesOf 2)) 0 64 ++ List.replicate 160 0

/-- Bytes padded to whole lines. -/
def padLines (bs : List Byte) : List Byte := byteSlice bs 0 (ceilDiv bs.length 256 * 256)

/-- Units of a die's part that some take of the tenant holds. -/
def State.takeUsed (s : State) (d ten : Nat) : List (Nat × Nat) :=
  s.takes.filterMap (fun e => match e.2 with
    | some x => if e.1 / 4096 = d ∧ x.ten = ten then some (x.offset, x.units) else none
    | none => none)

/-- The lowest run of u free units. -/
def State.takeRun (s : State) (d ten u : Nat) : Option Nat :=
  let size := (s.takePart ten d).2 / 4096
  (List.range (size + 1 - u)).find? (fun o => !((s.takeUsed d ten).any (fun r => r.1 < o + u && o < r.1 + r.2)))

/-- The takes of a die that may be freed: none that is BUSY. The oldest STAMP first, then the lowest index. -/
def State.takeOldest (s : State) (d : Nat) (p : TakeDir → Bool) : Option Nat :=
  (s.takesWith (fun k e => k / 4096 == d && p e && !(s.takeIsBusy d e.ten e.layer))).foldl (fun (b : Option Nat) k =>
    let st (i : Nat) : Nat := match s.takes.get none i with | some e => e.stamp.toNat | none => 0
    match b with
    | some i => if st k < st i then some k else b
    | none => some k) none

/-- Free the tenant's takes until a run fits. -/
def State.takeFit (s : State) (d ten u : Nat) : Nat → State × Option Nat
  | 0 => (s, none)
  | fuel + 1 =>
    match s.takeRun d ten u with
    | some o => (s, some o)
    | none => match s.takeOldest d (fun e => e.ten == ten) with
      | some k => (s.dropTake k).takeFit d ten u fuel
      | none => (s, none)

/-- A free directory entry of a die, freeing the oldest take where there is none. -/
def State.takeEntry (s : State) (d : Nat) : State × Option Nat :=
  match (List.range 4096).find? (fun i => (s.takes.get none (4096 * d + i)).isNone) with
  | some i => (s, some (4096 * d + i))
  | none => match s.takeOldest d (fun _ => true) with
    | some k => (s.dropTake k, some k)
    | none => (s, none)

/-- TAKE_REPLACE: room for a refresh of (die, tenant, layer) of so many lines (15 R300). -/
def State.takeReplace (s : State) (d ten layer lines : Nat) : State × Option Nat :=
  let s := match s.takeKey d ten layer with | some k => s.dropTake k | none => s
  let u := ceilDiv lines 16
  if (s.takePart ten d).2 / 4096 < u then (s, none)
  else match s.takeFit d ten u 4097 with
    | (s, none) => (s, none)
    | (s, some off) => match s.takeEntry d with
      | (s, none) => (s, none)
      | (s, some k) =>
        ({ s with takes := s.takes.set none k (some { ten := ten, layer := layer, stamp := BitVec.ofNat 32 (s.time / 16), units := u, offset := off }) }, some k)

/-- Bytes of the take lines from line `l`. -/
def State.takeBytes (s : State) (k : Nat) (e : TakeDir) (l n : Nat) : List Byte := s.homeBytes (s.takeLine (k / 4096) e l) n

/-- An MEDL as read: its operands, scales and quantisation. -/
structure Medl where
  map    : List Nat
  kb     : Nat
  scales : List Nat
  q      : List (List (List Int))
  sat    : Bool

/-- The value of an element of A that MEDL takes, BF16 or FP32. -/
def medlRow (j : JobP) (fmt : Nat) (map : List Nat) (i : Nat) : M (List (List FV)) := do
  let row ← (List.range j.k).mapM (fun k => do
    let (x, _) ← operandElem fmt 0 j.a (i * j.k + k)
    pure ({ v := decodeElem fmt x, q := 0, full := 16 } : AElem))
  let (main, twins) := splitRow 8 map row
  pure ((chunksOf 32 j.k (main.map (·.v))) ++ (if map.isEmpty then [] else [twins.map (·.v)]))

/-- A scale that the engine refuses: anything but a positive normal number (15 R301). -/
def scaleBad (x : Nat) : Bool := x.testBit 31 || bitsOf x 30 23 == 0 || bitsOf x 30 23 == 255

/-- q of one element under its scale, and whether it saturates (15 R301). -/
def medlQuant (a : FV) (s : Nat) : Int × Bool :=
  match quotV a (decodeF fp32 s) with
  | none => (0, true)
  | some (.nan _) => (0, true)
  | some (.inf neg) => (if neg then -128 else 127, true)
  | some (.fin neg n d) =>
    let x := (roundInt .rne neg n d).1
    if 127 < x then (127, true) else if x < -128 then (-128, true) else (x, false)

/-- Read and quantise an MEDL's operands, with the checks made before its lookup (15 R301). -/
def medlRead (j : JobP) : M Medl := do
  let map ← readMap j
  checkShape j
  let (fmt, _) ← pageFormat j.a
  if (fmt != 8 && fmt != 10) || j.a % (fmtBits fmt / 8) != 0 then trap cFORMAT j.a
  let kb := takeKb j.k map.length
  let scales ← (List.range (j.m * kb)).mapM (word32 j.c)
  if scales.any scaleBad then trap cFORMAT j.c
  let rows ← (List.range j.m).mapM (medlRow j fmt map)
  let q := (rows.zipIdx).map (fun r => (r.1.zipIdx).map (fun b => b.1.map (fun a => medlQuant a (scales.getD (r.2 * kb + b.2) 0))))
  pure { map := map, kb := kb, scales := scales, q := q.map (fun r => r.map (fun b => b.map (·.1))),
         sat := q.any (fun r => r.any (fun b => b.any (·.2))) }

/-- qA of a take, block by block. -/
def State.takeQa (s : State) (k : Nat) (e : TakeDir) (line blocks : Nat) : List (List Int) :=
  let bs := s.takeBytes k e line (32 * blocks)
  (List.range blocks).map (fun b => (List.range 32).map (fun i => sext (fieldAt bs (32 * b + i) 1) 8))

/-- A block padded to 32 integers. -/
def pad32 (q : List Int) : List Int := q ++ List.replicate (32 - q.length) 0

/-- Δ of a job against a take (08 R176). -/
def State.takeDelta (s : State) (k : Nat) (e : TakeDir) (j : JobP) (x : Medl) : List (List (List Int)) :=
  let qa := s.takeQa k e (takeLines j.m x.kb j.n).1 (j.m * x.kb)
  (x.q.zipIdx).map (fun r => (r.1.zipIdx).map (fun b =>
    ((pad32 b.1).zip (qa.getD (r.2 * x.kb + b.2) [])).map (fun p => p.1 - p.2)))

/-- LINES of a take, of which its header holds the low 16 bits: the number that its units hold (15 R299, R300). -/
def State.takeLen (s : State) (k : Nat) (e : TakeDir) : Nat :=
  let n := s.homeNat (s.takeLine (k / 4096) e 0 + 24) 2
  n + (16 * e.units - n) / 2 ^ 16 * 2 ^ 16

/-- Some line of a take is poisoned. -/
def State.takePoisoned (s : State) (k : Nat) (e : TakeDir) : Bool :=
  s.homePoisoned (s.takeLine (k / 4096) e 0) (256 * s.takeLen k e)

/-- The conditions 2 to 8 of 15 R302, in their order. -/
def State.takeFits (s : State) (k : Nat) (e : TakeDir) (j : JobP) (x : Medl) : Bool :=
  let h := s.takeBytes k e 0 256
  let w0 := fieldAt h 0 8
  let limit := if j.b3 = 0 then 16 else j.b3
  bitsOf w0 23 0 == j.node && fieldAt h 8 4 == (s.node e.ten j.node).version
    && fieldAt h 16 2 == j.n && fieldAt h 18 2 == j.k && fieldAt h 20 2 == j.m
    && fieldAt h 28 1 == x.map.length && (List.range x.map.length).map (fun i => fieldAt h (32 + 2 * i) 2) == x.map
    && bitsOf w0 54 48 < limit
    && s.takeBytes k e 1 (4 * x.scales.length) == x.scales.flatMap (bytesOf 4)
    && !x.sat
    && (s.takeDelta k e j x).all (fun r => r.all (fun b => b.all (fun d => -32 ≤ d && d ≤ 31)))

/-- The lookup's decision: the valid take on the delta path, or none for the full path. A poisoned take is dropped
(15 R302). -/
def State.takeDecide (s : State) (d : Nat) (j : JobP) (ten : Nat) (x : Medl) : State × Option (Nat × TakeDir) :=
  match s.takeKey d ten j.layer with
  | none => (s, none)
  | some k => match s.takes.get none k with
    | none => (s, none)
    | some e =>
      if s.takePoisoned k e then (s.dropTake k, none)
      else if (s.homeNat (s.takeLine d e 0) 8).testBit 63 && s.takeFits k e j x then (s, some (k, e)) else (s, none)

/-- Blocks of integers as A blocks. -/
def qBlock (q : List Int) : ABlock := { vals := q.map FV.ofInt, q := q, nan := false, planes := planesSigned q }

/-- Write a take at its end: header, and the regions that changed (15 R303, R306). -/
def State.takeWrite (s : State) (o k : Nat) (e : TakeDir) (line : Nat) (bs : List Byte) : State :=
  s.homeWrite (960 + o) (s.takeLine (k / 4096) e line) bs

/-- The take's qA and Y regions as bytes. -/
def takeBody (q : List (List (List Int))) (ys : List Nat) : List Byte :=
  padLines (q.flatMap (fun r => r.flatMap (fun b => (pad32 b).map (fun x => BitVec.ofInt 8 x)))) ++ padLines (ys.flatMap (bytesOf 4))

/-! ### Tile steps (12 R248, R251) -/

/-- N blocks of a job. -/
def State.progCols (s : State) (ten : Nat) (j : JobP) : Nat := ceilDiv j.n (tileCols (s.node ten j.node).fmt)

/-- The tile steps of a job, the skipped ones included: of an MELOAD the tiles of B; of the others row by row, N block by N
block, K block by K block, and then the corrections of a MELIN's descendants (log entry 103). -/
def State.progSteps (s : State) (ten : Nat) (j : JobP) (g : Prog) : Nat :=
  (if j.kind = 1 then 1 else j.m) * s.progCols ten j * (g.kb + g.kids.length)

/-- The B rows of K block kb: those of the block, or the map's for the twins (03 R66). -/
def progRows (j : JobP) (g : Prog) (kb : Nat) : List Nat := (blockRows j.k g.map).getD kb []

/-- K block kb of row i of A, and the factor of its sums: as read, or of an MEDL as quantised, less the take's qA on the
delta path (12 R248, 15 R303). -/
def progBlock (j : JobP) (g : Prog) (delta : Bool) (i kb : Nat) : M (ABlock × FV) := do
  if j.kind = 4 then do
    let s ← get
    let q := pad32 ((g.q.getD i []).getD kb [])
    let b := i * g.kb + kb
    let d := match g.take with
      | some (k, e) => if delta then (q.zip ((s.takeQa k e ((takeLines j.m g.kb j.n).1 + b / 8) 8).getD (b % 8) [])).map (fun p => p.1 - p.2) else q
      | none => q
    pure (qBlock d, decodeF fp32 (g.scales.getD b 0))
  else do
    let twins := kb == ceilDiv j.k 32
    let es ← (progRows j g kb).mapM (fun k => do
      let (x, sb) ← operandElem g.fmt g.geom j.a (i * j.k + k)
      let e := aElem g.fmt x sb
      pure (if twins then (splitElem g.fmt e).2 else if g.map.contains k then (splitElem g.fmt e).1 else e))
    pure (aBlock g.fmt es, .fin false 1 1)

/-- The first accumulators of row i's elements in columns `cols`: C, the take's Y on the delta path, or zero. -/
def progStart (j : JobP) (g : Prog) (delta : Bool) (i : Nat) (cols : List Nat) : M (List Nat) := do
  if j.kind = 2 ∧ j.acc = true then cols.mapM (fun n => word32 j.c (i * j.n + n))
  else do
    let s ← get
    match (if delta then g.take else none) with
    | some (k, e) =>
      let (_, yl, _) := takeLines j.m g.kb j.n
      pure (cols.map (fun n => let b := 4 * (i * j.n + n); fieldAt (s.takeBytes k e (yl + b / 256) 256) (b % 256) 4))
    | none => pure (cols.map (fun _ => 0))

/-- One tile step: the columns' accumulators after a block against its resident tiles, and the planes spent by each macro;
a block without planes is skipped (12 R248). -/
def progSum (o : Nat) (j : JobP) (g : Prog) (nb : Nat) (cols rows acc : List Nat) (b : ABlock) (x : FV) : M (List Nat × SMap Nat) := do
  if b.planes = 0 then pure (acc, g.spent)
  else do
    let ten ← getTen
    let kbs := rows.foldl (fun (l : List Nat) k => if l.contains (k / 32) then l else l ++ [k / 32]) []
    let is_ ← kbs.mapM (fun kb => needTile o j kb nb)
    let s ← get
    let fmt := (s.node ten j.node).fmt
    let tile (k : Nat) : Option Tile := match (kbs.zip is_).find? (fun p => p.1 == k / 32) with
      | some p => (s.octet o).tiles.get none p.2
      | none => none
    let w := tileCols fmt
    let acc := (acc.zip cols).map (fun p => accAdd p.1 ((mulV x (blockSum b (rows.map (fun k => match tile k with
      | some t => t.value fmt (k % 32) (p.2 % w)
      | none => FV.zero)))).getD (.nan false)))
    let m := is_.headD 0 % 64
    pure (acc, g.spent.set 0 m (g.spent.get 0 m + b.planes))

/-- The place of the elements of row i in columns `cols`, in the Y of a MELIN's descendant k, counted from 1, or of the root
(12 R249). -/
def yPlace (j : JobP) (k i : Nat) (cols : List Nat) : Nat := j.y + ((k * j.m + i) * j.n + cols.headD 0) * ySize j.yfmt

/-- The elements of descendant k of a MELIN, corrected from the root's (08 R175). -/
def progKid (j : JobP) (g : Prog) (k i : Nat) (cols : List Nat) : M Unit := do
  let ks := List.range j.k ++ g.map
  let row ← readRow j g.fmt g.geom i
  let xs := (rowBlocks g.fmt g.map row).flatMap (fun b => if b.nan then b.vals.map (fun _ => FV.nan false) else b.vals)
  let roots ← cols.mapM (fun n => bColumn j j.node n ks)
  let kid ← cols.mapM (fun n => bColumn j (g.kids.getD k 0) n ks)
  writeY (yPlace j (k + 1) i cols) j.yfmt ((g.acc.zip (roots.zip kid)).map (fun p => correct p.1 xs p.2.1 p.2.2))

/-- The block step of row i: the columns' accumulators after K block kb, and after the last block their elements are
written at Y. It answers the progress, and whether the engine spent a step on the block. -/
def blockStep (o : Nat) (j : JobP) (g : Prog) (delta : Bool) (i nb kb : Nat) (cols : List Nat) : M (Prog × Bool) := do
  let acc ← if kb = 0 then progStart j g delta i cols else pure g.acc
  let (b, x) ← progBlock j g delta i kb
  let (acc, spent) ← progSum o j g nb cols (progRows j g kb) acc b x
  let live := b.planes != 0
  modify (fun s => if live then s.countOctet o 32 1 else if nb = 0 then s.countOctet o 34 1 else s)
  let last := kb + 1 == g.kb
  let ys := if last ∧ j.kind = 4 then (acc.zip cols).foldl (fun m p => m.set 0 (i * j.n + p.2) p.1) g.ys else g.ys
  if last then writeY (yPlace j 0 i cols) j.yfmt acc
  pure ({ g with pos := g.pos + 1, acc := acc, spent := spent, ys := ys }, live)

/-- The next tile step of a job: its progress after it, and whether the engine spent a step on it. Each step writes one
range at most, so that a page that it lacks leaves the steps before it done (14 R292). -/
def tileStep (o : Nat) (j : JobP) (g : Prog) (delta : Bool) : M (Prog × Bool) := do
  let ten ← getTen
  let s ← get
  let nbs := s.progCols ten j
  let per := g.kb + g.kids.length
  let r := g.pos % per
  let nb := g.pos / per % nbs
  let i := g.pos / (per * nbs)
  if j.kind = 1 then do
    let _ ← needTile o j r nb
    pure ({ g with pos := g.pos + 1 }, true)
  else do
    let w := tileCols (s.node ten j.node).fmt
    let cols := (List.range w).map (w * nb + ·) |>.filter (· < j.n)
    if r < g.kb then blockStep o j g delta i nb r cols
    else do
      progKid j g (r - g.kb) i cols
      pure ({ g with pos := g.pos + 1 }, false)

/-- What a job reads before its first tile step, with the checks made then: the map, B's shape, a MELIN's descendants, and
A's format (12 R249). -/
def startProg (p : List Byte) : M Prog := do
  let j := parseJob p
  if !(jobOk p) then trap cFORMAT 0
  let map ← if j.kind = 1 then pure [] else readMap j
  checkShape j
  let kids ← if j.kind = 3 then readKids j else pure []
  let (fmt, geom) ← if j.kind = 1 then pure (0, 0) else aFormat j map
  pure { map := map, fmt := fmt, geom := geom, kb := ceilDiv j.k 32 + (if map.isEmpty then 0 else 1), kids := kids, q := [],
         scales := [], take := none, pos := 0, acc := [], ys := [], spent := [] }

/-- The start of an MEDL's tile steps, once it has been read (15 R301, R302). -/
def Medl.prog (x : Medl) (take : Option (Nat × TakeDir)) : Prog :=
  { map := x.map, fmt := 0, geom := 0, kb := x.kb, kids := [], q := x.q, scales := x.scales, take := take, pos := 0, acc := [], ys := [],
    spent := [] }

/-- The engine writes the take of an MEDL whose tile steps are done: qA and Y, and on the full path its scales (15 R303,
R306). The header's fields follow at the job's end. -/
def State.progTake (s : State) (o : Nat) (j : JobP) (g : Prog) (delta : Bool) : State :=
  match g.take with
  | none => s
  | some (k, e) =>
    let (qa, _, _) := takeLines j.m g.kb j.n
    let s := if delta then s else s.takeWrite o k e 1 (padLines (g.scales.flatMap (bytesOf 4)))
    s.takeWrite o k e qa (takeBody g.q ((List.range (j.m * j.n)).map (g.ys.get 0)))

end Sys2Proof.Machine
end

