-- ==== Sys2Proof/Machine/Fetch.lean ====
section
/-! DEFINITION. Which harts may issue, the instruction fetch and its checks, and decode on entry (04 R67 to R71, R82,
R89; 12 R245; 09 R207; 20 R367). -/

namespace Sys2Proof.Machine

/-- The key of a word in a core's instruction cache. -/
def icKey (core w : Nat) : Nat := core * 2 ^ 49 + w

/-- The hart may issue an instruction: it is READY, not stalled, not halted. An engine hart re-evaluates its own waits
when it issues. -/
def State.canIssue (s : State) : HartId → Bool
  | .core c t =>
    let x := s.thread c t
    x.ctx.run == .ready && !x.stall && !x.ctx.halted && !(s.core c).halted && !(s.core c).failed
  | .me o q =>
    let x := s.octet o
    (x.meCtx.get Ctx.zero q).run != .free && !x.halted && !x.meFailed
      && (match s.headJob o q with | some j => j.micro && !j.waitTake && j.ending.isNone | none => false)
      && !((s.faults.get [] (o / 6)).any (fun p => p.who == .hart (.me o q)))
  | .cu o ch =>
    let x := s.octet o
    (x.cuCtx.get Ctx.zero ch).run != .free && !x.halted && !x.cuFailed
      && (match x.chans.get none ch with | some r => r.micro && r.ending.isNone | none => false)
      && !((s.faults.get [] (o / 6)).any (fun p => p.who == .hart (.cu o ch)))

/-- What a fetch answers: the 64 bytes of the block, a fault, or a page fault. -/
inductive Fetched where
  | block (bytes : List Byte)
  | fault (cause val : Nat)
  | page

/-- One word of a block through a core's instruction cache, which a miss fills from the home (04 R71, R89): the state,
its bytes, and whether the home's word is poisoned. That a core fetches no block before a thread of it issues from the block
is the model's choice (log entry 95). -/
def State.fetchWord (s : State) (core w : Nat) : State × List Byte × Bool :=
  match s.icache.get none (icKey core w) with
  | some x => (s, bytesOf 8 x.toNat, false)
  | none =>
    let x := s.homeWord w
    ({ s with icache := s.icache.set none (icKey core w) (some x) }, bytesOf 8 x.toNat, s.poison.get false w)

/-- The block at a physical address through a core's instruction cache; poisoned data is not kept. -/
def State.fetchDev (s : State) (core va pa : Nat) : State × Fetched :=
  match s.regionOf pa with
  | .pcie => ({ s with freeCtr := s.freeCtr + 1 }, .block (bytesOf 64 (Config.freeNat s.freeCtr)))
  | _ =>
    let r := (List.range 8).foldl (fun (r : State × List Byte × Bool) i =>
      let (s, bs, p) := r.1.fetchWord core (pa / 8 + i)
      (s, r.2.1 ++ bs, r.2.2 || p)) (s, [], false)
    if r.2.2 then (s, .fault cPOISON va) else (r.1, .block r.2.1)

/-- The fetch of a core thread, with the checks of 04 R71 in their order. -/
def State.fetchCore (s : State) (c t va : Nat) : State × Fetched :=
  let h := HartId.core c t
  let ten := (s.core c).tenant
  if 2 ^ 48 ≤ va then (s, .page)
  else match s.locate h ten va with
  | (s, none) => (s, .page)
  | (s, some (loc, pg)) =>
    match loc with
    | .ln _ _ =>
      if pg.s != s.frameWorld (s.nodeTable ten) then (s, .fault cWORLD va)
      else if !pg.x then (s, .fault cPROTECTION va) else (s, .fault cFORMAT va)
    | .scr key off =>
      if !pg.x then (s, .fault cPROTECTION va)
      else if s.scrPoisoned key off 64 then (s, .fault cPOISON va) else (s, .block (s.scrBytes key off 64))
    | .dev pa =>
      let reg := s.regionOf pa
      if reg == .unlisted || reg == .control || pg.home == 3 then (s, .page)
      else if ten != 16 && pg.s != s.frameWorld pa then (s, .fault cWORLD va)
      else if !pg.x then (s, .fault cPROTECTION va)
      else if pg.fmt != 0 then (s, .fault cFORMAT va)
      else s.fetchDev c va pa

/-- The fetch of an engine hart, by physical address (12 R245). -/
def State.fetchEngine (s : State) (va : Nat) : Fetched :=
  match s.regionOf va with
  | .hbm => if s.homePoisoned va 64 then .fault cPOISON va else .block (s.homeBytes va 64)
  | .cxl => if s.homePoisoned va 64 then .fault cPOISON va else .block (s.homeBytes va 64)
  | _ => .fault cPAGE_FAULT va

/-- The block that a hart's pc names. -/
def State.fetch (s : State) (h : HartId) : State × Fetched :=
  let va := (s.ctxOf h).pc.toNat / 64 * 64
  match h with
  | .core c t => s.fetchCore c t va
  | _ => (s, s.fetchEngine va)

/-- The word of slot k of a block, and the block word (04 R67). -/
def slotWord (bs : List Byte) (k : Nat) : BitVec 96 := BitVec.ofNat 96 (fieldAt bs (12 * k) 12)
def blockWord (bs : List Byte) : Nat := fieldAt bs 60 4

/-- An instruction issues: the thread's counter 0, and the counters of the slots (20 R374). A waiting or stalled
instruction that executes again has issued already. -/
def State.countIssue (s : State) (h : HartId) (op : Nat) : State :=
  match h with
  | .core c t =>
    let x := s.thread c t
    let s := s.setThread c t { x with skip := false }
    if x.waiting.isSome then s
    else if groupOf op == .D then ((s.countThread c t 0 1).countThread c t 1 1).countCore c 18 1
    else (s.countThread c t 0 1).countCore c 17 1
  | _ => s

/-- The decode error, with %mewt in D of a tenant-mode instruction taken in its place in the order (04 R82, 12 R252). -/
def State.decodeErr (s : State) (h : HartId) (w : BitVec 96) (e : DecErr) : DecErr :=
  if e.step = 3 ∧ (e.fbit = 20 ∨ e.fbit = 0) ∧ s.tenantMode h = true
    ∧ namesMewt (opOf w) (tFieldsOf w) = true ∧ valOk (fieldD w) = true then ⟨3, 40⟩ else e

/-- The instruction that a hart is about to run, decoded; none where its fetch or decode traps or its page is not
mapped (04 R68, R71, R82). -/
noncomputable def State.enterInstr (s : State) (h : HartId) : State × Option Instr :=
  match s.fetch h with
  | (s, .page) => (s.pageStop h none ((s.ctxOf h).pc.toNat / 64 * 64) .fetch false [], none)
  | (s, .fault k v) =>
    (s.takeTrap h k v (match h with | .core _ _ => .plain | _ => .raise) false [], none)
  | (s, .block bs) =>
    let w := slotWord bs ((s.ctxOf h).pc.toNat % 8)
    let s := s.countIssue h (opOf w)
    if blockWord bs ≠ 0 then (s.takeTrap h cILLEGAL_BLOCK (blockWord bs) .plain false [], none)
    else if assigned (opOf w) && !legalOn h.kind (opOf w) then (s.decodeTrap h w cILLEGAL_OPCODE 1 87, none)
    else match decode w with
      | .error e =>
        let e := s.decodeErr h w e
        (s.decodeTrap h w cILLEGAL_OPERAND e.step e.fbit, none)
      | .ok i => (s, some i)

/-- The opcode that a hart would issue next, where its fetch succeeds. -/
def State.nextOp (s : State) (h : HartId) : Option Nat :=
  match (s.fetch h).2 with
  | .block bs => some (opOf (slotWord bs ((s.ctxOf h).pc.toNat % 8)))
  | _ => none

/-- Choose(slot): the thread that a core issues in its scalar or vector slot, and the slot's new starvation count
(09 R207). -/
def State.choose (s : State) (c : Nat) (vec : Bool) : Option (Nat × Nat) :=
  let isVec (t : Nat) : Bool := match s.nextOp (.core c t) with | some op => groupOf op == .D | none => false
  let cand := (List.range 16).filter (fun t => s.canIssue (.core c t) && isVec t == vec)
  let oldest (l : List Nat) : Option Nat :=
    l.foldl (fun b t => match b with
      | none => some t
      | some u => if (s.thread c t).stamp < (s.thread c u).stamp then some t else some u) none
  let low := cand.filter (fun t => (s.thread c t).ctx.low)
  let high := cand.filter (fun t => !(s.thread c t).ctx.low)
  let starved := if vec then (s.core c).starvedV else (s.core c).starvedS
  if starved = 7 ∧ !low.isEmpty then (oldest low).map (fun t => (t, 0))
  else match oldest high with
    | some t => some (t, if low.isEmpty then 0 else starved + 1)
    | none => (oldest low).map (fun t => (t, 0))

end Sys2Proof.Machine
end

