-- ==== Sys2Proof/Machine/Turns.lean ====
section
/-! DEFINITION. What a step does besides running an instruction: package time, the counters of an instruction's L1 traffic,
and how a core takes up a tenant (14 R293; 20 R374). -/

namespace Sys2Proof.Machine

/-! ### Issue -/

/-- The containment that a core thread still has to complete (09 R215). -/
def State.pendOf (s : State) : HartId → Option (Nat × Nat × Pend)
  | .core c t => (s.thread c t).pend.map (fun p => (c, t, p))
  | _ => none

/-- A PC comparator stops a core before a thread's instruction issues, but for the first issue after a resume
(20 R367). -/
def State.breakAt (s : State) (h : HartId) : Option State :=
  match h with
  | .core c t =>
    let x := s.thread c t
    if !x.skip && s.pcMatch c x.ctx.pc.toNat then some ((s.setThread c t { x with skip := true }).haltTrigger c 4) else none
  | _ => none

def State.setStarved (s : State) (c : Nat) (vec : Bool) (n : Nat) : State :=
  let x := s.core c
  s.setCore c (if vec then { x with starvedV := n } else { x with starvedS := n })

/-! ### A hart made ready by hand (log entry 13) -/

/-- A job packet and a copy packet that run microcode. -/
def readyJob : Job :=
  { packet := List.replicate 64 0, id := 1, ten := 16, core := 0, thread := 0, launch := none, running := true,
    micro := true, waitTake := false, cyc := 0, path := false, done := false, ending := none, prog := none }
def readyRun : CuRun :=
  { packet := List.replicate 64 0, queue := 0, qaddr := 0, seq := 0, ten := 16, micro := true, rows := [], next := 0, oor := 0,
    bytes := 0, sats := 0, fills := 0, fault := none, abort := false, done := false, ending := none }

/-- The pc at which a word is placed: the hart's own where it lies in HBM, else 0. -/
def State.placePc (s : State) (pc : Word) : Word := if pcOk pc.toNat && s.regionOf pc.toNat == .hbm then pc else 0

/-- A hart that the next step issues: a system-mode thread of the boot context, or a hart that runs a job or packet. -/
def State.readyHart (s : State) (h : HartId) : State :=
  let s := { s with schedule := [], hart := h, fatal := false, caught := false }
  match h with
  | .core c t =>
    let s := s.setCore c { s.core c with tenant := 16, halted := false, failed := false }
    let x := s.thread c t
    s.setThread c t { x with ctx := { x.ctx with run := .ready, halted := false, pc := s.placePc x.ctx.pc }, sys := true, stall := false,
                             waiting := none, skip := true, pend := none }
  | .me o q =>
    let x := s.octet o
    s.setOctet o { x with queues := x.queues.set [] q [readyJob], halted := false, meFailed := false,
                          meCtx := x.meCtx.set Ctx.zero q { x.meCtx.get Ctx.zero q with run := .ready, pc := s.placePc (x.meCtx.get Ctx.zero q).pc } }
  | .cu o ch =>
    let x := s.octet o
    s.setOctet o { x with chans := x.chans.set none ch (some readyRun), halted := false, cuFailed := false,
                          cuCtx := x.cuCtx.set Ctx.zero ch { x.cuCtx.get Ctx.zero ch with run := .ready, pc := s.placePc (x.cuCtx.get Ctx.zero ch).pc } }

/-- A word in slot k of the block at a physical address, whose block word is zero; the instruction cache of the core
holds no older copy. -/
def State.placeWord (s : State) (h : HartId) (a k w : Nat) : State :=
  let mem := writeBytes (writeBytes s.mem (a + 12 * k) (bytesOf 12 w)) (a + 60) [0, 0, 0, 0]
  let s := { s with mem := mem, poison := (List.range 8).foldl (fun p i => p.set false (a / 8 + i) false) s.poison,
                    faults := (s.faults.map (fun e => (e.1, e.2.filter (fun p => p.who != .hart h)))).filter (fun e => !e.2.isEmpty) }
  match h with
  | .core c _ => { s with icache := (List.range 8).foldl (fun m i => m.set none (icKey c (a / 8 + i)) none) s.icache }
  | _ => s

/-! ### Package time -/

/-- The counter of ACLK that a run state spends (20 R374). -/
def stateCounter : RunState → Option Nat
  | .ready => some 2
  | .waitLate => some 3
  | .waitChannel => some 4
  | .waitJob => some 5
  | .waitAcq => some 6
  | .waitTime => some 7
  | _ => none

/-- The clusters on which a launch holds cores that run it: its tenant's, and not in debug halt (19 R360). -/
def State.activeClusters (s : State) (x : Launch) : List Nat :=
  (List.range 20).filter (fun cl => (List.range 48).any (fun j =>
    let c := 48 * cl + j
    x.mask.testBit (c / 8) && (s.core c).tenant == x.ten && !(s.core c).halted))

/-- The watchdog counts advance, in ns, keyed by launch·32 + cluster (19 R360). -/
def State.tickWatchdogs (s : State) (ns : Nat) : State :=
  { s with wdog := s.launches.foldl (fun m e => match e.2 with
      | some x => if x.started ∧ x.failed.isNone then
          (s.activeClusters x).foldl (fun m cl => m.set 0 (32 * e.1 + cl) (m.get 0 (32 * e.1 + cl) + ns)) m
        else m
      | none => m) s.wdog }

/-- Time passes: ns of package time, and ACLK on each die. The threads that a core runs count them by run state
(20 R374). -/
def State.tick (s : State) (ns : Nat) (aclk : List Nat) : State :=
  let s := s.tickWatchdogs ns
  let s := { s with time := s.time + ns,
                    aclk := (aclk.zipIdx).foldl (fun m (n, d) => m.set 0 d (m.get 0 d + n)) s.aclk }
  s.threads.foldl (fun s e =>
    let c := e.1 / 16 % 1024
    if (s.core c).tenant == e.1 / 16 / 1024 then
      match stateCounter e.2.ctx.run with
      | some i => s.countThread c (e.1 % 16) i (aclk.getD (dieOfCore c) 0)
      | none => s
    else s) s

/-! ### Counters of L1 traffic -/

/-- The L1 sectors filled between two states, and the dirty words written back. -/
def l1Fills (s t : State) : Nat :=
  ((t.l1.filter (fun e => match e.2 with | some x => !x.dirty && (s.l1.get none e.1).isNone | none => false)).foldl
    (fun (l : List Nat) e => if l.contains (e.1 / 16) then l else e.1 / 16 :: l) []).length
def l1WrittenBack (s t : State) : Nat :=
  (s.l1.filter (fun e => match e.2 with
    | some x => x.dirty && (match t.l1.get none e.1 with | some y => !y.dirty | none => true)
    | none => false)).length

/-- An instruction's sector fills and written words count for its thread and core (20 R374). -/
def State.account (t s : State) (h : HartId) : State :=
  match h with
  | .core c k =>
    if t.l1 = s.l1 then t
    else
      let f := l1Fills s t
      let w := l1WrittenBack s t
      let t := if f = 0 then t else t.countCore c 20 f
      if (t.thread c k).start = (s.thread c k).start ∧ (f ≠ 0 ∨ w ≠ 0) then (t.countThread c k 8 f).countThread c k 9 w else t
  | _ => t

/-! ### A core takes up a tenant (14 R293) -/

/-- The slice that a tenant has on a core, in ns: of the launch last started on its cluster (14 R283, R293). -/
def State.sliceFor (s : State) (c ten : Nat) : Nat := s.lastSlice.get 0 (ten * 32 + clusterOfCore c)

/-- A thread whose image was saved while it was out resumes from the image; a late entry that the core rejects traps
(02 R37, R38). That %eval is then 0, since the image has no virtual address, is the model's choice (log entry 102). -/
def State.restore (s : State) (c t : Nat) : State :=
  let x := s.thread c t
  if x.saved then
    let (ctx, ok) := ctxOfImage (s.homeBytes (s.imageAt (s.core c).tenant c t) 0x4000)
    let s := s.setThread c t { x with ctx := ctx, saved := false }
    if ok then s else s.takeTrap (.core c t) cILLEGAL_OPERAND 0 .plain false []
  else s

/-- A WATCHDOG trap that is due reaches its thread (19 R360). -/
def State.takeDue (s : State) (c t : Nat) : State :=
  let x := s.thread c t
  if x.due then (s.setThread c t { x with due := false }).takeTrap (.core c t) cWATCHDOG 0 .plain false [] else s

/-- A core runs a tenant: its slice starts, its threads resume, their held values are delivered, and its free threads take
work (14 R293, 11 R242). -/
def State.runTenant (s : State) (c ten : Nat) : State :=
  let s := s.setCore c { s.core c with tenant := ten }
  let n := s.sliceFor c ten
  let s := { s with slices := s.slices.set 0 c (if n = 0 then 0 else s.time + n) }
  let s := (List.range 16).foldl (fun s t => ((s.restore c t).resumeSyms c t).takeDue c t) s
  s.feed c

end Sys2Proof.Machine
end

