-- ==== Sys2Proof/Machine/System.lean ====
section
/-! DEFINITION. Group J: system calls, interrupts, traps and their return, special registers, translation caches, time,
halts, caches, counters, the log ring and scratchpad addresses (08 R187 to R191; 18 R341, R342; 20 R374). -/

namespace Sys2Proof.Machine

/-! ### System calls (08 R188, 18 R341, R342) -/

/-- The physical address of cluster cl's service queue descriptor, 0 for none. -/
def State.svcq (s : State) (cl : Nat) : Nat := bitsOf (s.ctlWord (0x400000 + cl * 0x10000)).toNat 51 6 * 64

/-- The control core of a cluster. -/
def controlCoreOf (cl : Nat) : Nat := cl / 5 * 6 + cl % 5

/-- A service request (08 R188). -/
def serviceRequest (seq fn ten t core sym : Nat) (b : List Byte) : List Byte :=
  bytesOf 4 seq ++ bytesOf 2 fn ++ bytesOf 1 ten ++ bytesOf 1 t ++ bytesOf 2 core ++ bytesOf 1 sym ++ bytesOf 5 0 ++ b

/-- Post request seq: the claim and the slot at their homes, the record of the pending request, and the interrupt. -/
def State.postService (s : State) (c t fn sym seq slot : Nat) (b : List Byte) : State :=
  let cl := clusterOfCore c
  let d := s.svcq cl
  let ten := (s.core c).tenant
  let s := s.homeWriteNat (coreAgent c) d 4 ((seq + 1) % 2 ^ 32)
  let s := s.homeWrite (coreAgent c) slot (serviceRequest seq fn (ten % 16) t (s.cidOf c) sym b)
  let r : Service := { cl := cl, seq := seq, core := c, thread := t, sym := sym, ten := ten }
  let s : State := { s with services := s.services ++ [r] }
  let id := (s.ctlWord (0x400008 + cl * 0x10000)).toNat % 2048
  (if id = 0 then s else s.irq (controlCoreOf cl) id).countCluster cl 54 1

def syscBody (f : TFields) : M Unit := do
  let fn ← readNat f.a
  let b ← readVecOp f.b
  require (fn < 2 ^ 16) fn
  onCore (fun c t => do
    let s ← get
    let cl := clusterOfCore c
    let d := s.svcq cl
    let seq := s.homeNat d 4
    let slot := s.homeNat (d + 16) 8 + 64 * (seq % 2 ^ (s.homeNat (d + 24) 1 % 16))
    if d ≠ 0 ∧ 2 ^ (s.homeNat (d + 24) 1 % 16) ≤ (seq + 2 ^ 32 - s.homeNat (d + 8) 4) % 2 ^ 32 then
      (if nbBit f then stop .report else stop (.wait .waitChannel 257 0))
    else do
      let i ← allocSym false (.service cl seq) 1
      fenceRelease 4
      bindLate (destKey f.d) i
      modify (fun s => if d = 0 then s.poisonSym c i cSOFTWARE else s.postService c t fn i seq slot (bytesOf 48 b)))

def execSysc (f : TFields) (s : State) : Out := runT 0x1B0 f (syscBody f) s

/-! ### Interrupts (08 R189) -/

/-- The control core is in the tenant's grant. -/
def State.grantsCore (s : State) (ten cc : Nat) : Bool :=
  if cc < 16 then (s.descWord ten 12).testBit cc else (s.descWord ten 13).testBit (cc - 16)

def execIntr (f : TFields) (s : State) : Out :=
  runT 0x1B1 f (do
    let x ← readNat f.a
    let cc := x % 32
    let id := bitsOf x 26 16
    require (x < 2 ^ 27 && bitsOf x 15 5 == 0 && cc < 24 && 1 ≤ id) x
    let h ← getHart
    let ten ← getTen
    let s ← get
    let w := s.descWord ten 12
    if s.tenantMode h && !(s.grantsCore ten cc && bitsOf w 31 16 ≤ id && id ≤ bitsOf w 47 32) then trap cPROTECTION 0
    if ordRel f then fenceRelease 4
    modify (fun s => s.irq cc id)) s

/-! ### Traps by instruction, and their return (08 R189) -/

def execTrap (f : TFields) (s : State) : Out :=
  runT 0x1B2 f (do
    let x ← readNat f.a
    let c ← getCtx
    if c.tvec = 0 then stop (.raise x) else trap cSOFTWARE x) s

def execEret (f : TFields) (s : State) : Out :=
  runT 0x1B3 f (do
    let x ← readOp f.a
    let c ← getCtx
    returnTo (if f.a == .none then c.epc else x)) s

/-! ### Special registers by RDX and WRX (08 R190) -/

/-- The number of a special register field. -/
def specialNum : Operand → Nat
  | .x n => n.toNat
  | _ => 0

/-- The hart whose registers RDX and WRX name. -/
def rdxTarget (b : Operand) : M HartId := do
  let x ← readNat b
  let h ← getHart
  if b == .none then pure h
  else do
    require (x < 2 ^ 20 && bitsOf x 15 10 == 0 && x % 1024 < 960) x
    pure (.core (x % 1024) (x / 2 ^ 16))

def execRdx (f : TFields) (s : State) : Out :=
  runT 0x1B4 f (do
    let n := specialNum f.a
    let k ← rdxTarget f.b
    if specialOpen k n then do
      let x ← freeValue
      writeNat f.d (x &&& openMask n)
    else do
      let s ← get
      writeNat f.d (s.special k n)) s

/-- Write a special register of another thread, which is in debug halt or FREE. -/
def writeRemote (k : HartId) (n : Nat) (v : Word) (b : Nat) : M Unit := do
  let s ← get
  let c := s.ctxOf k
  require (c.halted || c.run == .free) b
  if n = 0x001 && c.anyLateV then stop (.wait .waitLate 256 0)
  match s.setSpecial k n v with
  | some s => set s
  | none => illegal v.toNat

def execWrx (f : TFields) (s : State) : Out :=
  runT 0x1B5 f (do
    let v ← readOp f.a
    let b ← readNat f.b
    let k ← rdxTarget f.b
    if f.b == .none then writeSpecial (specialNum f.d) v else writeRemote k (specialNum f.d) v b) s

/-! ### Translation caches (08 R190, 14 R291) -/

/-- The cache of a translation entry lies within a scope of a hart: 1 CORE to 4 PKG. -/
def tlbInScope (h : HartId) (scope cache : Nat) : Bool :=
  if cache < 960 then
    (match scope with
      | 1 => h == .core cache 0 || (match h with | .core c _ => c == cache | _ => false)
      | 2 => clusterOfCore cache == clusterOf h
      | 3 => dieOfCore cache == dieOf h
      | _ => true)
  else
    (match scope with
      | 1 => false
      | 2 => cache - 960 == clusterOf h
      | 3 => (cache - 960) / 5 == dieOf h
      | _ => true)

/-- An entry of a translation cache holds the page of an address, if one is given, of a tenant, if one is given. An entry
with G = 1 does not match a tenant without an address (14 R290). -/
def tlbMatches (va ten : Option Nat) (key : Nat) (e : TlbVal) : Bool :=
  (match ten with | some t => key / 2 ^ 38 % 32 == t | none => true)
    && (match va with
      | some a => key % 2 ^ 38 / 4 * 4096 / pageSize (key % 4) == a / pageSize (key % 4)
      | none => ten.isNone || !e.pte.getLsbD 18)

/-- Drop the matching entries of every translation cache within a scope. -/
def State.tlbInval (s : State) (h : HartId) (scope : Nat) (va ten : Option Nat) : State :=
  { s with tlb := s.tlb.filter (fun e => match e.2 with
      | some x => !(tlbInScope h scope (e.1 / 2 ^ 38 / 32) && tlbMatches va ten e.1 x)
      | none => false) }

def execTlbi (f : TFields) (s : State) : Out :=
  runT 0x1B6 f (do
    let a ← readNat f.a
    let b ← readNat f.b
    let h ← getHart
    modify (fun s => s.tlbInval h (scopeOf f) (if f.a == .none then none else some a) (if f.b == .none then none else some (b % 16)))) s

/-! ### Time, marks, halts (08 R190, R191) -/

def execTime (f : TFields) (s : State) : Out :=
  runT 0x1B7 f (do
    let t ← readSpecial 0x021
    let c ← readSpecial 0x020
    writePair f.d t c) s

/-- The launch of the packet that a copy channel runs, and its tenant. -/
def State.packetOwner (s : State) (o ch : Nat) : Option Nat × Nat :=
  match (s.octet o).chans.get none ch with
  | some r => ((s.posted.find? (fun p => p.1 == r.qaddr && p.2.1 == r.seq)).map (fun p => p.2.2), r.ten)
  | none => (none, 0)

/-- The launch, tenant, core and thread that a hart's trace records name. -/
def State.traceOwner (s : State) : HartId → Option Nat × Nat × Nat × Nat
  | .core c t => ((s.thread c t).launch, (s.core c).tenant, c, t)
  | .me o q => match s.headJob o q with
    | some j => (j.launch, j.ten, j.core, j.thread)
    | none => (none, 0, 0, 0)
  | .cu o ch => ((s.packetOwner o ch).1, (s.packetOwner o ch).2, 8 * o, 0)

def execTmark (f : TFields) (s : State) : Out :=
  runT 0x1B8 f (do
    let a ← readNat f.a
    let b ← readNat f.b
    let h ← getHart
    modify (fun s =>
      let (l, ten, c, t) := s.traceOwner h
      s.trace l (ten % 16) c t 4 (bytesOf 3 0 ++ bytesOf 4 a) (bytesOf 8 b))) s

def execHlt (f : TFields) (s : State) : Out :=
  runT 0x1B9 f (onCore (fun c _ => modify (fun s => s.haltTrigger c 3))) s

/-! ### Caches (08 R190, R191; 04 R89) -/

/-- Empty a core's instruction cache. -/
def State.dropIcache (s : State) (c : Nat) : State := { s with icache := s.icache.filter (fun e => e.1 / 2 ^ 49 != c) }

def execIfence (f : TFields) (s : State) : Out :=
  runT 0x1BB f (onCore (fun c _ => modify (fun s => s.dropIcache c))) s

/-- The tenant of an L1 word meets CCTL's operand. -/
def cctlTen (ten : Option Nat) (x : L1Word) : Bool := match ten with | some t => x.ten == t | none => true

/-- CCTL on a core: 0 write back, 1 write back and invalidate those lines, 2 the instruction cache. -/
def State.cctl (s : State) (c opc : Nat) (ten : Option Nat) : State :=
  if opc = 2 then s.dropIcache c
  else
    let ks := s.l1Select c (fun _ x => x.dirty && cctlTen ten x)
    let s := ks.foldl State.writeBackKey s
    if opc = 0 then s
    else ks.foldl (fun s k => s.evictLine (k / 2 ^ 49) (k % 2 ^ 49 / 32)) s

def execCctl (f : TFields) (s : State) : Out :=
  runT 0x1BC f (do
    let a ← readNat f.a
    onCore (fun c _ => modify (fun s => s.cctl c (mField f.m 1 0) (if f.a == .none then none else some a)))) s

/-! ### Counters (08 R191, 20 R374) -/

/-- Counter i as a hart reads it; none where the model holds no value: the misses of the register line cache, whose lines
are no state, and the counters of a core on an engine (log entries 15, 79). -/
def State.counter (s : State) (h : HartId) (i : Nat) : Option Nat :=
  let o := octetOf h
  match h with
  | .core c t =>
    if i < 16 then some ((s.thread c t).ctr.get 0 i).toNat
    else if i = 16 then some (s.now c % 2 ^ 64)
    else if i = 28 then none
    else if i ≤ 30 then some ((s.core c).ctr.get 0 i).toNat
    else if i ≤ 44 then some ((s.octet o).ctr.get 0 i).toNat
    else some ((s.core (48 * clusterOfCore c)).ctr.get 0 i).toNat
  | _ =>
    if i ≤ 30 then none
    else if i ≤ 44 then some ((s.octet o).ctr.get 0 i).toNat
    else some ((s.core (48 * clusterOf h)).ctr.get 0 i).toNat

def execPerf (f : TFields) (s : State) : Out :=
  runT 0x1BD f (do
    let i ← readNat f.a
    require (i < 64) i
    let h ← getHart
    let s ← get
    if 16 ≤ i && s.tenantMode h then trap cPRIVILEGE 0
    match s.counter h i with
    | some x => writeNat f.d x
    | none => do
      let x ← freeValue
      writeNat f.d x) s

/-! ### The log ring and scratchpad addresses (08 R191, 09 R214) -/

/-- LOGX. Without a launch there is no ring, and the record is lost (log entry 37). -/
def logxBody (f : TFields) : M Unit := do
  let a ← readVecOp f.a
  let h ← getHart
  let s ← get
  let (l, ten, _, _) := s.traceOwner h
  match s.launchOf l with
  | some y => do
    let (s, ok) := s.ringAppend h ten y.logRing.toNat (bytesOf 64 a) false
    if ok then do
      set s
      writePredBool f.d true
    else if nbBit f then stop .report else stop (.wait .waitAcq (y.logRing.toNat + 8) 0)
  | none => writePredBool f.d true

def execLogx (f : TFields) (s : State) : Out := runT 0x1BE f (logxBody f) s

def execSpadmap (f : TFields) (s : State) : Out :=
  runT 0x1BF f (do
    let j ← readNat f.a
    require (j ≤ 47) j
    let ten ← getTen
    let s ← get
    writeNat f.d (s.windowBase ten + j * 0x40000)) s

end Sys2Proof.Machine
end

