-- ==== Sys2Proof/Machine/Microcode.lean ====
section
/-! DEFINITION. Group K: the instructions of matrix engine and copy unit microcode (08 R192 to R194; 12 R253, R258, R259;
15 R308). -/

namespace Sys2Proof.Machine

/-! ### The engine that runs -/

/-- The octet of the issuing hart. -/
def myOctet : M Nat := do
  let h ← getHart
  pure (octetOf h)

def getOctet : M Octet := fun s => .ok (s.octet (octetOf s.hart), s)
def modOctet (f : Octet → Octet) : M Unit := fun s => .ok ((), s.setOctet (octetOf s.hart) (f (s.octet (octetOf s.hart))))

/-- The job of a matrix engine hart; the packet and place of a copy unit hart. -/
def myJob : M (Option (Nat × Nat × Job)) := fun s => match s.hart with
  | .me o q => .ok ((s.headJob o q).map (fun j => (o, q, j)), s)
  | _ => .ok (none, s)
def myRun : M (Option (Nat × Nat × CuRun)) := fun s => match s.hart with
  | .cu o ch => .ok (((s.octet o).chans.get none ch).map (fun r => (o, ch, r)), s)
  | _ => .ok (none, s)
def State.setRun (s : State) (o ch : Nat) (r : CuRun) : State :=
  let x := s.octet o
  s.setOctet o { x with chans := x.chans.set none ch (some r) }

/-! ### Tiles (08 R192, R193) -/

/-- A tile address word: the tile's key, the half and the type. -/
def tileAddr (o : Operand) : M (Nat × Nat × Nat) := do
  let x ← readNat o
  require (x < 2 ^ 15) x
  pure (x % 4096, bitsOf x 12 12, bitsOf x 14 13)

def Octet.tile (o : Octet) (i : Nat) : Tile := (o.tiles.get none i).getD { typ := 0, cells := 0, scales := [], tag := none, used := 0 }

/-- The cells of half h replaced by the low 2048 bits of x. -/
def setHalf (cells h x : Nat) : Nat := setElem cells 2048 h x

/-- CIMW. The half tile no longer holds what its tag names (log entry 41). -/
def execCimw (f : TFields) (s : State) : Out :=
  runT 0x1E0 f (do
    let (i, h, t) ← tileAddr f.d
    let a ← readVecOp f.a
    modOctet (fun o =>
      let x := o.tile i
      { o with tiles := o.tiles.set none i (some { x with typ := t, cells := setHalf x.cells h a, tag := none }) })) s

def execCimr (f : TFields) (s : State) : Out :=
  runT 0x1E1 f (do
    let (i, h, _) ← tileAddr f.a
    let o ← getOctet
    putVec f.d (elemOf (o.tile i).cells 2048 h)) s

/-- Bit p of a two's-complement integer. -/
def intBit (x : Int) (p : Nat) : Bool := (x / (2 ^ p : Nat)) % 2 == 1

/-- A bank index, or ILLEGAL_OPERAND. -/
def readBank (o : Operand) : M Nat := do
  let b ← readNat o
  require (b < 64) b
  pure b

/-- Column n of a tile under a plane: Σ planebit(k) · CellValue(k, n), in half units. -/
def planeSum (x : Tile) (pl : Planes) (p n : Nat) : Int :=
  (List.range 32).foldl (fun a k =>
    if intBit (pl.vals.getD k 0) p then
      let (neg, h) := bs4Half x.typ (elemOf x.cells 4 (32 * k + n))
      a + signedNum neg h
    else a) 0

/-- The engine's macros start a tile step: a ramp-up where they were idle (12 R254). -/
def State.rampUp (s : State) (o : Nat) : State :=
  let x := s.octet o
  if x.ramp.on then s.setOctet o { x with ramp := { x.ramp with stepped := true } }
  else (s.setOctet o { x with ramp := { x.ramp with on := true, stepped := true } }).countOctet o 36 64

def execBpl (f : TFields) (s : State) : Out :=
  runT 0x1E2 f (do
    let b ← readBank f.d
    let (i, _, _) ← tileAddr f.a
    let p ← readNat f.b
    require (p < 16) p
    modOctet (fun o =>
      let w : Int := if f.m.getLsbD 0 then -(2 ^ p : Nat) else (2 ^ p : Nat)
      { o with banks := (List.range 32).foldl (fun m n =>
          let y := m.get ⟨0, false⟩ (32 * b + n)
          m.set ⟨0, false⟩ (32 * b + n) { num := y.num + w * planeSum (o.tile i) o.planes p n, nan := y.nan || o.planes.nan }) o.banks })
    let k ← myOctet
    modify (fun s => (s.rampUp k).countOctet k 33 1)) s

/-! ### The row buffer and the banks (08 R193) -/

def execRbld (f : TFields) (s : State) : Out :=
  runT 0x1E3 f (do
    let off ← readNat f.d
    let va ← memAddr f
    require (off % 256 == 0 && off < 8192) off
    let bs ← readRange va 256 anyPage
    modOctet (fun o => { o with rowbuf := writeBytes o.rowbuf off bs })) s

def execAccrd (f : TFields) (s : State) : Out :=
  runT 0x1E4 f (do
    let d ← readVecOp f.d
    let b ← readBank f.a
    let x ← readFV f.b
    let o ← getOctet
    let ls ← ((elems 32 64 d).zipIdx).mapM (fun e => do
      if e.2 < 32 then
        let y := o.banks.get ⟨0, false⟩ (32 * b + e.2)
        let v : FV := if y.nan then .nan false else .fin (y.num < 0) y.num.natAbs 2
        let r := fmaF fp32 .rne v x (decodeF fp32 e.1)
        raiseF r.fl
        pure r.bits
      else pure e.1)
    putVec f.d (packElems 32 ls)) s

def execAccclr (f : TFields) (s : State) : Out :=
  runT 0x1E5 f (do
    let b ← readBank f.a
    modOctet (fun o => { o with banks := if f.a == .none then [] else o.banks.filter (fun e => e.1 / 32 != b) })) s

/-- The bytes of the row buffer. -/
def Octet.rowBytes (o : Octet) (off n : Nat) : List Byte := (List.range n).map (fun i => o.rowbuf.get 0 (off + i))

/-- Bytes of a row-buffer block of a format. -/
def blockBytes (fmt : Nat) : Nat := fmtBits fmt * 4

/-- A row-buffer block as elements of A. The row buffer holds no scale byte, so the type of a BS4 block is open: `t`
(log entry 41). -/
def Octet.rowElems (o : Octet) (fmt t i : Nat) : List AElem :=
  let x := ofBytes (o.rowBytes (i * blockBytes fmt) (blockBytes fmt))
  (elems (fmtBits fmt) 32 x).map (fun e => aElem fmt e (64 * t + 33))

/-- A block index within the row buffer. -/
def readBlock (o : Operand) (bytes : Nat) : M Nat := do
  let i ← readNat o
  require (i < 8192 / bytes) i
  pure i

/-- The plane register from a block. -/
def planesOf (fmt i : Nat) (b : ABlock) : Planes := { vals := b.q, nan := b.nan, fmt := fmt, block := i, redir := [] }

def execPlanes (f : TFields) (s : State) : Out :=
  runT 0x1E6 f (do
    let fmt := mField f.m 3 0
    let i ← readBlock f.a (blockBytes fmt)
    let t ← if fmt = 12 then pickFrom [0, 1, 2, 3] else pure 0
    let o ← getOctet
    let b := aBlock fmt (o.rowElems fmt t i)
    modOctet (fun o => { o with planes := planesOf fmt i b })
    writeNat f.d b.planes) s

/-- The halves of an element that DUPF leaves in the row buffer. Half of an odd BF16 subnormal is no BF16 value: there the
first half is rounded toward zero and the second takes the rest, so that the sum is still exact; that is the model's choice
(03 R65; log entry 104). -/
def splitStored (fmt : Nat) (e : AElem) : AElem × AElem :=
  match fmt, e.v with
  | 8, .fin neg num den =>
    let a1 := decodeF bf16 (encodeF bf16 .rtz (.fin neg num (2 * den))).bits
    ({ e with v := a1 }, { e with v := (addV false e.v (negV a1)).getD FV.zero })
  | _, _ => splitElem fmt e

/-- The bits of a split element in its own format, which holds it exactly. -/
def elemBits (fmt : Nat) (e : AElem) : Nat :=
  if fmt = 8 then (encodeF bf16 .rne e.v).bits else (e.q % (2 ^ fmtBits fmt : Nat)).toNat

/-- The row buffer with a block of elements. -/
def Octet.putBlock (o : Octet) (fmt i : Nat) (es : List AElem) : Octet :=
  { o with rowbuf := writeBytes o.rowbuf (i * blockBytes fmt) (bytesOf (blockBytes fmt) (packElems (fmtBits fmt) (es.map (elemBits fmt)))) }

/-- DUPF. The current block is block i of the row, which holds channels 32i to 32i + 31; a map entry within it is split,
and its twin takes the entry's own place in the twin block (log entry 41). A map that breaks the limits of 03 R66, the K of
the running job among them, ends the job. -/
def dupfBody (f : TFields) : M Unit := do
  let twin ← readNat f.d
  let off ← readNat f.a
  let o ← getOctet
  let p := o.planes
  let fmt := if p.fmt = 0 then 1 else p.fmt
  require (twin < 8192 / blockBytes fmt) twin
  require (off + 66 ≤ 8192) off
  let bs := o.rowBytes off 66
  let n := fieldAt bs 0 2
  let ks := (List.range n).map (fun i => fieldAt bs (2 + 2 * i) 2)
  let jq ← myJob
  let deep := match jq with | some (_, _, j) => ks.any (fun k => (parseJob j.packet).k ≤ k) | none => false
  if 32 < n || !((ks.zip (ks.drop 1)).all (fun p => p.1 < p.2)) || deep || (fmt == 12 && 1 ≤ n) then trap cFORMAT 0
  let here := (ks.zipIdx).filter (fun e => e.1 / 32 == p.block)
  let es := o.rowElems fmt 0 p.block
  let cut := here.map (fun e => (e, splitStored fmt (es.getD (e.1 % 32) aZero)))
  let main := (es.zipIdx).map (fun e => match cut.find? (fun c => c.1.1 % 32 == e.2) with | some c => c.2.1 | none => e.1)
  let twins := ((o.rowElems fmt 0 twin).zipIdx).map (fun e => match cut.find? (fun c => c.1.2 == e.2) with | some c => c.2.2 | none => e.1)
  modOctet (fun o =>
    let o := (o.putBlock fmt p.block main).putBlock fmt twin twins
    let b := aBlock fmt main
    { o with planes := { planesOf fmt p.block b with redir := here.map (fun e => (e.2, e.1)) } })

def execDupf (f : TFields) (s : State) : Out := runT 0x1E7 f (dupfBody f) s

/-! ### Take lines (08 R193, 15 R308) -/

/-- The take of a layer for the running job: its directory key, entry and LINES; PAGE_FAULT without one, and for a line
beyond it. -/
def takeOf (layer line : Nat) : M (Nat × TakeDir) := do
  let o ← myOctet
  let ten ← getTen
  let s ← get
  match s.takeKey (o / 30) ten layer with
  | none => trap cPAGE_FAULT 0
  | some k => match s.takes.get none k with
    | none => trap cPAGE_FAULT 0
    | some e =>
      if s.homeNat (s.takeLine (k / 4096) e 0 + 24) 2 ≤ line then trap cPAGE_FAULT 0 else pure (k, e)

def execTakew (f : TFields) (s : State) : Out :=
  runT 0x1E9 f (do
    let d ← readVecOp f.d
    let layer ← readNat f.a
    let line ← readNat f.b
    let (k, e) ← takeOf layer line
    if line = 0 then trap cPROTECTION 0
    let o ← myOctet
    modify (fun s => s.takeWrite o k e line (bytesOf 256 d))) s

def execTaker (f : TFields) (s : State) : Out :=
  runT 0x1EA f (do
    let layer ← readNat f.a
    let line ← readNat f.b
    let (k, e) ← takeOf layer line
    let s ← get
    if s.homePoisoned (s.takeLine (k / 4096) e line) 256 then trap cPOISON 0
    putVec f.d (ofBytes (s.takeBytes k e line 256))) s

/-- DELTA. The block holds 32 elements of the job's A, in the format of A's page; block i of the row buffer against take
line b is block 8(b − a − 1) + i mod 8 of the take, and takes that block's scale (log entry 41). -/
def deltaBody (f : TFields) : M Unit := do
  let i ← readNat f.a
  let line ← readNat f.b
  let jq ← myJob
  match jq with
  | none => writePredBool f.d false
  | some (_, _, jb) => do
    let j := parseJob jb.packet
    let (fmt, _) ← pageFormat j.a
    let fmt := if fmt = 8 then 8 else 10
    require (i < 8192 / blockBytes fmt) i
    let (k, e) ← takeOf j.layer line
    let o ← getOctet
    let s ← get
    let kb := s.homeNat (s.takeLine (k / 4096) e 0 + 26) 2
    let m := s.homeNat (s.takeLine (k / 4096) e 0 + 20) 2
    let first := (takeLines m kb 0).1
    require (first ≤ line) line
    let b := 8 * (line - first) + i % 8
    let sc := fieldAt (s.takeBytes k e 1 (4 * (b + 1))) (4 * b) 4
    let qa := (s.takeQa k e line 8).getD (i % 8) []
    let xs := (elems (fmtBits fmt) 32 (ofBytes (o.rowBytes (i * blockBytes fmt) (blockBytes fmt)))).map (fun x => medlQuant (decodeElem fmt x) sc)
    let ds := (xs.zip qa).map (fun p => p.1.1 - p.2)
    if xs.any (·.2) || ds.any (fun d => d < -32 || 31 < d) then writePredBool f.d false
    else do
      modOctet (fun o => { o with planes := { vals := ds, nan := false, fmt := 1, block := i, redir := [] } })
      writePredBool f.d true

def execDelta (f : TFields) (s : State) : Out := runT 0x1E8 f (deltaBody f) s

/-! ### Completion (08 R193, 12 R253, R259) -/

/-- The completion slot of a packet's record. -/
def State.recordSlot (s : State) (r : CuRun) : Nat :=
  s.homeNat (r.qaddr + 32) 8 + 32 * (r.seq % 2 ^ (s.homeNat (r.qaddr + 24) 1 % 16))

/-- A write of bytes at the home of an address. -/
def writeAtHome (va align : Nat) (bs : List Byte) : M Unit := do
  aligned va align
  let (loc, pg) ← checkAccess va .write anyPage
  writeLoc va loc pg bs true
  bumpLoc loc

/-- CMPL on a matrix engine: the mailbox write ends the job. A mailbox that cannot be written leaves its cause, or the
job's own, in the job's record (08 R174). -/
def cmplJob (a va o q : Nat) (j : Job) : M Unit := do
  let bs := bytesOf 8 a
  if va ≠ fieldAt j.packet 56 8 ∨ va = 0 then writeAtHome va 8 bs
  else do
    let own := fieldAt bs 1 1
    let s ← get
    match writeAtHome va 8 bs s with
    | .ok (_, t) => set (t.jobDone o q j own)
    | .error (.trap k _) => set (s.jobDone o q j (if own = 0 then k else own))
    | .error (.page _ _) =>
      let s := s.setPc s.hart (BitVec.ofNat 64 (pcFromIndex ((pcIndex s.pcNow : Int) - 1)))
      set ((s.setHeadJob o q { j with ending := some own }).postFault (o / 6) va j.ten .write (.mailbox o q))
    | .error e => stop e

/-- CMPL on a copy unit: the record of the running packet, then CC. -/
def cmplRun (a va o ch : Nat) (r : CuRun) : M Unit := do
  writeAtHome va 32 (bytesOf 32 a)
  modify (fun s =>
    if va = s.recordSlot r then
      ((s.setRun o ch { r with done := true }).advanceCC o r.qaddr r.seq).countOctet o 40 1 |>.countOctet o 41 r.bytes
    else s)

def execCmpl (f : TFields) (s : State) : Out :=
  runT 0x1EF f (do
    let a ← readVecOp f.a
    let va ← readNat f.b
    fenceRelease 4
    let j ← myJob
    let r ← myRun
    match j, r with
    | some (o, q, j), _ => cmplJob a va o q j
    | none, some (o, ch, r) => cmplRun a va o ch r
    | none, none => writeAtHome va 8 (bytesOf 8 a)) s

/-! ### The copy unit (08 R194) -/

/-- Bytes of the beats that a form moves. -/
def beatBytes (f : TFields) : Nat := 64 * (mField f.m 1 0 + 1)

def execBeatrd (f : TFields) (s : State) : Out :=
  runT 0x1EB f (do
    let va ← memAddr f
    aligned va 64
    let bs ← readRange va (beatBytes f) anyPage
    putVec f.d (ofBytes bs)) s

def execBeatwr (f : TFields) (s : State) : Out :=
  runT 0x1EC f (do
    let d ← readVecOp f.d
    let va ← memAddr f
    aligned va 64
    writeRange va (bytesOf (beatBytes f) d) anyPage
    let r ← myRun
    match r with
    | some (o, ch, r) => modify (fun s => s.setRun o ch { r with bytes := r.bytes + beatBytes f })
    | none => pure ()) s

/-- A value converted to a format; an integer source narrows as an integer, after rounding (03 R49, 12 R257, log
entry 42). -/
def encodeConv (fmt : Nat) (m : Mode) (sat srcInt : Bool) (v : FV) : Rd :=
  match fmtFloat fmt, v with
  | none, .fin neg num den =>
    if fmt ≠ 14 ∧ srcInt = true then
      let (x, ix) := roundInt m neg num den
      let r := narrow (fmt != 2) sat (fmtBits fmt) x
      ⟨r.bits, r.fl ||| (if ix then fNX else 0)⟩
    else encodeElem fmt m sat false v
  | _, _ => encodeElem fmt m sat false v

/-- The exact product of two values that a conversion rounds: a signalling NaN stays one, and 0 × ∞ is invalid (03 R42,
R47). -/
def scaledV (a b : FV) : FV := if sigNaN [a, b] then .nan true else (mulV a b).getD (.nan true)

/-- An integer format. -/
def intFmt (fmt : Nat) : Bool := (fmtFloat fmt).isNone && fmt != 12

def execConv (f : TFields) (s : State) : Out :=
  runT 0x1ED f (do
    let a ← readVecOp f.a
    let b ← readFV f.b
    let sf := mField f.m 7 4
    let df := mField f.m 3 0
    let n := 2048 / max (fmtBits sf) (fmtBits df)
    let ls ← (elems (fmtBits sf) n a).mapM (fun x => do
      let v := scaledV (decodeElem sf x) b
      roundBy (rndOf f) (isFin v) (fun m => encodeConv df m (satBit f) (intFmt sf) v))
    putVec f.d (packElems (fmtBits df) ls)) s

/-- A channel keeps the destination of a packet that moves its pointer, for CUWP (10 R226, log entry 33). -/
def State.noteWp (s : State) (o ch ten dst len : Nat) : State :=
  let x := s.octet o
  let ds := x.wpDests.get [] ch
  if ds.contains (ten, dst, len) then s else s.setOctet o { x with wpDests := x.wpDests.set [] ch (ds ++ [(ten, dst, len)]) }

/-- Publish a channel's write pointer; the watermark of a growth follows its relocation (12 R258, 16 R314). -/
def State.publishWp (s : State) (o ch v : Nat) : State :=
  let x := s.octet o
  let s := s.setOctet o { x with wp := x.wp.set 0 ch (BitVec.ofNat 64 v) }
  match x.chans.get none ch with
  | some r =>
    if fieldAt r.packet 0 1 = 5 then
      let mine (p : Transom) : Bool := p.ten == r.ten && p.old == fieldAt r.packet 8 8 && p.new == fieldAt r.packet 16 8
      { s with transoms := s.transoms.map (fun p => if mine p then { p with mark := (v - p.base) / 8192 * 8192 } else p) }
    else s
  | none => s

def execWpset (f : TFields) (s : State) : Out :=
  runT 0x1EE f (do
    let ch ← readNat f.d
    let v ← readNat f.a
    require (ch < 8) ch
    let o ← getOctet
    require ((o.wp.get 0 ch).toNat ≤ v) v
    let k ← myOctet
    modify (fun s => s.publishWp k ch v)) s

/-- The next packet of the queue whose descriptor is at a physical address, which is what the run's s1 holds (log
entry 43): its bytes, or none where no producer has claimed RI or slot RI does not hold sequence RI. -/
def nextPacket (d : Nat) : M (Option (Nat × List Byte)) := do
  let s ← get
  let ri := s.homeNat (d + 8) 4
  let slot := s.homeNat (d + 16) 8 + 64 * (ri % 2 ^ (s.homeNat (d + 24) 1 % 16))
  let bs ← readRange slot 64 anyPage
  pure (if ri ≠ s.homeNat d 4 ∧ fieldAt bs 4 4 = ri then some (ri, bs) else none)

/-- A channel's run of a packet. -/
def newRun (packet : List Byte) (queue qaddr seq ten : Nat) (micro : Bool) : CuRun :=
  { packet := packet, queue := queue, qaddr := qaddr, seq := seq, ten := ten, micro := micro, rows := [], next := 0, oor := 0,
    bytes := 0, sats := 0, fills := 0, fault := none, abort := false, done := false, ending := none }

def execPktnext (f : TFields) (s : State) : Out :=
  runT 0x1F0 f (do
    let d ← readNat f.a
    let p ← nextPacket d
    match p with
    | none => if nbBit f then stop .report else stop (.wait .waitJob d 0)
    | some (ri, bs) => do
      let h ← getHart
      let r ← myRun
      modify (fun s => s.homeWriteNat (agentOf h) (d + 8) 8 ((ri + 1) % 2 ^ 32))
      (match r with
        | some (o, ch, r) => modify (fun s => s.setRun o ch (newRun bs r.queue d ri r.ten true))
        | none => pure ())
      putVec f.d (ofBytes bs)) s

/-! ### The gather streamer (12 R260, 08 R194) -/

/-- A gather descriptor. -/
structure GatherP where
  list  : Nat
  count : Nat
  base  : Nat
  row   : Nat
  rows  : Nat
  dst   : Nat
  deriving DecidableEq, Repr

def parseGather (d : List Byte) : GatherP :=
  let w (i : Nat) : Nat := fieldAt d (8 * i) 8
  { list := w 0, count := w 1, base := w 2, row := w 3, rows := w 4, dst := w 5 }

/-- The frame of the base line that line l of node n resolves to, or of the last node's map where the line is zero. -/
def State.baseFrame (s : State) (ten l : Nat) : Nat → Nat → Nat
  | 0, _ => 0
  | fuel + 1, n =>
    let d := s.node ten n
    let (code, g) := s.lineEntry ten d l
    if code = 2 then s.granAddr ten g
    else if d.parent = 0 then s.granAddr ten d.mapg
    else s.baseFrame ten l fuel d.parent

/-- The owner of the row at a place: 1 + c for the scratchpad of core c, 1024 + h for home slice h, of the row's first line
(12 R260, 10 R217; log entry 106). -/
def State.ownerOf (s : State) (ten : Nat) (loc : Loc) (pg : Page) : Nat :=
  match loc with
  | .scr k _ => 1 + k % 1024
  | .dev pa => 1024 + homeOf pg.home pa none
  | .ln n off => 1024 + homeOf pg.home (s.baseFrame ten (off / 256) 8 n) none

/-- The checks of the pages of a row; the first place. -/
def rowPlace : List (Nat × Nat) → M (Option (Loc × Page))
  | [] => pure none
  | (va, n) :: r => do
    let (loc, pg) ← checkAccess va .read anyPage
    nodeRoom va n .read loc
    let _ ← rowPlace r
    pure (some (loc, pg))

/-- The owner of a row, or the cause and the address that refuse it (12 R260). -/
def rowOwner (g : GatherP) (x : Nat) : M (Nat × Option (Nat × Nat)) := fun s =>
  let va := g.base + x * g.row
  match rowPlace (pageParts va (g.row / 4096 + 2) g.row) s with
  | .ok (some (loc, pg), t) => .ok ((t.ownerOf (t.tenOf t.hart) loc pg, none), t)
  | .ok (none, t) => .ok ((0, none), t)
  | .error (.trap k v) => .ok ((0, some (k, v)), s)
  | .error (.page v _) => .ok ((0, some (cPAGE_FAULT, v)), s)
  | .error e => .error e

/-- A page that a packet other than RELOC may write (12 R257, 16 R312). -/
def notKv : Refuse := fun _ pg => pg.fmt == 13

/-- Write the row of a position. -/
def putRow (g : GatherP) (j : Nat) (bs : List Byte) : M Unit := writeRange (g.dst + j * g.row) bs notKv

/-- The packet publishes its write pointer in ascending destination order (12 R258). -/
def CuRun.inOrder (r : CuRun) : Bool := (fieldAt r.packet 1 1).testBit 2

/-- The address that stands for a zero row, which a packet with WP writes in its place among the others. -/
def zeroRow : Nat := 2 ^ 64

/-- A zero row is written, or waits for its place. -/
def zeroPosition (g : GatherP) (o ch : Nat) (r : CuRun) : M Unit :=
  if r.inOrder then modify (fun s => s.setRun o ch { r with next := r.next + 1, rows := r.rows ++ [(r.next, zeroRow)] })
  else do
    putRow g r.next (List.replicate g.row 0)
    modify (fun s => s.setRun o ch { r with next := r.next + 1, bytes := r.bytes + g.row })

/-- Post one position: a row to return, a zero row, or the end of the list under STRICT. It answers the owner of a row
that was posted. -/
def postRow (g : GatherP) (strict : Bool) (o ch : Nat) (x : Nat) : M (Option Nat) := do
  let s ← get
  match (s.octet o).chans.get none ch with
  | none => pure none
  | some r =>
    let j := r.next
    if r.abort ∨ g.count ≤ j then pure none
    else if g.rows ≤ x then do
      zeroPosition g o ch { r with oor := r.oor + 1 }
      pure none
    else do
      let (w, bad) ← rowOwner g x
      match bad with
      | some fault =>
        let r : CuRun := { r with fault := some (r.fault.getD fault) }
        if strict then do
          modify (fun s => s.setRun o ch { r with abort := true })
          pure none
        else do
          zeroPosition g o ch r
          pure none
      | none => do
        modify (fun s => s.setRun o ch { r with next := j + 1, rows := r.rows ++ [(j, g.base + x * g.row)] })
        pure (some w)

/-- Post positions in list order. -/
def postRows (g : GatherP) (strict : Bool) (o ch : Nat) : List Nat → M (List (Option Nat))
  | [] => pure []
  | x :: xs => do
    let w ← postRow g strict o ch x
    let r ← postRows g strict o ch xs
    pure (w :: r)

/-- SCATR. The per-owner counts stand in D in the order in which the owners first appear, an entry a qbyte (log
entry 44). -/
def scatrBody (f : TFields) : M Unit := do
  let a ← readVecOp f.a
  let va ← readNat f.b
  let d ← loadBytes va 64 64
  let r ← myRun
  match r with
  | none => pure ()
  | some (o, ch, r) => do
    let g := parseGather d
    if r.inOrder then modify (fun s => s.noteWp o ch r.ten g.dst (g.count * g.row))
    let ws ← postRows g ((fieldAt r.packet 1 1).testBit 3) o ch (elems 32 64 a)
    let owners := (ws.filterMap id).foldl (fun (l : List Nat) w => if l.contains w then l else l ++ [w]) []
    putVec f.d (packElems 32 (owners.map (fun w => (ws.filter (fun x => x == some w)).length)))

def execScatr (f : TFields) (s : State) : Out := runT 0x1F1 f (scatrBody f) s

end Sys2Proof.Machine
end

