-- ==== Sys2Proof/Machine/TaskEvents.lean ====
section
/-! DEFINITION. Steps of the command processors, the cores and the network that answer page faults, end waits, deliver
late values, move work between cores and deliver packets (05 R102; 07 R159, R162, R164; 09 R197 to R206; 11 R233, R240;
14 R285, R292; 17 R327; 20 R368). A step whose precondition does not hold leaves the state as it is (log entry 1). -/

namespace Sys2Proof.Machine

/-- A step that happens only under its precondition. -/
def onlyIf (p : Bool) (s t : State) : Out := if p then .next t else .next s

/-! ### Page-fault answers (14 R292) -/

/-- Hardware thread t of a tenant's context on a core, whichever tenant the core runs. -/
def State.threadOf (s : State) (ten c t : Nat) : Thread := s.threads.get Thread.zero (thKey ten c t)
def State.setThreadOf (s : State) (ten c t : Nat) (x : Thread) : State :=
  { s with threads := s.threads.set Thread.zero (thKey ten c t) x }

/-- A stall is over: the thread executes its instruction afresh. What it recorded of the instruction keeps only that it
has issued; the wait that a thread has recorded outlives a stalled fetch. -/
def Thread.unstall (x : Thread) (acc : Access) : Thread :=
  { x with ctx := { x.ctx with run := if x.ctx.run = .running then .ready else x.ctx.run }, stall := false,
           waiting := if acc = .fetch then x.waiting else x.waiting.map (fun w => (512, w.2)) }

/-- Remove record i of a cluster's page-fault queue. -/
def State.dropFault (s : State) (cl i : Nat) : State := { s with faults := s.faults.set [] cl (dropIdx (s.faults.get [] cl) i) }

/-- The cause with which an instruction's own part of a job ends where its mailbox has no page (08 R174). -/
def ownCause (j : Job) : Nat := let k := j.ending.getD 0; if k = 0 then cPAGE_FAULT else k

/-- The stealing domain of a record contains a core (09 R198). -/
def domContains (dom victim thief : Nat) : Bool :=
  if dom = 1 then octetOfCore victim == octetOfCore thief
  else if dom = 2 then clusterOfCore victim == clusterOfCore thief
  else if dom = 3 then dieOfCore victim == dieOfCore thief
  else dom == 4

/-- The top record of a core's deque: the oldest of the spill area, else the oldest in hardware (09 R201). -/
def State.topRecord (s : State) (c : Nat) : Option Record :=
  match (s.spillOf c).getLast? with
  | some r => some (s.loadRecord r)
  | none => (s.dequeOf c).getLast?

/-- Replace the top record, or remove it. -/
def State.setTop (s : State) (c : Nat) (r : Option Record) : State :=
  if (s.spillOf c).isEmpty then s.setDeque c ((s.dequeOf c).dropLast ++ r.toList)
  else
    let s := s.setSpill c ((s.spillOf c).dropLast ++ r.toList)
    match r with
    | some r => s.storeRecord c r
    | none => s

/-- The stolen record reaches the thief, one free thread of which takes a unit from it, and any further ones pop from it
(09 R198). A record of the spill area keeps its address there, which a trap of its start reports (09 R200). -/
def State.giveRecord (s : State) (victim thief : Nat) (r : Record) : State :=
  let x := s.core thief
  let s := (s.setCore thief { x with walk := { x.walk with tried := [] } }).countCore thief 23 1
  let s := s.trace r.launch x.tenant thief 0 6 (bytesOf 1 0 ++ bytesOf 2 victim) (bytesOf 8 r.lo.toNat)
  (s.setDeque thief (r :: s.dequeOf thief)).feed thief

/-- Chunks left in a range record. -/
def Record.chunks (r : Record) : Nat := ceilDiv (r.hi.toNat - r.lo.toNat) r.grain.toNat

/-- A steal takes the victim's top record, whole or split (09 R202). -/
def State.steal (s : State) (victim thief : Nat) : State :=
  match s.topRecord victim with
  | none => s
  | some r =>
    if !r.range || r.chunks ≤ 1 then (s.setTop victim none).giveRecord victim thief r
    else
      let m := r.lo + r.grain * BitVec.ofNat 64 (ceilDiv r.chunks 2)
      let hand (s : State) : State := (s.setTop victim (some { r with hi := m })).giveRecord victim thief { r with lo := m }
      let refuse (s : State) (k : Nat) : State :=
        match r.launch with
        | some l => (s.endLaunch l k victim 0 r.code.toNat r.joinc.toNat).feedEnded s
        | none => s.setTop victim none
      if r.joinc = 0 then hand s
      else match s.joinCheck (.core victim 0) (s.core victim).tenant r.joinc.toNat with
        | (s, .ok pa) => (match s.joinAdd victim pa with
          | some s => hand s
          | none => refuse s cPOISON)
        | (s, .post) =>
          if (s.core victim).tenant = 16 then s.setTop victim none
          else s.postFault (clusterOfCore victim) r.joinc.toNat (s.core victim).tenant .atomic (.split victim thief)
        | (s, .bad k) => refuse s k

/-- MAP: the requester resumes (14 R292, 09 R202). -/
def State.resumeFault (s : State) (p : PageFault) : State :=
  match p.who with
  | .hart (.core c t) => s.setThreadOf p.ten c t ((s.threadOf p.ten c t).unstall p.acc)
  | .hart _ => s
  | .pop c t =>
    let s := s.setThreadOf p.ten c t { s.threadOf p.ten c t with stall := false }
    if (s.core c).tenant = p.ten then (s.takeWork c t).feed c else s
  | .split v t => if (s.core v).tenant = p.ten ∧ (s.core t).tenant = p.ten then s.steal v t else s
  | .mailbox o q => match s.headJob o q with
    | none => s
    | some j =>
      if ((s.octet o).meCtx.get Ctx.zero q).run = .free then s.endJob o q (j.ending.getD 0) false
      else s.setHeadJob o q { j with ending := none }
  | .record o ch => match (s.octet o).chans.get none ch with
    | none => s
    | some r => s.endPacket o ch (r.ending.getD 0) false

/-- The launch of a record that waits for its join block ends (09 R202). -/
def State.failRecord (s : State) (r : Option Record) (va core thread : Nat) : State :=
  match r with
  | some r => if r.joinc.toNat = va then (match r.launch with
      | some l => (s.endLaunch l cPAGE_FAULT core thread r.code.toNat va).feedEnded s
      | none => s) else s
  | none => s

/-- DECLINE: the instruction traps, the job or packet ends, the launch of a pop or split ends (14 R292, 09 R202). -/
def State.declineFault (s : State) (p : PageFault) : State :=
  match p.who with
  | .hart (.core c t) =>
    let x := s.threadOf p.ten c t
    let s := s.setThreadOf p.ten c t (x.unstall p.acc)
    if (s.core c).tenant = p.ten ∧ x.stall = true then
      (match (if p.acc = .fetch then none else x.waiting) with
        | some (op, f) => s.takeTrap (.core c t) cPAGE_FAULT p.va .plain (ignorableOf op cPAGE_FAULT) (destsOf op f)
        | none => s.takeTrap (.core c t) cPAGE_FAULT p.va .plain false [])
    else s
  | .hart (.me o q) => s.endJob o q cPAGE_FAULT false
  | .hart (.cu o ch) => s.failPacket o ch cPAGE_FAULT p.va
  | .pop c t =>
    let s := s.setThreadOf p.ten c t { s.threadOf p.ten c t with stall := false }
    if (s.core c).tenant = p.ten then ((s.failRecord (s.dequeOf c).head? p.va c t).takeWork c t).feed c else s
  | .split v _ => if (s.core v).tenant = p.ten then (s.failRecord (s.topRecord v) p.va v 0).feed v else s
  | .mailbox o q => match s.headJob o q with
    | none => s
    | some j =>
      if ((s.octet o).meCtx.get Ctx.zero q).run = .free then s.endJob o q (j.ending.getD 0) true
      else (s.jobDone o q j (ownCause j)).advance (.me o q)
  | .record o ch => match (s.octet o).chans.get none ch with
    | none => s
    | some r => s.endPacket o ch (r.ending.getD 0) true

def execMap (cl i pteAddr : Nat) (pte : Word) (s : State) : Out :=
  match (s.faults.get [] cl)[i]? with
  | none => .next s
  | some p => onlyIf (pteAddr % 8 == 0) s (((s.homeWrite (1204 + controlCoreOf cl) pteAddr (bytesOf 8 pte.toNat)).dropFault cl i).resumeFault p)

def execDecline (cl i : Nat) (s : State) : Out :=
  match (s.faults.get [] cl)[i]? with
  | none => .next s
  | some p => .next ((s.dropFault cl i).declineFault p)

/-! ### Late values (11 R233, R240) -/

/-- What a pending symbol's source delivers, where it has it: a value or a cause. -/
def State.sourceValue (s : State) (c : Nat) (y : Sym) : Option (Except Nat Nat) :=
  match y.src with
  | .load bits _ fault => some (if fault = 0 then .ok bits else .error fault)
  | .job id => if (s.jobState c id).1 < 2 then none else some (.ok (s.jobStatus c id))
  | .device _ => some (.ok (Config.freeNat s.freeCtr))
  | _ => none

def execValueArrival (core sym : Nat) (s : State) : Out :=
  match s.sym core sym with
  | none => .next s
  | some y => match s.sourceValue core y with
    | some (.ok x) => .next ({ s with freeCtr := s.freeCtr + 1 }.arrival core sym x)
    | some (.error k) => .next (s.poisonSym core sym k)
    | none => .next s

/-- The causes with which a symbol may resolve to poison. -/
def State.poisonCause (s : State) (c : Nat) (y : Sym) (cause : Nat) : Bool :=
  (cause == cHW_ERROR && (s.core c).failed)
    || (match y.src with
      | .load _ _ fault => fault != 0 && cause == fault
      | .service _ _ => cause == cSOFTWARE
      | _ => false)

/-- A pending request is no longer waited for. -/
def State.dropService (s : State) (core sym : Nat) : State :=
  { s with services := s.services.filter (fun r => !(r.core == core && r.sym == sym)) }

def execSymbolPoison (core sym cause : Nat) (s : State) : Out :=
  match s.sym core sym with
  | none => .next s
  | some y => onlyIf (s.poisonCause core y cause) s ((s.poisonSym core sym cause).dropService core sym)

/-! ### The ends of waits (05 R102; 07 R162, R164) -/

/-- A thread leaves its wait. -/
def State.wakeUp (s : State) (c t : Nat) : State :=
  let x := s.thread c t
  s.setThread c t { x with ctx := { x.ctx with run := .ready }, stamp := s.now c }

/-- The condition of a recorded wait may have become true. Conditions on words, queues and counters are re-evaluated when
the thread issues again (log entry 9). -/
def State.mayResume (s : State) (c t : Nat) : Bool :=
  let x := s.thread c t
  match x.ctx.run with
  | .waitLate =>
    let i := x.ctx.waitObj.toNat
    256 ≤ i || !x.ctx.symRefs.contains i || (match s.sym c i with | some y => y.state != .pending | none => true)
  | .waitTime => x.ctx.waitCnt == 1 && x.ctx.wake
  | .waitChannel => true
  | .waitJob => true
  | .waitAcq => true
  | .running => x.waiting.isSome && !x.stall
  | _ => false

def execWaitResume (core thread : Nat) (s : State) : Out := onlyIf (s.mayResume core thread) s (s.wakeUp core thread)

/-- A thread waits for a package time that has come: 0 a WAITT, 1 a SLEEP. -/
def State.timeCome (s : State) (c t kind : Nat) : Bool :=
  let x := (s.thread c t).ctx
  x.run == .waitTime && x.waitCnt.toNat == kind && x.waitObj.toNat ≤ s.timeNow && (kind == 0 || x.waitObj.toNat < 2 ^ 64 - 1)

def execWaittDeadline (core thread : Nat) (s : State) : Out := onlyIf (s.timeCome core thread 0) s (s.wakeUp core thread)
def execSleepTimeout (core thread : Nat) (s : State) : Out := onlyIf (s.timeCome core thread 1) s (s.wakeUp core thread)

/-! ### Steals (09 R198, R199, R202; 14 R285) -/

/-- A thread is idle: FREE or in a wait (09 R197). -/
def idleState : RunState → Bool
  | .ready => false
  | .running => false
  | _ => true

/-- The tenant's launches that run on a core's octet. -/
def State.launchesOn (s : State) (c : Nat) : List (Nat × Launch) :=
  s.launches.filterMap (fun e => match e.2 with
    | some x => if x.ten = (s.core c).tenant ∧ x.started = true ∧ x.failed.isNone = true ∧ x.mask.testBit (octetOfCore c) = true then some (e.1, x) else none
    | none => none)

/-- The widest level a thief may reach: that of its launches, package in the boot context. -/
def State.widest (s : State) (c : Nat) : Nat :=
  if (s.core c).tenant = 16 then 4 else (s.launchesOn c).foldl (fun m e => max m e.2.dom) 0

/-- A split of this thief waits for a page. -/
def State.splitWaits (s : State) (thief : Nat) : Bool :=
  s.faults.any (fun e => e.2.any (fun p => match p.who with | .split _ t => t == thief | _ => false))

/-- The core steals (09 R198). -/
def State.steals (s : State) (c : Nat) : Bool :=
  let x := s.core c
  c < 960 && !x.halted && !x.failed && x.walk.until_ ≤ s.now c && !s.splitWaits c
    && (List.range 16).all (fun t => idleState (s.thread c t).ctx.run)
    && (List.range 16).any (fun t => s.canTake c t)
    && (s.dequeOf c).isEmpty && (s.spillOf c).isEmpty
    && !((s.msgsOf c).any (fun pk => (s.tag c pk.tag).v && !(s.tag c pk.tag).deposit))

/-- The cores of a level around a core, from its own number upward, wrapping: 1 octet to 4 package. -/
def levelCores (c level : Nat) : List Nat :=
  let n := if level = 1 then 8 else if level = 2 then 48 else if level = 3 then 240 else 960
  (List.range (n - 1)).map (fun i => c / n * n + (c % n + 1 + i) % n)

/-- Chunks in the range records of a launch on a core, whether the core runs the launch's tenant or not (14 R285). -/
def State.chunksOn (s : State) (l c : Nat) : Nat :=
  let k := tcKey (match s.launches.get none l with | some x => x.ten | none => 16) c
  ((s.deques.get [] k ++ s.spills.get [] k).filter (fun r => r.range && r.launch == some l)).foldl (fun n r => n + r.chunks) 0

/-- The key of a published count. -/
def chunkKey (l die : Nat) : Nat := 4 * l + die

/-- The core to which the first package-level request goes (14 R285). -/
def State.steered (s : State) (c : Nat) : Option Nat :=
  match (s.launchesOn c).find? (fun e => e.2.dom == 4) with
  | none => none
  | some (l, _) =>
    let count (d : Nat) : Nat := s.chunks.get 0 (chunkKey l d)
    let die := (List.range 4).foldl (fun b d => if count b < count d then d else b) 0
    let k := (List.range 240).foldl (fun b i => if s.chunksOn l b < s.chunksOn l (240 * die + i) then 240 * die + i else b) (240 * die)
    some k

/-- The next victim of a thief's walk. -/
def State.nextVictim (s : State) (c : Nat) : Option Nat :=
  let tried := (s.core c).walk.tried
  let fresh (k : Nat) : Bool := k != c && !tried.contains k
  match ((List.range (min 3 (s.widest c))).flatMap (fun i => levelCores c (i + 1))).find? fresh with
  | some k => some k
  | none =>
    if s.widest c < 4 then none
    else
      let first : Bool := !(tried.any (fun k => dieOfCore k != dieOfCore c))
      match (if first then s.steered c else none) with
      | some k => if fresh k then some k else (levelCores c 4).find? fresh
      | none => (levelCores c 4).find? fresh

/-- A victim takes a request: its top record's domain contains the thief. -/
def State.takesRequest (s : State) (v c : Nat) : Bool :=
  (s.core v).tenant == (s.core c).tenant && !(s.core v).halted && !(s.core v).failed
    && (match s.topRecord v with | some r => domContains r.dom v c | none => false)

def State.request (s : State) (thief v : Nat) : State :=
  let x := s.core thief
  let s := (s.setCore thief { x with walk := { x.walk with tried := x.walk.tried ++ [v] } }).countCore thief 22 1
  if s.takesRequest v thief then s.steal v thief else s.countCore v 24 1

/-- A steal request, which waits while a pop or a split holds the victim's deque (09 R199). -/
def execStealRequest (thief : Nat) (s : State) : Out :=
  if s.steals thief then
    match s.nextVictim thief with
    | some v => onlyIf (!s.dequeHeld (s.core v).tenant v) s (s.request thief v)
    | none => .next s
  else .next s

/-- STEAL_RETRY: no core is left to ask, and the next walk starts 256 ACLK later. -/
def execStealRetry (thief : Nat) (s : State) : Out :=
  let x := s.core thief
  onlyIf (s.steals thief && (s.nextVictim thief).isNone) s (s.setCore thief { x with walk := { tried := [], until_ := s.now thief + 256 } })

def execChunkCountPublish (die : Nat) (s : State) : Out :=
  let ls := s.launches.filterMap (fun e => match e.2 with | some x => if x.started ∧ x.dom = 4 then some e.1 else none | none => none)
  .next { s with chunks := ls.foldl (fun m l =>
    m.set 0 (chunkKey l die) (((List.range 240).map (fun i => s.chunksOn l (240 * die + i))).foldl (· + ·) 0)) s.chunks }

/-! ### Packets (07 R158, R159; 09 R205; 20 R364, R368) -/

/-- Packet i of the network is the first of its source thread for its core, whether its destination names the core by
number or by position (07 R158). -/
def State.firstInOrder (s : State) (i : Nat) (pk : Packet) : Bool :=
  !((s.net.take i).any (fun p => p.ten == pk.ten && p.src == pk.src && p.srcThr == pk.srcThr && s.destCore p == s.destCore pk))

/-- The tag entry of a packet in its own tenant's table. -/
def State.packetTag (s : State) (c : Nat) (pk : Packet) : Tag := s.tags.get Tag.zero (tcKey pk.ten c * 64 + pk.tag)

/-- A packet waits in its tenant's spill queue. -/
def State.spillPacket (s : State) (c : Nat) (pk : Packet) : State :=
  let k := tcKey pk.ten c
  ({ s with msgs := s.msgs.set [] k (s.msgs.get [] k ++ [pk]) }).countCore c 26 1

/-- The lowest thread that can take work. -/
def State.freeThread (s : State) (c : Nat) : Option Nat := (List.range 16).find? (fun t => s.canTake c t)

/-- A packet reaches its core (07 R159, 09 R205). -/
def State.arrivePacket (s : State) (c : Nat) (pk : Packet) : State :=
  let x := s.core c
  let s := s.setCore c { x with received := x.received + 1 }
  if x.failed then s.discard pk.ten c
  else if x.tenant ≠ pk.ten then s.spillPacket c pk
  else
    let g := s.tag c pk.tag
    if !g.v then s.discard pk.ten c
    else if g.deposit then
      if (s.msgsOf c).any (fun p => p.tag == pk.tag) then s.spillPacket c pk
      else match s.depositFate c pk g with
        | some t => t.feed c
        | none => s.spillPacket c pk
    else match s.freeThread c with
      | some t => s.startUnit c t (.activation pk g.target g.pol g.bud g.low) none
      | none => s.spillPacket c pk

/-- The arrival of packet i of the network, where its entry meets a test and its core may take it. -/
def State.arrivalOf (s : State) (i : Nat) (p : Nat → Packet → Bool) (f : State → Nat → Packet → State) : State :=
  match s.net[i]? with
  | none => s
  | some pk =>
    if s.firstInOrder i pk then
      match s.destCore pk with
      | some c => if !(s.core c).halted && p c pk then f { s with net := dropIdx s.net i } c pk else s
      | none => { s with net := dropIdx s.net i }.discard pk.ten pk.src
    else s

/-- A breakpoint of the core is to stop a packet that a free thread would take. -/
def State.breakPacket (s : State) (c : Nat) (pk : Packet) : Bool :=
  (s.core c).tenant == pk.ten && (s.freeThread c).isSome && s.abpMatch c pk

def execActivationStart (i : Nat) (s : State) : Out :=
  .next (s.arrivalOf i (fun c pk => !((s.packetTag c pk).v && (s.packetTag c pk).deposit) && !((s.packetTag c pk).v && s.breakPacket c pk))
    State.arrivePacket)

/-- A deposit finds the boot channel full, and waits in the routers (17 R327). -/
def State.bootFull (s : State) (c : Nat) (pk : Packet) : Bool :=
  pk.ten == 16 && (s.core c).tenant == 16 && (s.packetTag c pk).target == 0 && (s.chan c 0).v && (s.chan c 0).empty == 0
    && pk.payload.length ≤ (s.chan c 0).slotSize

def execDeposit (i : Nat) (s : State) : Out :=
  .next (s.arrivalOf i (fun c pk => (s.packetTag c pk).v && (s.packetTag c pk).deposit && !s.bootFull c pk) State.arrivePacket)

/-- The core halts before the activation starts; the packet, marked, stays at the head of its input. -/
def execActivationBreakpoint (i : Nat) (s : State) : Out :=
  .next (s.arrivalOf i (fun c pk => (s.packetTag c pk).v && !(s.packetTag c pk).deposit && s.breakPacket c pk)
    (fun s c pk => { s with net := { pk with past := true } :: s.net }.haltTrigger c 5))

/-! ### The boot count (17 R327) -/

def execBootCountAdd (core : Nat) (s : State) : Out :=
  let x := s.core core
  let a := s.bootCnt.getD 0
  onlyIf (s.bootCnt.isSome && core < 960 && 64 ≤ x.bootCount && !x.bootAdded) s
    ((s.setCore core { x with bootAdded := true }).homeWriteNat (coreAgent core) a 8 ((s.homeNat a 8 + 1) % 2 ^ 64))

end Sys2Proof.Machine
end

