-- ==== Sys2Proof/Machine/EngineEvents.lean ====
section
/-! DEFINITION. Steps of the matrix engines: jobs start, look up their takes, ramp; lineage jobs end; attention partials
form, merge and arrive (08 R183; 12 R244, R251, R254; 13 R273; 15 R307; 16 R316, R317; 20 R377). -/

namespace Sys2Proof.Machine

/-- A page-fault record of a hart has no answer yet. -/
def State.stalled (s : State) (h : HartId) : Bool := (s.faults.get [] (clusterOf h)).any (fun p => p.who == .hart h)

/-- Words 0 and 1 of an octet's engine block (12 R245). -/
def State.mectl (s : State) (o : Nat) : Nat := (s.ctlWord (0x600000 + 0x1000 * o)).toNat
def State.cuctl (s : State) (o : Nat) : Nat := (s.ctlWord (0x600008 + 0x1000 * o)).toNat

/-- The entry of an entry table: a PC, or 0. -/
def State.entryOf (s : State) (ctl j : Nat) : Nat := s.homeNat (bitsOf ctl 51 6 * 64 + 8 * j) 8

/-- The registers with which a microcode run starts (12 R244). -/
def microCtx (packet : List Byte) (s1 s2 s3 pc : Nat) : Ctx :=
  { Ctx.zero with
    v := Ctx.zero.v.set 0 0 (BitVec.ofNat 2048 (ofBytes packet)),
    s := ((Ctx.zero.s.set 0 1 (BitVec.ofNat 64 s1)).set 0 2 (BitVec.ofNat 64 s2)).set 0 3 (BitVec.ofNat 64 s3),
    pc := BitVec.ofNat 64 pc, run := .ready }

/-! ### Jobs (12 R244, R251) -/

/-- Queue q holds a job that may start. -/
def State.startable (s : State) (o q : Nat) : Bool :=
  match s.headJob o q with
  | some j => !j.running && !j.done && j.ending.isNone && !s.stalled (.me o q)
  | none => false

/-- The queue whose job starts next, from the one whose turn it is. -/
def State.nextQueue (s : State) (o : Nat) : Option Nat :=
  ((List.range 8).map (fun i => ((s.octet o).wrr + i) % 8)).find? (fun q => s.startable o q)

/-- A step of the job of queue q: what it traps with ends the job, a page that it lacks is asked for, and the job goes on
from where it stands (14 R292). -/
def State.meStep {α : Type} (s : State) (o q : Nat) (m : M α) (k : α → State → State) : State :=
  match runAs s (.me o q) m with
  | .ok (x, t) => k x t
  | .error (.trap c _) => s.endJob o q c false
  | .error (.page va acc) => s.postFault (o / 6) va (s.tenOf (.me o q)) acc (.hart (.me o q))
  | .error _ => s

/-- The job of queue q starts, by its microcode or by the engine's own performance of what its microcode does, after the
checks made before any tile step (12 R244, R245, R249). -/
def State.startJob (s : State) (o q : Nat) (j : Job) (micro : Bool) : State :=
  let s := s.setJobRec j.core j.id 1 0
  let kind := fieldAt j.packet 0 1
  let pc := s.entryOf (s.mectl o) kind
  if pc = 0 ∨ jobOk j.packet = false then s.endJob o q cFORMAT false
  else if micro ∨ kind = 4 then
    s.meStep o q (checkShape (parseJob j.packet)) (fun _ s =>
      let s := s.setHeadJob o q { j with running := true, micro := micro, waitTake := kind == 4 }
      if micro then s.setCtxOf (.me o q) (microCtx j.packet j.id (j.core % 8) (j.ten % 16) pc) else s)
  else s.meStep o q (startProg j.packet) (fun g s => s.setHeadJob o q { j with running := true, prog := some g })

def execJobStart (octet : Nat) (micro : Bool) (s : State) : Out :=
  let x := s.octet octet
  if (s.mectl octet).testBit 63 && !x.halted then
    match s.nextQueue octet with
    | none => .next s
    | some q => match s.headJob octet q with
      | none => .next s
      | some j => if x.meFailed then .next (s.endJob octet q cHW_ERROR false) else .next (s.startJob octet q j micro)
  else .next s

/-! ### Tile steps (12 R248, R251, R252) -/

/-- Queue q holds a job that can be given a tile step. -/
def State.canStep (s : State) (o q : Nat) : Bool :=
  match s.headJob o q with
  | some j => j.running && !j.waitTake && !j.done && j.ending.isNone && j.prog.isSome && !s.stalled (.me o q)
  | none => false

/-- W(q) of a word of weights. -/
def weightOf (w : BitVec 32) (q : Nat) : Nat := bitsOf w.toNat (4 * q + 3) (4 * q)

/-- The queues in the order of their turns, each with the tile steps that its turn has and the weights of its round: what
is left of the turn under way, the queues after it in this round, and the next round, under the weights of now. -/
def Octet.turns (x : Octet) : List (Nat × Nat × BitVec 32) :=
  let rest := (List.range 8).filter (fun q => x.wrr < q)
  let next := (List.range 8).map (fun q => (q, weightOf x.mewt q, x.mewt))
  if x.round = 0 then next
  else (if x.credit = 0 then [] else [(x.wrr, x.credit, x.round)]) ++ rest.map (fun q => (q, weightOf x.round q, x.round)) ++ next

/-- The turn that the next tile step belongs to; a queue that has none to dispatch gives up its turn (12 R251). -/
def State.turnOf (s : State) (o : Nat) : Option (Nat × Nat × BitVec 32) :=
  (s.octet o).turns.find? (fun t => s.canStep o t.1)

/-- Compute ACLK of a job's tile steps: the planes spent by its busiest macro (12 R248). -/
def Prog.cyc (g : Prog) : Nat := g.spent.foldl (fun m e => max m e.2) 0

/-- The last tile step of a job is done: an MEDL writes its take, and the job ends. -/
def State.finishJob (s : State) (o q : Nat) (j : Job) (g : Prog) : State :=
  let p := parseJob j.packet
  let cyc := g.cyc
  let s := if p.kind = 4 then s.progTake o p g j.path else s
  (s.setHeadJob o q { j with cyc := cyc, prog := none }).endJob o q 0 false

/-- The turn passes to queue q, which has so many tile steps left in it. -/
def State.setTurn (s : State) (o q credit : Nat) (round : BitVec 32) : State :=
  s.setOctet o { s.octet o with wrr := q, credit := credit, round := round }

/-- The job of queue q performs its next tile step, and ends after its last one. A block that is skipped spends nothing of
the turn. -/
def State.stepJob (s : State) (o q : Nat) (j : Job) (g : Prog) (credit : Nat) (round : BitVec 32) : State :=
  let p := parseJob j.packet
  s.meStep o q (tileStep o p g j.path) (fun (g', live) s =>
    let s := s.countOctet o 33 (g'.cyc - g.cyc)
    let g := g'
    let s := ((if live then s.rampUp o else s).setHeadJob o q { j with prog := some g }).setTurn o q (if live then credit - 1 else credit) round
    if s.progSteps j.ten p g ≤ g.pos then s.finishJob o q j g else s)

/-- The engine performs one tile step of the job whose turn it is (12 R251). -/
def State.tileTurn (s : State) (o : Nat) : State :=
  match s.turnOf o with
  | none => s
  | some (q, credit, round) => match s.headJob o q with
    | none => s
    | some j => match j.prog with
      | none => s
      | some g => if (s.octet o).meFailed then s.endJob o q cHW_ERROR false else s.stepJob o q j g credit round

/-! ### Ramps and bursts (12 R254) -/

/-- Some job of the engine runs. -/
def Octet.busy (x : Octet) : Bool := x.queues.any (fun e => match e.2.head? with | some j => j.running | none => false)

/-- The ramp is over: 32 filler cycles. -/
def State.rampDown (s : State) (o : Nat) : State :=
  let x := s.octet o
  (s.setOctet o { x with ramp := { x.ramp with on := false } }).countOctet o 36 32

def execRampDown (octet : Nat) (s : State) : Out :=
  let x := s.octet octet
  onlyIf (x.ramp.on && !x.busy && !(x.ramp.declared && s.time < x.ramp.stop)) s (s.rampDown octet)

/-- A declaration's ramp-up, before any tile step. -/
def State.rampFill (s : State) (o : Nat) : State :=
  let x := s.octet o
  (s.setOctet o { x with ramp := { x.ramp with on := true } }).countOctet o 36 64

def execBurstRampStart (octet : Nat) (s : State) : Out :=
  let x := s.octet octet
  onlyIf (x.ramp.declared && x.ramp.start ≤ s.time && !x.ramp.on) s (s.rampFill octet)

/-- A declaration ends at its end, or once its fillers have run for 4 µs before any tile step (12 R254). -/
def execBurstEnd (octet : Nat) (s : State) : Out :=
  let x := s.octet octet
  let over_ := x.ramp.stop ≤ s.time || (x.ramp.start + 4000 ≤ s.time && !x.ramp.stepped)
  let t := s.setOctet octet { x with ramp := { x.ramp with declared := false } }
  onlyIf (x.ramp.declared && over_) s (if x.ramp.on && !x.busy then t.rampDown octet else t)

/-! ### Take lookups (15 R302, R307) -/

/-- The lowest queue whose running MEDL waits for a take that no other job holds. -/
def State.lookupQueue (s : State) (o : Nat) : Option Nat :=
  (List.range 8).find? (fun q => match s.headJob o q with
    | some j => j.running && j.waitTake && !j.done && !s.takeIsBusy (o / 30) j.ten j.layer && !s.stalled (.me o q)
    | none => false)

/-- What an engine job holds after its lookup: the path, and of a job that the engine performs itself its tile steps, with
the take that they read or make. -/
def Job.looked (j : Job) (x : Medl) (path : Bool) (take : Option (Nat × TakeDir)) : Job :=
  { j with waitTake := false, path := path, prog := if j.micro then none else some (x.prog take) }

/-- The lookup decides the path; the take's entry is BUSY from then until the job's end (15 R302, R307). -/
def State.lookupTake (s : State) (o q : Nat) (j : Job) : State :=
  s.meStep o q (medlRead (parseJob j.packet)) (fun x s =>
    let p := parseJob j.packet
    let busy : TakeBusy := { ten := j.ten, layer := j.layer, octet := o, queue := q }
    let hold (s : State) (path : Bool) (k : Nat) (e : TakeDir) : State :=
      { s.setHeadJob o q (j.looked x path (some (k, e))) with takeBusy := s.takeBusy ++ [busy] }
    match s.takeDecide (o / 30) p j.ten x with
    | (s, some (k, e)) => (hold s true k e).countOctet o 37 1
    | (s, none) =>
      let lines := (takeLines p.m x.kb p.n).2.2
      (match s.takeReplace (o / 30) j.ten j.layer lines with
        | (s, none) => s.setHeadJob o q (j.looked x false none)
        | (s, some k) => match s.takes.get none k with
          | some e => (hold s false k e).takeWrite o k e 0 (takeHeader false (j.ten % 16) 0 j.layer p.node (s.node j.ten p.node).version
              p.m p.k p.n x.kb lines x.map)
          | none => s).countOctet o 38 1)

def execTakeLookup (octet : Nat) (s : State) : Out :=
  let x := s.octet octet
  if x.halted then .next s
  else match s.lookupQueue octet with
    | none => .next s
    | some q => match s.headJob octet q with
      | none => .next s
      | some j => .next (if x.meFailed then s.endJob octet q cHW_ERROR false else s.lookupTake octet q j)

/-! ### Lineage jobs (13 R273, 12 R245) -/

/-- The cause with which a lineage job ends before it does anything: the copy unit has failed, or its entry word is 0
(12 R245; log entry 107). -/
def State.lineageFate (s : State) (j : LnJob) : Nat :=
  if (s.octet j.octet).cuFailed then cHW_ERROR else if s.entryOf (s.cuctl j.octet) (7 + j.kind) = 0 then cFORMAT else 0

def execLineageJobEnd (i : Nat) (s : State) : Out :=
  match (s.lnJobs.filter (fun j => j.ended.isNone))[i]? with
  | none => .next s
  | some j =>
    let x := s.octet j.octet
    onlyIf (x.cuFailed || ((s.cuctl j.octet).testBit 63 && !x.halted)) s (s.endLineage j (s.lineageFate j))

/-! ### Attention (08 R183, 16 R309 to R317) -/

/-- TreeSum on values, each node rounded to FP32 to nearest; the fuel bounds the levels (03 R62). -/
def sumTree : Nat → List FV → FV
  | 0, l => l.headD FV.zero
  | n + 1, l =>
    match l with
    | [x] => x
    | l => sumTree n ((List.range (l.length / 2)).map (fun i =>
        decodeF fp32 (addF fp32 .rne (l.getD (2 * i) FV.zero) (l.getD (2 * i + 1) FV.zero)).bits))

/-- Lanes padded to a power of two by the identity of a sum. -/
def padTree (l : List FV) : List FV :=
  l ++ List.replicate ((if l.length ≤ 16 then 16 else if l.length ≤ 32 then 32 else if l.length ≤ 64 then 64 else 128) - l.length) negZero

/-- The exact product of two values. -/
def exactMul (a b : FV) : FV := (mulV a b).getD (.nan false)

/-- The outlier entries of a key block: token, channel, value; or none where the block breaks 03 R59. -/
def keyOutliers (k : List Byte) (d : Nat) : Option (List (Nat × Nat × Nat)) :=
  let n := fieldAt k 1280 2
  let es := (List.range n).map (fun j => (fieldAt k (1282 + 4 * j) 1, fieldAt k (1283 + 4 * j) 1, fieldAt k (1284 + 4 * j) 2))
  if 63 < n || es.any (fun e => 16 ≤ e.1 || d ≤ e.2.1) then none else some es

/-- DecodeKey (03 R59). -/
def decodeKey (k : List Byte) (es : List (Nat × Nat × Nat)) (t c : Nat) : FV :=
  match es.reverse.find? (fun e => e.1 == t && e.2.1 == c) with
  | some e => decodeF fp16 e.2.2
  | none => exactMul (FV.ofInt (sext (elemOf (fieldAt k (64 * t + c / 2) 1) 4 (c % 2)) 4)) (decodeF fp16 (fieldAt k (1024 + 2 * c) 2))

/-- A value element (03 R60). -/
def decodeValue (v : List Byte) (scale t c : Nat) : FV := exactMul (decodeF e4m3 (fieldAt v (128 * t + c) 1)) (decodeF fp16 scale)

/-- The header of a page passes its checks (16 R310). -/
def headerOk (hd : List Byte) (dim head pos : Nat) : Bool :=
  let w := fieldAt hd 0 8
  bitsOf w 63 32 == pos && bitsOf w 31 24 == 0 && bitsOf w 23 16 == head && bitsOf w 15 8 == 0 && bitsOf w 7 0 == dim
    && fieldAt hd 8 56 == 0 && fieldAt hd 128 384 == 0

/-- Where the blocks of a page lie. -/
def keyOff (b : Nat) : Nat := if b = 0 then 0x200 else 0x1000
def valueOff (b : Nat) : Nat := if b = 0 then 0x800 else 0x1600

/-- A partial triple from the keys and values of its tokens, in ascending order (08 R183). -/
def partialTriple (q : List FV) (toks : List (List FV × List FV)) : Triple :=
  let ss := toks.map (fun t => (let x := sumTree 8 (padTree ((q.zip t.1).map (fun p => exactMul p.1 p.2))); (encodeF fp32 .rne x).bits))
  let m := ss.foldl (fun m s => (minMaxF fp32 true m s).bits) (fp32.inf true)
  let ps := ss.map (fun s => (approxF .exp2 (subF fp32 .rne (decodeF fp32 s) (decodeF fp32 m)).bits).bits)
  let add (x : Nat) (y : FV) : Nat := (addF fp32 .rne (decodeF fp32 x) y).bits
  { m := m, l := ps.foldl (fun l p => add l (decodeF fp32 p)) 0,
    o := (List.range q.length).map (fun c => ((ps.zip toks).foldl (fun o p => add o (exactMul (decodeF fp32 p.1) (p.2.2.getD c FV.zero))) 0)),
    cnt := toks.length, cause := 0 }

/-- The tokens of a page group within [lo, hi), counted in the page. -/
def pageTokens (a : Attn) (g : Nat) : List Nat := (List.range 32).filter (fun t => a.lo ≤ 32 * g + t && 32 * g + t < a.hi)

/-- The physical address of half of a KV page, or the cause that refuses it. -/
def State.kvHalf (s : State) (a : Attn) (va : Nat) : State × Except Nat Nat :=
  match s.locate (.core a.core 0) a.ten va with
  | (s, none) => (s, .error cPAGE_FAULT)
  | (s, some (.dev pa, pg)) =>
    let reg := s.regionOf pa
    if reg == .unlisted || reg == .control || pg.home == 3 then (s, .error cPAGE_FAULT)
    else if pg.s != s.frameWorld pa then (s, .error cWORLD)
    else if pg.fmt != 13 then (s, .error cFORMAT)
    else (s, .ok pa)
  | (s, some _) => (s, .error cFORMAT)

/-- The physical addresses of the two halves of a KV page, which pages of 4 KiB may map apart; every page that maps it has
FMT 13 (16 R311). -/
def State.kvPlace (s : State) (a : Attn) (va : Nat) : State × Except Nat (Nat × Nat) :=
  match s.kvHalf a va with
  | (s, .error k) => (s, .error k)
  | (s, .ok lo) => match s.kvHalf a (va + 4096) with
    | (s, .error k) => (s, .error k)
    | (s, .ok hi) => (s, .ok (lo, hi))

/-- The physical address of byte `off` of a KV page. -/
def kvAt (pa : Nat × Nat) (off : Nat) : Nat := if off < 4096 then pa.1 + off else pa.2 + (off - 4096)

/-- What a slice attention unit finds in a page: its partial, or the cause that ends it. -/
def State.kvPartial (s : State) (a : Attn) (g : Nat) (pa : Nat × Nat) : Except Nat Triple :=
  let ts := pageTokens a g
  let blocks := [0, 1].filter (fun b => ts.any (fun t => t / 16 == b))
  let hd := s.homeBytes pa.1 512
  if s.homePoisoned pa.1 512 || blocks.any (fun b => s.homePoisoned (kvAt pa (keyOff b)) 1536 || s.homePoisoned (kvAt pa (valueOff b)) 2048) then
    .error cPOISON
  else if !headerOk hd a.dim a.head (32 * g) then .error cFORMAT
  else
    let keys := blocks.map (fun b => (b, s.homeBytes (kvAt pa (keyOff b)) 1536, s.homeBytes (kvAt pa (valueOff b)) 2048))
    if keys.any (fun k => (keyOutliers k.2.1 a.dim).isNone) then .error cFORMAT
    else
      let q := (List.range a.dim).map (fun c => decodeF fp16 (elemOf a.query.toNat 16 c))
      .ok (partialTriple q (ts.map (fun t =>
        match keys.find? (fun k => k.1 == t / 16) with
        | some (_, k, v) =>
          let es := (keyOutliers k a.dim).getD []
          ((List.range a.dim).map (fun c => decodeKey k es (t % 16) c),
           (List.range a.dim).map (fun c => decodeValue v (fieldAt hd (64 + 2 * t) 2) (t % 16) c))
        | none => ([], []))))

/-- While a reel of the tenant records, the routers merge nothing and the interface takes pages in order (20 R377). -/
def State.recording (s : State) (ten : Nat) : Bool := s.reels.any (fun r => r.ten == ten && r.mode == 1)

def State.setAttn (s : State) (i : Nat) (a : Attn) : State := { s with attns := setIdx s.attns i a }

/-- A slice attention unit forms the partial of a page that has been requested. -/
def execSauPartial (a page : Nat) (s : State) : Out :=
  match s.attns[a]? with
  | none => .next s
  | some x => match x.pages[page]? with
    | none => .next s
    | some (g, va) =>
      if s.recording x.ten && page != 0 then .next s
      else
        let (s, r) := s.kvPlace x va
        let t : Triple := match (match r with | .ok pa => s.kvPartial x g pa | .error k => .error k) with
          | .ok t => t
          | .error k => { Triple.empty with cnt := (pageTokens x g).length, cause := k }
        .next (s.setAttn a { x with pages := dropIdx x.pages page, parts := x.parts ++ [t] })

/-- The merge of two triples by the rule of VONLINE, to nearest (06 R138). -/
def mergeTriple (a b : Triple) : Triple :=
  match onlineMerge a.m b.m with
  | none => { o := a.o.map (fun _ => fp32.canon), m := fp32.canon, l := fp32.canon, cnt := a.cnt + b.cnt, cause := 0 }
  | some (m, c1, c2, _) =>
    let f (x y : Nat) : Nat := (mergeF .rne (decodeF fp32 x) c1 (decodeF fp32 y) c2).bits
    { o := (a.o.zip b.o).map (fun p => f p.1 p.2), m := m, l := f a.l b.l, cnt := a.cnt + b.cnt, cause := 0 }

/-- Two partials that met no cause merge in a router. -/
def execRouterMerge (a i j : Nat) (s : State) : Out :=
  match s.attns[a]? with
  | none => .next s
  | some x => match x.parts[i]?, x.parts[j]? with
    | some p, some q =>
      onlyIf (i < j && p.cause == 0 && q.cause == 0 && !s.recording x.ten) s
        (s.setAttn a { x with parts := setIdx (dropIdx x.parts j) i (mergeTriple p q) })
    | _, _ => .next s

/-- The triple that a triple area holds. -/
def State.areaTriple (s : State) (a : Attn) : Triple :=
  let w (off : Nat) : Nat := ofBytes (s.scrBytes (tcKey a.ten a.core) (a.addr + off) 4)
  { o := (List.range a.dim).map (fun c => w (4 * c)), m := w 512, l := w 516, cnt := 0, cause := 0 }

/-- The interface takes a partial: the first as it stands, a later one merged with the area, a failed one as tokens
counted. -/
def State.takePartial (s : State) (a : Nat) (x : Attn) (p : Triple) : State :=
  let key := tcKey x.ten x.core
  let cnt := x.acc.cnt + p.cnt
  let cause := if x.acc.cause = 0 then p.cause else x.acc.cause
  let (s, o) : State × List Nat :=
    if p.cause ≠ 0 then (s.scrWrite key (x.addr + 520) (bytesOf 4 cnt), x.acc.o)
    else
      let t := if x.acc.o.isEmpty then p else mergeTriple (s.areaTriple x) p
      (s.scrWrite key x.addr ({ t with cnt := cnt } : Triple).bytes, [1])
  if cnt < x.hi - x.lo then s.setAttn a { x with acc := { x.acc with o := o, cnt := cnt, cause := cause } }
  else
    let s : State := if cause = 0 then s
      else { s.scrWrite key x.addr (bytesOf 524 (Config.freeNat s.freeCtr)) with freeCtr := s.freeCtr + 1 }
    { s.scrWrite key (x.addr + 524) (bytesOf 4 (doneStatus cause)) with attns := dropIdx s.attns a }

def execPartialArrival (a i : Nat) (s : State) : Out :=
  match s.attns[a]? with
  | none => .next s
  | some x => match x.parts[i]? with
    | none => .next s
    | some p =>
      onlyIf (!(s.recording x.ten && i != 0)) s
        ((s.setAttn a { x with parts := dropIdx x.parts i }).takePartial a { x with parts := dropIdx x.parts i } p)

end Sys2Proof.Machine
end

