-- ==== Sys2Proof/Machine/CopyEvents.lean ====
section
/-! DEFINITION. Steps of the copy units: packets are taken, elements are moved and converted, rows are gathered, groups
combine, slabs are relocated (03 R54, R57; 08 R181, R182; 12 R244, R245, R255 to R261; 16 R314, R315; 18 R349). -/

namespace Sys2Proof.Machine

/-! ### Packets in progress -/

/-- A step of the packet of a channel: what it traps with ends the packet, and a page that it lacks is asked for. -/
def State.cuStep (s : State) (o ch : Nat) (m : M Unit) : State :=
  match runAs s (.cu o ch) m with
  | .ok (_, t) => t
  | .error (.trap k v) => s.failPacket o ch k v
  | .error (.page va acc) => s.postFault (o / 6) va (s.tenOf (.cu o ch)) acc (.hart (.cu o ch))
  | .error _ => s

/-- The packet of a channel that a step of OP op may carry on: it runs without microcode, and nothing holds it. -/
def State.cuReady (s : State) (o ch op : Nat) : Option CuRun :=
  let x := s.octet o
  match x.chans.get none ch with
  | some r => if !r.micro && !r.done && fieldAt r.packet 0 1 == op && !s.stalled (.cu o ch) && !x.halted && !x.cuFailed then some r else none
  | none => none

/-- A parsed copy packet (12 R256). -/
structure CopyP where
  trans : Bool
  sat   : Bool
  wp    : Bool
  rnd   : Nat
  src   : Nat
  dst   : Nat
  cols  : Nat
  rows  : Nat
  dcols : Nat
  drows : Nat
  sstr  : Nat
  dstr  : Nat
  scale : Nat
  fillv : Nat
  wpb   : Nat
  deriving DecidableEq, Repr

def parseCopy (p : List Byte) : CopyP :=
  let fl := fieldAt p 1 1
  { trans := fl.testBit 0, sat := fl.testBit 1, wp := fl.testBit 2, rnd := fieldAt p 2 1 % 8, src := fieldAt p 8 8, dst := fieldAt p 16 8,
    cols := fieldAt p 24 2, rows := fieldAt p 26 2, dcols := fieldAt p 28 2, drows := fieldAt p 30 2, sstr := fieldAt p 32 4,
    dstr := fieldAt p 36 4, scale := fieldAt p 40 4, fillv := fieldAt p 44 4, wpb := fieldAt p 48 8 }

/-- The packet keeps the rules of 12 R256 that need no page: OP, zero fields, shapes. Byte 2 of a COLL packet holds its OPC
(log entry 34); FILL has no source. -/
def packetOk (p : List Byte) : Bool :=
  let op := fieldAt p 0 1
  let x := parseCopy p
  let b2 := fieldAt p 2 1
  let shape : Bool := 1 ≤ x.dcols && 1 ≤ x.drows
  let source : Bool := 1 ≤ x.cols && 1 ≤ x.rows
    && (if x.trans then x.rows ≤ x.dcols && x.cols ≤ x.drows else x.cols ≤ x.dcols && x.rows ≤ x.drows)
  1 ≤ op && op ≤ 5 && fieldAt p 1 1 < 16 && fieldAt p 3 1 == 0 && fieldAt p 56 8 == 0
    && (if op = 4 then b2 < 8 else b2 < 7)
    && (if op = 1 ∨ op = 5 then shape && source else if op = 2 then shape else true)

/-- The transom pair of a relocation packet (16 R314). -/
def ofPacket (p : List Byte) (ten : Nat) (x : Transom) : Bool := x.ten == ten && x.old == fieldAt p 8 8 && x.new == fieldAt p 16 8

/-- Bytes of a relocation of a growth: the whole slab of its pair (16 R314, log entry 36). -/
def State.slabBytes (s : State) (r : CuRun) : Option Nat :=
  (s.transoms.find? (ofPacket r.packet r.ten)).map (fun t => 2 ^ (s.seqEntry t.ten t.seq).lsize)

/-- Bytes from the first to the last that a COPY, FILL or RELOC packet writes. -/
def State.destLen (s : State) (o ch : Nat) (r : CuRun) : Nat :=
  let p := parseCopy r.packet
  match s.slabBytes r with
  | some n => n
  | none =>
    let bits := match (s.locate (.cu o ch) r.ten p.dst).2 with
      | some (_, pg) => if fieldAt r.packet 0 1 = 5 then 8 else fmtBits pg.fmt
      | none => 8
    (p.drows - 1) * p.dstr + (p.dcols * bits + 7) / 8

/-- A relocation of a growth numbers its bytes from the channel's pointer (log entry 36); another packet with WP from WPB,
which is not below the pointer (12 R258). -/
def State.wpOk (s : State) (o ch : Nat) (r : CuRun) : Bool :=
  let p := parseCopy r.packet
  !p.wp || (s.transoms.any (ofPacket r.packet r.ten) && fieldAt r.packet 0 1 == 5) || ((s.octet o).wp.get 0 ch).toNat ≤ p.wpb

/-- A packet with WP starts: the channel keeps the destination (10 R226), but that of GATHER and COLL stands in their
descriptors; a relocation takes the base of its numbers. -/
def State.startWp (s : State) (o ch : Nat) (r : CuRun) : State :=
  let p := parseCopy r.packet
  let cur := ((s.octet o).wp.get 0 ch).toNat
  if !p.wp then s
  else
    let s := if fieldAt r.packet 0 1 = 3 ∨ fieldAt r.packet 0 1 = 4 then s else s.noteWp o ch r.ten p.dst (s.destLen o ch r)
    if fieldAt r.packet 0 1 = 5 then
      { s with transoms := s.transoms.map (fun x => if ofPacket r.packet r.ten x then { x with base := cur } else x) }
    else s

/-- The taken packet starts, by its microcode or by the unit's own performance of what its microcode does; an entry word of
0 or a malformed packet ends it, as a pointer that would go back does (12 R244, R245, R256, R258). -/
def State.startPacket (s : State) (o ch : Nat) (r : CuRun) : State :=
  let pc := s.entryOf (s.cuctl o) (fieldAt r.packet 0 1)
  if (s.octet o).cuFailed then s.failPacket o ch cHW_ERROR 0
  else if pc = 0 ∨ packetOk r.packet = false ∨ s.wpOk o ch r = false then s.failPacket o ch cFORMAT 0
  else if r.micro then (s.startWp o ch r).setCtxOf (.cu o ch) (microCtx r.packet r.qaddr ch (r.ten % 16) pc)
  else s.startWp o ch r

/-- The queue that register q of an octet's engine block attaches: its descriptor and tenant (12 R245). -/
def State.cuQueue (s : State) (o q : Nat) : Option (Nat × Nat) :=
  let w := (s.ctlWord (0x600040 + 0x1000 * o + 8 * q)).toNat
  if w.testBit 63 then some (bitsOf w 51 6 * 64, bitsOf w 55 52) else none

/-- A queue descriptor keeps the table of 12 R255. The unit takes no packet of one that does not (log entry 108). -/
def State.queueOk (s : State) (d : Nat) : Bool :=
  1 ≤ s.homeNat (d + 24) 1 && s.homeNat (d + 24) 1 ≤ 12 && s.homeNat (d + 25) 1 < 8 && s.homeNat (d + 26) 6 == 0
    && s.homeNat (d + 16) 8 % 64 == 0 && s.homeNat (d + 32) 8 % 32 == 0 && s.homeNat (d + 48) 8 == 0 && s.homeNat (d + 56) 8 == 0

/-- The packet at RI of a queue, read as the queue's tenant reads it: the run is installed first. -/
def State.peekPacket (s : State) (o ch q d ten : Nat) : Except Stop (Option (Nat × List Byte) × State) :=
  runAs (s.setRun o ch (newRun [] q d 0 ten false)) (.cu o ch) (nextPacket d)

/-- Queue q serves a channel and has a packet, or a slot whose page is to be asked for. -/
def State.hasPacket (s : State) (o ch q : Nat) : Bool :=
  match s.cuQueue o q with
  | none => false
  | some (d, ten) => s.queueOk d && s.homeNat (d + 25) 1 == ch && (match s.peekPacket o ch q d ten with
    | .ok (some _, _) => true
    | .error (.page _ _) => true
    | _ => false)

/-- The queue whose packet a channel takes next: round robin, one packet per turn (12 R255). -/
def State.nextCuQueue (s : State) (o ch : Nat) : Option Nat :=
  ((List.range 32).map (fun i => ((s.octet o).cuTurn.get 31 ch + 1 + i) % 32)).find? (s.hasPacket o ch)

/-- A channel is idle, and may take a packet. -/
def State.chanIdle (s : State) (o ch : Nat) : Bool := ((s.octet o).chans.get none ch).isNone && !s.stalled (.cu o ch)

/-- The copy unit takes the packet at RI of a queue (12 R255). -/
def State.takePacket (s : State) (o ch q d ten : Nat) (micro : Bool) : State :=
  match s.peekPacket o ch q d ten with
  | .ok (some (ri, bs), t) =>
    let r := newRun bs q d ri ten micro
    let t := (t.homeWriteNat (1080 + o) (d + 8) 8 ((ri + 1) % 2 ^ 32)).setRun o ch r
    let x := t.octet o
    (t.setOctet o { x with cuTurn := x.cuTurn.set 31 ch q }).startPacket o ch r
  | .error (.page va acc) => s.postFault (o / 6) va ten acc (.hart (.cu o ch))
  | _ => s

def execPacketTake (octet q : Nat) (micro : Bool) (s : State) : Out :=
  match s.cuQueue octet q with
  | none => .next s
  | some (d, ten) =>
    let ch := s.homeNat (d + 25) 1 % 8
    onlyIf (octet < 120 && q < 32 && (s.cuctl octet).testBit 63 && !(s.octet octet).halted && s.chanIdle octet ch
        && s.nextCuQueue octet ch == some q) s
      (s.takePacket octet ch q d ten micro)

/-! ### Elements of a copy (12 R257) -/

/-- What a destination position takes: its bits, a saturation, and whether its source is poisoned. -/
structure Moved where
  x   : Nat
  sat : Bool
  bad : Option Nat
  deriving DecidableEq, Repr

/-- The value of SCALE. -/
def CopyP.scaleV (p : CopyP) : FV := if p.scale = 0 then .fin false 1 1 else decodeF fp32 p.scale

/-- The formats of a copy: source, destination and the destination's geometry, the bits of a source element, and whether
bytes are moved raw, as RELOC moves them whatever the formats. -/
structure CopyF where
  src  : Nat
  dst  : Nat
  geo  : Nat
  bits : Nat
  raw  : Bool
  deriving DecidableEq, Repr

/-- Where a byte of a KV page is a code: of a key block or a value block, which one, and the byte's place in it (03 R59, R60;
16 R310). -/
def kvCode (off : Nat) : Option (Bool × Nat × Nat) :=
  if off < 0x200 then none
  else if off < 0x600 then some (true, 0, off - 0x200)
  else if off < 0x800 then none
  else if off < 0x1000 then some (false, 0, off - 0x800)
  else if off < 0x1400 then some (true, 1, off - 0x1000)
  else if off < 0x1600 then none
  else if off < 0x1E00 then some (false, 1, off - 0x1600)
  else none

/-- The bits of an element of a page: of a KV4 page, those of the codes of the block that the address names (log
entry 109). -/
def elemWidth (fmt va : Nat) : Nat :=
  if fmt = 13 then (match kvCode (va % 8192) with | some (true, _) => 4 | _ => 8) else fmtBits fmt

/-- The formats are legal together, and addresses and strides fall on elements; the rows of a BS4 destination fall on blocks
(12 R256, R257, log entries 38 and 105). -/
def copyFits (fill : Bool) (p : CopyP) (f : CopyF) : Bool :=
  let z := max 1 (fmtBits f.dst / 8)
  let zs := max 1 (f.bits / 8)
  let half := 8 * 2 ^ (f.geo % 4)
  if f.raw then f.dst != 13 || f.src == 0 || f.src == 13
  else f.dst != 13 && (fill || ((f.src == 0) == (f.dst == 0) && p.src % zs == 0 && p.sstr % zs == 0))
    && p.dst % z == 0 && p.dstr % z == 0
    && (f.dst != 12 || (p.dst % half == 0 && p.dstr % half == 0 && p.dcols % (2 * half) == 0))

/-- The formats of a packet's pages, checked. -/
def copyFormats (fill raw : Bool) (p : CopyP) : M CopyF := do
  let (sf, _) ← if fill then pure (0, 0) else pageFormat p.src
  let (_, pg) ← checkAccess p.dst .write anyPage
  let f : CopyF := { src := sf, dst := pg.fmt, geo := pg.geom, bits := if raw then 8 else elemWidth sf p.src, raw := raw }
  if !(copyFits fill p f) then trap cFORMAT p.dst
  pure f

/-- The address of the source element at row r, column c. -/
def CopyP.from_ (p : CopyP) (f : CopyF) (r c : Nat) : Nat := p.src + r * p.sstr + c * f.bits / 8

/-- A byte of the source as it stands, and the address of poisoned data. -/
def sourceByte (p : CopyP) (f : CopyF) (r c : Nat) : M (Nat × Option Nat) := do
  let va := p.from_ f r c
  let (loc, pg) ← checkAccess va .read (fun _ pg => pg.fmt != f.src)
  let (bs, bad) ← fetchLoc loc pg 1 .home
  pure (ofBytes bs, if bad then some va else none)

/-- The source element at row r, column c: its bits and scale byte, and the address of poisoned data. -/
def sourceElem (p : CopyP) (f : CopyF) (r c : Nat) : M ElemRead := do
  let ten ← getTen
  let s ← get
  let va := p.from_ f r c
  let (loc, pg) ← checkShadowed va .read (fun _ pg => pg.fmt != f.src) (shadowAt s ten va) (fun _ => pure ())
  readElem va (c % 2) f.bits loc pg .home

/-- Bytes of a KV page at their homes, and whether one is poisoned. -/
def kvBytes (va n : Nat) : M (List Byte × Bool) := do
  let (loc, pg) ← checkAccess va .read (fun _ pg => pg.fmt != 13)
  fetchLoc loc pg n .home

/-- The value of a KV4 element, the code at an address and nibble, and whether a word that gives it is poisoned. An address
that holds no code, or a key block that breaks 03 R59, ends the packet with FORMAT (03 R59, R60; 12 R257). -/
def kvElem (va nib : Nat) : M (FV × Bool) := do
  let page := va / 8192 * 8192
  match kvCode (va % 8192) with
  | none => trap cFORMAT va
  | some (true, b, i) => do
    let k := page + keyOff b
    let c := 2 * (i % 64) + nib
    let (hd, bad0) ← kvBytes page 1
    let (bs, _) ← kvBytes k 1536
    let (_, bad1) ← kvBytes va 1
    let (_, bad2) ← kvBytes (k + 1024 + 2 * c) 2
    let (_, bad3) ← kvBytes (k + 1280) (2 + 4 * min 63 (fieldAt bs 1280 2))
    match keyOutliers bs (ofBytes hd) with
    | none => trap cFORMAT va
    | some es => pure (decodeKey bs es (i / 64) c, bad0 || bad1 || bad2 || bad3)
  | some (false, b, i) => do
    let (sc, bad0) ← kvBytes (page + 64 + 2 * (16 * b + i / 128)) 2
    let (x, bad1) ← kvBytes va 1
    pure (exactMul (decodeF e4m3 (ofBytes x)) (decodeF fp16 (ofBytes sc)), bad0 || bad1)

/-- The exact value that a position takes, whether it comes from a block that is not a number, and its poison; and whether
it is an integer's. Positions outside the source take FILLV. -/
def positionValue (fill : Bool) (p : CopyP) (f : CopyF) (i j : Nat) : M (FV × Bool × Option Nat × Bool) := do
  let (r, c) := if p.trans then (j, i) else (i, j)
  if !fill && r < p.rows && c < p.cols then do
    if f.src = 13 then do
      let va := p.from_ f r c
      let (v, bad) ← kvElem va (if f.bits = 4 then c % 2 else 0)
      pure (scaledV v p.scaleV, false, if bad then some va else none, false)
    else do
    let e ← sourceElem p f r c
    let (v, nan) := if f.src = 12 then (match decodeBS4 e.x e.sb with | some v => (v, false) | none => (.nan false, true))
      else (decodeElem f.src e.x, false)
    pure (scaledV v p.scaleV, nan, e.bad, intFmt f.src)
  else pure (decodeF fp32 p.fillv, false, none, false)

/-- Positions of a row that lie outside the converted source. -/
def fillsOf (fill : Bool) (p : CopyP) (i : Nat) : Nat :=
  let (rows, cols) := if p.trans then (p.cols, p.rows) else (p.rows, p.cols)
  if fill || rows ≤ i then p.dcols else p.dcols - cols

/-- A position of a copy of raw bytes: the source's byte, or a byte that the spec leaves open (log entry 45). -/
def rawPosition (fill : Bool) (p : CopyP) (f : CopyF) (i j : Nat) : M Moved := do
  let (r, c) := if p.trans then (j, i) else (i, j)
  if !fill && r < p.rows && c < p.cols then do
    let (x, bad) ← sourceByte p f r c
    pure { x := x, sat := false, bad := bad }
  else do
    let x ← freeValue
    pure { x := x % 256, sat := false, bad := none }

/-- A position of a formatted destination that is not BS4. -/
def plainPosition (fill : Bool) (p : CopyP) (f : CopyF) (i j : Nat) : M Moved := do
  let (v, nan, bad, isInt) ← positionValue fill p f i j
  let m ← modeFor p.rnd (isFin v)
  let q := encodeConv f.dst m p.sat isInt v
  let x := if nan && intFmt f.dst then 0 else q.bits
  pure { x := x, sat := nan || q.fl &&& fSAT != 0, bad := bad }

/-- A block of a BS4 destination, with the type that its scale byte holds: its codes, and the new scale byte (03 R54). -/
def blockPositions (fill : Bool) (p : CopyP) (f : CopyF) (i j n t : Nat) : M (List Moved × Nat) := do
  let vs ← (List.range n).mapM (fun k => positionValue fill p f i (j + k))
  let modes ← vs.mapM (fun _ => modeFor p.rnd true)
  let (sb, codes, _) := encodeBS4 t modes (vs.map (·.1))
  let sats := if sb % 64 = 63 then vs.map (fun _ => false)
    else ((vs.map (·.1)).zip modes).map (fun q => (bs4Elem t (sb % 64) q.2 q.1).fl &&& fSAT != 0)
  pure (((vs.zip codes).zip sats).map (fun q => { x := q.1.2, sat := q.2 || q.1.1.2.1, bad := q.1.1.2.2.1 }), sb)

/-- Every word that n bytes at va touch becomes poisoned. -/
def poisonAt (va n : Nat) : M Unit := do
  let (loc, _) ← checkAccess va .write anyPage
  modify (fun s => match loc with
    | .dev pa => { s with poison := (wordsOf pa n).foldl (fun p w => p.set false w true) s.poison }
    | .scr key off => { s with spoison := (wordsOf off n).foldl (fun p w => p.set false (key * 2 ^ 15 + w) true) s.spoison }
    | .ln _ _ => s)

/-- Write a row of elements of `bits` bits at va; the high nibble of a last odd element stays. -/
def writeRow (va bits fmt : Nat) (xs : List Nat) : M Unit := do
  let refuse : Refuse := fun _ pg => pg.fmt != fmt
  if bits = 4 then do
    let last ← if xs.length % 2 = 1 then (do
        let (loc, pg) ← checkAccess (va + xs.length / 2) .write refuse
        let (bs, _) ← fetchLoc loc pg 1 .home
        pure [elemOf (ofBytes bs) 4 1]) else pure []
    writeRange va (bytesOf ((xs.length + 1) / 2) (packElems 4 (xs ++ last))) refuse
  else writeRange va (xs.flatMap (bytesOf (bits / 8))) refuse

/-- The blocks of a row of a BS4 destination. -/
def moveBlocks (fill : Bool) (p : CopyP) (f : CopyF) (i : Nat) : M (List Moved) := do
  let l := 16 * 2 ^ (f.geo % 4)
  let row := p.dst + i * p.dstr
  let out ← (List.range (p.dcols / l)).mapM (fun b => do
    let va := row + b * (l / 2)
    let (loc, pg) ← checkAccess va .write (fun _ pg => pg.fmt != 12 || pg.geom != f.geo)
    let sp ← scalePlace va loc pg .write
    match sp with
    | none => pure []
    | some (sva, sloc, spg) => do
      let (old, _) ← fetchLoc sloc spg 1 .home
      let (ms, sb) ← blockPositions fill p f i (b * l) l (ofBytes old / 64)
      writeLoc sva sloc spg [BitVec.ofNat 8 sb] true
      pure ms)
  let ms := out.flatMap id
  writeRow row 4 12 (ms.map (·.x))
  pure ms

/-- Move or fill row i of the destination, and poison the words that poisoned data reaches (19 R355). -/
def moveRow (fill : Bool) (p : CopyP) (f : CopyF) (i : Nat) : M (List Moved) := do
  let row := p.dst + i * p.dstr
  let bytes : Bool := f.raw || f.dst == 0
  let bits := if bytes then 8 else fmtBits f.dst
  let ms ← if f.dst = 12 ∧ f.raw = false then moveBlocks fill p f i
    else do
      let ms ← (List.range p.dcols).mapM (fun j => if bytes then rawPosition fill p f i j else plainPosition fill p f i j)
      writeRow row bits f.dst (ms.map (·.x))
      pure ms
  (ms.zipIdx).forM (fun m => match m.1.bad with
    | some _ => poisonAt (row + m.2 * bits / 8) (max 1 (bits / 8))
    | none => pure ())
  pure ms

/-! ### COPY and FILL -/

/-- The pointer of a packet with WP after the bytes written so far: whole sectors, and every byte at its end (12 R258). -/
def State.pointTo (s : State) (o ch : Nat) (r : CuRun) (last : Bool) : State :=
  if r.inOrder then
    s.publishWp o ch (max ((s.octet o).wp.get 0 ch).toNat ((parseCopy r.packet).wpb + (if last then r.bytes else r.bytes / 128 * 128)))
  else s

/-- The status of a packet that has done its work (12 R259). -/
def CuRun.status (r : CuRun) : Nat := if r.abort then 2 else if r.fault.isSome then 1 else 0

/-- The end of row i: counts, the write pointer, and after the last row the record (12 R258, R259). -/
def State.rowDone (s : State) (o ch : Nat) (r : CuRun) (p : CopyP) (bytes fills : Nat) (ms : List Moved) : State :=
  let bad := (ms.find? (fun m => m.bad.isSome)).bind (·.bad)
  let r : CuRun := { r with next := r.next + 1, bytes := r.bytes + bytes, fills := r.fills + fills,
                            sats := r.sats + (ms.filter (·.sat)).length,
                            fault := match r.fault with | some x => some x | none => bad.map (fun a => (cPOISON, a)) }
  let last : Bool := p.drows ≤ r.next
  let s := (s.setRun o ch r).pointTo o ch r last
  if last then s.endPacket o ch r.status false else s

/-- One row of a COPY, FILL or RELOC packet (log entry 45). -/
def rowBody (o ch : Nat) (r : CuRun) : M Unit := do
  let p := parseCopy r.packet
  let fill := fieldAt r.packet 0 1 == 2
  let f ← copyFormats fill (fieldAt r.packet 0 1 == 5) p
  let ms ← moveRow fill p f r.next
  let bytes := if f.raw ∨ f.dst = 0 then p.dcols else (p.dcols * fmtBits f.dst + 7) / 8
  modify (fun s => s.rowDone o ch r p bytes (fillsOf fill p r.next) ms)

def execCopy (octet chan : Nat) (s : State) : Out :=
  match s.cuReady octet chan 1 with
  | some r => .next (s.cuStep octet chan (rowBody octet chan r))
  | none => .next s

def execFill (octet chan : Nat) (s : State) : Out :=
  match s.cuReady octet chan 2 with
  | some r => .next (s.cuStep octet chan (rowBody octet chan r))
  | none => .next s

/-! ### GATHER (12 R260) -/

/-- A gather ends when every position is posted, or none may be, and every posted row has been written. -/
def State.gatherDone (s : State) (o ch : Nat) : State :=
  match (s.octet o).chans.get none ch with
  | none => s
  | some r =>
    let g := parseGather (r.packet.drop 64)
    if (r.abort || g.count ≤ r.next) && r.rows.isEmpty then (s.pointTo o ch r true).endPacket o ch r.status false
    else s

/-- The streamer reads the next 256-byte chunk of the list at the homes and posts its positions in list order. -/
def gatherChunk (o ch : Nat) (r : CuRun) : M Unit := do
  let g := parseGather (r.packet.drop 64)
  let n := min 64 (g.count - r.next)
  let bs ← readRange (g.list + 4 * r.next) (4 * n) anyPage
  let _ ← postRows g ((fieldAt r.packet 1 1).testBit 3) o ch ((List.range n).map (fun i => fieldAt bs (4 * i) 4))
  modify (fun s => s.gatherDone o ch)

/-- The descriptor joins the packet when it has been read, aligned to 64. -/
def gatherStart (o ch : Nat) (r : CuRun) : M Unit := do
  let va := fieldAt r.packet 8 8
  if va % 64 ≠ 0 then trap cFORMAT va
  let d ← readRange va 64 anyPage
  let g := parseGather d
  if g.count = 0 || 2 ^ 32 < g.count || g.row < 8 || 4096 < g.row || g.row % 8 != 0 || g.list % 4 != 0 || g.dst % 8 != 0 || g.base % 8 != 0 then
    trap cFORMAT va
  modify (fun s =>
    let s := s.setRun o ch { r with packet := r.packet.take 64 ++ d }
    if r.inOrder then s.noteWp o ch r.ten g.dst (g.count * g.row) else s)

def execGatherPacket (octet chan : Nat) (s : State) : Out :=
  match s.cuReady octet chan 3 with
  | some r => .next (s.cuStep octet chan
      (if r.packet.length = 64 then gatherStart octet chan r
       else if r.abort ∨ (parseGather (r.packet.drop 64)).count ≤ r.next then modify (fun s => s.gatherDone octet chan)
       else gatherChunk octet chan r))
  | none => .next s

/-- The bytes of a row at its owner, and whether a word of them is poisoned; zeros for the row of a refused or out-of-range
index. -/
def rowBytes (g : GatherP) (va : Nat) : M (List Byte × Bool) := do
  if va = zeroRow then pure (List.replicate g.row 0, false)
  else do
    let ds ← (pageParts va (g.row / 4096 + 2) g.row).mapM (fun q => do
      let (loc, pg) ← checkAccess q.1 .read anyPage
      fetchLoc loc pg q.2 .home)
    pure (ds.flatMap (·.1), ds.any (·.2))

/-- The row of one posted position returns and is written. Poisoned data is written as poisoned words (19 R355). -/
def gatherReturn (o ch : Nat) (g : GatherP) (r : CuRun) (row : Nat) (j va : Nat) : M Unit := do
  let (bs, bad) ← rowBytes g va
  putRow g j bs
  if bad then poisonAt (g.dst + j * g.row) g.row
  let t : CuRun := { r with rows := dropIdx r.rows row, bytes := r.bytes + g.row,
                            fault := if bad then some (r.fault.getD (cPOISON, va)) else r.fault }
  modify (fun s =>
    let s := (s.setRun o ch t).pointTo o ch t false
    (if va = zeroRow then s else s.countOctet o 42 1).gatherDone o ch)

/-- A row returns, in any order; of a packet with WP, whose bytes are written in ascending order, the first (12 R258). -/
def execGatherRowReturn (octet chan row : Nat) (s : State) : Out :=
  match (s.octet octet).chans.get none chan with
  | none => .next s
  | some r => match r.rows[row]? with
    | none => .next s
    | some (j, va) =>
      let g := parseGather (r.packet.drop 64)
      onlyIf (!r.done && !s.stalled (.cu octet chan) && r.packet.length == 128 && (row == 0 || !r.inOrder)) s
        (s.cuStep octet chan (gatherReturn octet chan g r row j va))

/-! ### COLL (08 R181, 18 R349) -/

/-- The entry of a group is valid and names this group, tenant and world; its member count and this package's rank. -/
def State.collGroup (s : State) (gid ten : Nat) : Option (Nat × Nat) :=
  let e := (List.range 16).flatMap (fun i => bytesOf 8 (s.ctlWord (0x100000 + 128 * (gid % 4096) + 8 * i)).toNat)
  let n := fieldAt e 2 1
  if fieldAt e 0 2 = gid ∧ 1 ≤ n ∧ n ≤ 64 ∧ fieldAt e 3 1 < n ∧ fieldAt e 4 1 = ten ∧ (fieldAt e 5 1 == 1) = s.worldOf ten then
    some (n, fieldAt e 3 1) else none

/-- A collective over its buffer of qbyte elements. Alone in its group a package keeps its data; what other packages
contribute is open (log entry 46). A broadcast changes nothing at rank 0, and a barrier nothing at all. -/
def collBody (o ch : Nat) (r : CuRun) : M Unit := do
  let va := fieldAt r.packet 8 8
  if va % 64 ≠ 0 then trap cFORMAT va
  let d ← readRange va 64 anyPage
  let base := fieldAt d 0 8
  let n := 4 * fieldAt d 8 8
  let opc := fieldAt r.packet 2 1
  let s ← get
  match s.collGroup (fieldAt d 16 8) r.ten with
  | none => trap cFORMAT va
  | some (members, rank) => do
    if 4 < opc || (opc != 4 && base % 4 != 0) then trap cFORMAT va
    let dest : Bool := opc != 4 && !(opc == 3 && rank == 0)
    let writes : Bool := 1 < members && dest
    if dest then do
      let _ ← writePlaces notKv (pageParts base (n / 4096 + 2) n)
      pure ()
    if writes then do
      let x ← freeValue
      writeRange base (bytesOf n x) notKv
    let t : CuRun := { r with bytes := if writes then n else 0 }
    modify (fun s =>
      let s := if r.inOrder then s.noteWp o ch r.ten base n else s
      ((s.setRun o ch t).pointTo o ch t true).endPacket o ch 0 false)

def execCollPacket (octet chan : Nat) (s : State) : Out :=
  match s.cuReady octet chan 4 with
  | some r => .next (s.cuStep octet chan (collBody octet chan r))
  | none => .next s

/-! ### RELOC and the end of a growth (16 R314, R315) -/

/-- Copy the next n bytes of the slab of a growth, and publish the write pointer. -/
def slabBody (o ch n total : Nat) (r : CuRun) : M Unit := do
  let p := parseCopy r.packet
  let s ← get
  let k := min n (total - r.bytes)
  let (_, dpg) ← checkAccess (p.dst + r.bytes) .write anyPage
  let ds ← (pageParts (p.src + r.bytes) (k / 4096 + 2) k).mapM (fun q => do
    let (loc, pg) ← checkAccess q.1 .read (fun _ pg => dpg.fmt == 13 && pg.fmt != 0 && pg.fmt != 13)
    fetchLoc loc pg q.2 .home)
  writeRange (p.dst + r.bytes) (ds.flatMap (·.1)) anyPage
  let bad := ds.any (·.2)
  if bad then poisonAt (p.dst + r.bytes) k
  let base := match s.transoms.find? (ofPacket r.packet r.ten) with | some t => t.base | none => p.wpb
  let t : CuRun := { r with bytes := r.bytes + k, fault := if bad then some (r.fault.getD (cPOISON, p.src + r.bytes)) else r.fault }
  modify (fun s =>
    let s := s.setRun o ch t
    if p.wp then s.publishWp o ch (base + (if t.bytes < total then t.bytes / 128 * 128 else t.bytes)) else s)

/-- A relocation of a growth moves so many bytes of its slab, whole sectors; another moves its next row, raw bytes by the
strides of the packet (12 R256; log entry 36). -/
def execReloc (octet chan bytes : Nat) (s : State) : Out :=
  match s.cuReady octet chan 5 with
  | some r => (match s.slabBytes r with
    | some total => if 0 < bytes ∧ bytes % 128 = 0 then .next (s.cuStep octet chan (slabBody octet chan bytes total r)) else .next s
    | none => .next (s.cuStep octet chan (rowBody octet chan r)))
  | none => .next s

/-- The channel that carries a relocation. -/
def State.relocRun (s : State) (p : Transom) : Option (Nat × Nat × CuRun) :=
  ((List.range 120).flatMap (fun o => (List.range 8).map (fun ch => (o, ch)))).findSome? (fun (o, ch) =>
    match (s.octet o).chans.get none ch with
    | some r => if fieldAt r.packet 0 1 = 5 ∧ ofPacket r.packet r.ten p = true ∧ r.done = false then some (o, ch, r) else none
    | none => none)

/-- The growth is complete: the entry takes the new base and size, the pair is free, and the packet's record is written. -/
def State.growDone (s : State) (p : Transom) : State :=
  let e := s.seqEntry p.ten p.seq
  let s := match s.relocRun p with
    | some (o, ch, r) => if r.micro then s else s.endPacket o ch r.status false
    | none => s
  { s with transoms := s.transoms.filter (fun x => !(x.die == p.die && x.pair == p.pair)) }.setSeqEntry p.ten p.seq
    { e with base := p.new, lsize := e.lsize + 1, grow := false, tpd := 0, tpn := 0 }

def execKvgrowComplete (die pair : Nat) (s : State) : Out :=
  match s.transoms.find? (fun p => p.die == die && p.pair == pair) with
  | none => .next s
  | some p => onlyIf (p.mark == 2 ^ (s.seqEntry p.ten p.seq).lsize) s (s.growDone p)

end Sys2Proof.Machine
end

