-- ==== Sys2Proof/Machine/LaunchEvents.lean ====
section
/-! DEFINITION. Steps of the command processors: command packets, launches, the hazard table, co-location, slices and
pre-emption, saves (10 R223; 14 R280 to R288, R293 to R295; 20 R371). -/

namespace Sys2Proof.Machine

/-! ### Command queues (14 R280 to R282) -/

/-- The queue of a cluster whose descriptor is at qa. -/
def State.cpQueue (s : State) (cl qa : Nat) : Option CpQueue := (s.queues.get [] cl).find? (fun q => q.desc == qa)
def State.setCpQueue (s : State) (cl : Nat) (q : CpQueue) : State :=
  { s with queues := s.queues.set [] cl ((s.queues.get [] cl).map (fun x => if x.desc = q.desc then q else x)) }

/-- A write at a home by a cluster's command processor. -/
def State.cpWrite (s : State) (cl a : Nat) (bs : List Byte) : State := s.homeWrite (1204 + controlCoreOf cl) a bs

/-- The tenant of a queue, its SYS bit, and its slot count. -/
def State.queueTen (s : State) (qa : Nat) : Nat := s.homeNat (qa + 43) 1 % 16
def State.queueSys (s : State) (qa : Nat) : Bool := (s.homeNat (qa + 42) 1).testBit 0
def State.queueSlots (s : State) (qa : Nat) : Nat := 2 ^ (s.homeNat (qa + 40) 1 % 16)

/-- STEP of the descriptor. -/
def State.setStep (s : State) (cl qa n : Nat) : State := s.cpWrite cl (qa + 41) (bytesOf 1 n)

/-- The packet at RI of a queue that may take one: WI as last read lies above RI, the slot holds sequence RI, and no packet
ahead is in its step 0 or between its steps. The ring is reached by physical address (log entry 47). -/
def State.readyPacket (s : State) (q : CpQueue) : Option (Nat × List Byte) :=
  let qa := q.desc
  let ri := s.homeNat (qa + 8) 4
  let bs := s.homeBytes (s.homeNat (qa + 24) 8 + 64 * (ri % s.queueSlots qa)) 64
  let waits : Bool := s.launches.any (fun e => match e.2 with | some x => x.queue == qa && !x.started && x.failed.isNone | none => false)
  if q.step = 0 ∧ ri ≠ q.wi ∧ fieldAt bs 4 4 = ri ∧ waits = false then some (ri, bs) else none

/-- The queue of a cluster that takes the next packet: round robin, one packet per turn (14 R280). -/
def State.turnQueue (s : State) (cl : Nat) : Option CpQueue :=
  let qs := s.queues.get [] cl
  let turn := (s.cpTurn.get 63 cl + 1) % 64
  (qs.drop turn ++ qs.take turn).find? (fun q => (s.readyPacket q).isSome)

/-- The packet that a queue takes, where it is the queue's turn. -/
def State.nextCommand (s : State) (cl qa : Nat) : Option (CpQueue × Nat × List Byte) :=
  match s.turnQueue cl with
  | none => none
  | some q => if q.desc = qa then (s.readyPacket q).map (fun p => (q, p.1, p.2)) else none

/-- The sequences of a queue's packets that have been consumed and have no record. -/
def State.openSeqs (s : State) (cl qa : Nat) : List Nat :=
  s.launches.filterMap (fun e => match e.2 with | some x => if x.queue = qa then some x.seq else none | none => none)
    ++ (match s.cpQueue cl qa with | some q => if q.step = 0 then [] else [q.seq] | none => [])

/-- CI advances over every sequence below which no record is missing. -/
def State.advanceCI (s : State) (cl qa : Nat) : State :=
  let ci := s.homeNat (qa + 16) 4
  let dist (i : Nat) : Nat := (i + 2 ^ 32 - ci) % 2 ^ 32
  let n := (s.openSeqs cl qa).foldl (fun m i => min m (dist i)) (dist (s.homeNat (qa + 8) 4))
  s.cpWrite cl (qa + 16) (bytesOf 8 ((ci + n) % 2 ^ 32))

/-- A completion record (14 R282). -/
def commandRecord (seq status cause core thread epc eval : Nat) : List Byte :=
  bytesOf 4 seq ++ bytesOf 1 status ++ bytesOf 1 cause ++ bytesOf 2 core ++ bytesOf 1 thread ++ bytesOf 7 0 ++ bytesOf 8 epc ++ bytesOf 8 eval

/-- Write a packet's record, then advance CI. -/
def State.complete (s : State) (cl qa seq : Nat) (record : List Byte) : State :=
  (s.cpWrite cl (s.homeNat (qa + 32) 8 + 32 * (seq % s.queueSlots qa)) record).advanceCI cl qa

/-- STEP of the packet of a sequence, while it stands at RI − 1 (14 R280, R295). -/
def State.stepOf (s : State) (cl qa seq n : Nat) : State :=
  if s.homeNat (qa + 8) 4 = (seq + 1) % 2 ^ 32 then s.setStep cl qa n else s

/-- The place of a queue among those that its cluster serves. -/
def State.queuePlace (s : State) (cl qa : Nat) : Nat := ((findIdx? (fun (q : CpQueue) => q.desc == qa) (s.queues.get [] cl) 0).map (·.1)).getD 0

/-- RI passes the packet that has been taken, which is in its step 0, and the queue has had its turn. -/
def State.consume (s : State) (cl qa ri : Nat) : State :=
  { s.cpWrite cl (qa + 8) (bytesOf 8 ((ri + 1) % 2 ^ 32)) with cpTurn := s.cpTurn.set 63 cl (s.queuePlace cl qa) }.setStep cl qa 0

/-- A packet is refused: record with status 2, and the packet is consumed. -/
def State.refuse (s : State) (cl qa ri cause addr : Nat) : State :=
  (s.consume cl qa ri).complete cl qa ri (commandRecord ri 2 cause 0 0 0 addr)

/-- Bytes of a packet that its row does not use are zero. -/
def zerosFrom (bs : List Byte) (l : List (Nat × Nat)) : Bool := l.all (fun r => fieldAt bs r.1 r.2 == 0)

/-- The check of an address of a command and of n bytes there that are read: translated for the tenant, as an atomic's, in
device memory of FMT RAW; the command processor posts no page fault (14 R281, R283). It answers the physical address, or the
cause. -/
def State.cpCheck (s : State) (cl ten va align n : Nat) (write : Bool) : State × Except Nat Nat :=
  match s.homeCheck (.me (6 * cl) 0) ten va align write with
  | (s, .post) => (s, .error cPAGE_FAULT)
  | (s, .bad k) => (s, .error k)
  | (s, .ok pa) => (s, if 0 < n ∧ s.homePoisoned pa n = true then .error cPOISON else .ok pa)

/-! ### WRSIG, WAIT and BARRIER (14 R281, R295) -/

/-- The INTR target word of a WRSIG is 0 or names an interrupt (08 R189, log entry 48). -/
def targetOk (x : Nat) : Bool := x == 0 || (x < 2 ^ 27 && bitsOf x 15 5 == 0 && x % 32 < 24 && 1 ≤ bitsOf x 26 16)

/-- Step 0 of a WRSIG: the write. -/
def State.wrsigWrite (s : State) (cl : Nat) (q : CpQueue) (ri : Nat) (bs : List Byte) : State :=
  let va := fieldAt bs 8 8
  if !(zerosFrom bs [(1, 3), (32, 32)]) || !(targetOk (fieldAt bs 24 8)) then s.refuse cl q.desc ri 0 0
  else match s.cpCheck cl (s.queueTen q.desc) va 8 8 true with
    | (s, .error k) => s.refuse cl q.desc ri k va
    | (s, .ok pa) =>
      let s := (s.consume cl q.desc ri).cpWrite cl pa (bytesOf 8 (fieldAt bs 16 8))
      (s.setCpQueue cl { q with step := 1, packet := bs, seq := ri }).setStep cl q.desc 1

/-- Step 1 of a WRSIG: the signal. -/
def State.wrsigSignal (s : State) (cl : Nat) (q : CpQueue) : State :=
  let x := fieldAt q.packet 24 8
  let s := if x = 0 then s else s.irq (x % 32) (bitsOf x 26 16)
  ((s.setCpQueue cl { q with step := 0, packet := [], seq := 0 }).setStep cl q.desc 0).complete cl q.desc q.seq (commandRecord q.seq 0 0 0 0 0 0)

def execWrsig (cl qa : Nat) (s : State) : Out :=
  match s.cpQueue cl qa with
  | none => .next s
  | some q =>
    if q.step = 1 then .next (s.wrsigSignal cl q)
    else match s.nextCommand cl qa with
      | some (q, ri, bs) => if fieldAt bs 0 1 = 2 then .next (s.wrsigWrite cl q ri bs) else .next s
      | none => .next s

/-- A packet that waits is done. -/
def State.waitDone (s : State) (cl : Nat) (q : CpQueue) : State :=
  (s.setCpQueue cl { q with step := 0, packet := [], seq := 0 }).complete cl q.desc q.seq (commandRecord q.seq 0 0 0 0 0 0)

/-- A packet is taken and waits in its step 0. -/
def State.startWait (s : State) (cl : Nat) (q : CpQueue) (ri step : Nat) (bs : List Byte) : State :=
  (s.consume cl q.desc ri).setCpQueue cl { q with step := step, packet := bs, seq := ri }

/-- A WAIT that has been taken ends once its condition holds at the word's home; an address that fails its check ends it
with status 2. -/
def State.tryWait (s : State) (cl : Nat) (q : CpQueue) : State :=
  let va := fieldAt q.packet 8 8
  match s.cpCheck cl (s.queueTen q.desc) va 8 8 true with
  | (s, .error k) =>
    (s.setCpQueue cl { q with step := 0, packet := [], seq := 0 }).complete cl q.desc q.seq (commandRecord q.seq 2 k 0 0 0 va)
  | (s, .ok pa) => if intCond (fieldAt q.packet 1 1) (s.homeNat pa 8) (fieldAt q.packet 16 8) then s.waitDone cl q else s

def State.takeWait (s : State) (cl : Nat) (q : CpQueue) (ri : Nat) (bs : List Byte) : State :=
  let va := fieldAt bs 8 8
  if 6 ≤ fieldAt bs 1 1 || !(zerosFrom bs [(2, 2), (24, 40)]) then s.refuse cl q.desc ri 0 0
  else match s.cpCheck cl (s.queueTen q.desc) va 8 8 true with
    | (s, .error k) => s.refuse cl q.desc ri k va
    | (s, .ok _) => (s.startWait cl q ri 2 bs).tryWait cl { q with step := 2, packet := bs, seq := ri }

def execWait (cl qa : Nat) (s : State) : Out :=
  match s.cpQueue cl qa with
  | none => .next s
  | some q =>
    if q.step = 2 then .next (s.tryWait cl q)
    else match s.nextCommand cl qa with
      | some (q, ri, bs) => if fieldAt bs 0 1 = 3 then .next (s.takeWait cl q ri bs) else .next s
      | none => .next s

/-- A BARRIER ends once every earlier launch of its queue has completed. -/
def State.tryBarrier (s : State) (cl : Nat) (q : CpQueue) : State :=
  if s.launches.any (fun e => match e.2 with | some x => x.queue == q.desc | none => false) then s else s.waitDone cl q

def execBarrier (cl qa : Nat) (s : State) : Out :=
  match s.cpQueue cl qa with
  | none => .next s
  | some q =>
    if q.step = 3 then .next (s.tryBarrier cl q)
    else match s.nextCommand cl qa with
      | some (q, ri, bs) =>
        if fieldAt bs 0 1 = 4 then
          if zerosFrom bs [(1, 3), (8, 56)] then .next ((s.startWait cl q ri 3 bs).tryBarrier cl { q with step := 3, packet := bs, seq := ri })
          else .next (s.refuse cl qa ri 0 0)
        else .next s
      | none => .next s

/-- The command processor reads WI (14 R280). -/
def execQueuePoll (cl qa : Nat) (s : State) : Out :=
  match s.cpQueue cl qa with
  | some q => .next (s.setCpQueue cl { q with wi := s.homeNat qa 4 })
  | none => .next s

/-! ### LAUNCH: admission (14 R283) -/

/-- The fields of a launch descriptor are within their ranges. -/
def launchFieldsOk (d : List Byte) : Bool :=
  let pc (a : Nat) : Bool := pcOk (fieldAt d a 8)
  let slice := fieldAt d 36 4
  pc 0 && fieldAt d 8 8 < fieldAt d 16 8 && 1 ≤ fieldAt d 24 8 && fieldAt d 24 8 ≤ 2 ^ 15
    && 1 ≤ fieldAt d 32 1 && fieldAt d 32 1 ≤ 4 && fieldAt d 33 1 < 4 && fieldAt d 34 1 < 8 && fieldAt d 35 1 < 16
    && (slice == 0 || (50 ≤ slice && slice ≤ 1000000)) && pc 48 && pc 56 && fieldAt d 111 1 == 0
    && (List.range 16).all (fun i => !(fieldAt d (112 + i) 1).testBit 6)

/-- The octets that a mask names. -/
def maskOctets (mask : Nat) : List Nat := (List.range 120).filter (fun o => mask.testBit o)

/-- The mask keeps the rules of 14 R283 and 19 R359 for a tenant's grant. -/
def State.maskOk (s : State) (ten mask : Nat) (fuse : Bool) : Bool :=
  let grant := match s.tenants.get none ten with | some t => t.grant | none => 0
  mask != 0 && (maskOctets mask).all (fun o => grant.testBit o && (List.range 8).all (fun j => !(s.core (8 * o + j)).failed))
    && (!fuse || (List.range 20).all (fun c => (List.range 6).all (fun i => !mask.testBit (6 * c + i)) || (List.range 6).all (fun i => mask.testBit (6 * c + i))))

/-- A buffer list: its ids with R and W; none where it breaks 14 R287. -/
def bufferList (bs : List Byte) : Option (List (Nat × Bool × Bool)) :=
  let n := fieldAt bs 0 4
  let es := (List.range n).map (fun i => fieldAt bs (4 + 4 * i) 4)
  if 16 < n || es.any (fun e => 2 ^ 18 ≤ e || bitsOf e 17 16 == 0) then none else some (es.map (fun e => (e % 2 ^ 16, e.testBit 16, e.testBit 17)))

/-- A channel word is well formed (14 R283, 07 R160). -/
def chanWordOk (w : Nat) : Bool :=
  let g := bitsOf w 23 12
  let total := 2 ^ (g % 16 + bitsOf g 11 8)
  bitsOf w 11 6 == 0 && bitsOf w 31 24 == 0 && w < 2 ^ 50 && geometryOk g && bitsOf w 49 32 % total == 0 && bitsOf w 49 32 + total ≤ 0x40000

/-- A channel list; none where it breaks 14 R283. -/
def channelList (bs : List Byte) : Option (List Nat) :=
  let n := fieldAt bs 0 4
  let ws := (List.range n).map (fun i => fieldAt bs (8 + 8 * i) 8)
  if 64 < n || fieldAt bs 4 4 != 0 || !(ws.all chanWordOk) then none else some ws

/-- Check addresses in turn, each with its alignment, the bytes read there, and whether the device writes it: the state, and
the first that fails with its cause. -/
def State.checkAll (s : State) (cl ten : Nat) : List (Nat × Nat × Nat × Bool) → State × Option (Nat × Nat)
  | [] => (s, none)
  | (va, align, n, w) :: r => match s.cpCheck cl ten va align n w with
    | (s, .error k) => (s, some (k, va))
    | (s, .ok _) => s.checkAll cl ten r

/-- The bytes of a range of device memory that has been checked, page by page. -/
def State.cpBytes (s : State) (cl ten va n : Nat) : List Byte :=
  (s.physRanges (.me (6 * cl) 0) ten va n).flatMap (fun r => s.homeBytes r.1 r.2)

/-- The places of a ring: its descriptor, then its base. -/
def State.ringPlaces (s : State) (cl ten va : Nat) : List (Nat × Nat × Nat × Bool) :=
  [(va, 64, 64, true), (fieldAt (s.cpBytes cl ten (va + 16) 8) 0 8, 64, 0, true)]

/-- The words of a list, up to its count: the count, and `step` bytes for each of at most `most` entries from byte `head`
(14 R283, R287). -/
def State.listPlaces (s : State) (cl ten va head step most : Nat) : List (Nat × Nat × Nat × Bool) :=
  let n := fieldAt (s.cpBytes cl ten va 4) 0 4
  if va = 0 then []
  else (va, step, 4, false) :: (List.range (if n ≤ most then n else 0)).map (fun i => (va + head + step * i, step, step, false))

/-- A launch as its descriptor gives it. -/
def makeLaunch (ten cl qa seq va : Nat) (d : List Byte) (bufs : List (Nat × Bool × Bool)) (chans : List Nat) : Launch :=
  let w (a : Nat) : Word := BitVec.ofNat 64 (fieldAt d a 8)
  let fl := fieldAt d 34 1
  let sl := fieldAt d 36 4
  { ten := ten, cl := cl, queue := qa, seq := seq, desc := BitVec.ofNat 64 va, entry := w 0, lo := w 8, hi := w 16, grain := w 24,
    dom := fieldAt d 32 1, low := (fieldAt d 33 1).testBit 0, sys := (fieldAt d 33 1).testBit 1, fuse := fl.testBit 0, acq := fl.testBit 1,
    coloc := fl.testBit 2, policy := BitVec.ofNat 4 (fieldAt d 35 1), slice := if sl = 0 then 2000 else sl, frame := w 40, compl := w 48,
    sink := w 56, faultRing := w 64, logRing := w 72, mask := fieldAt d 96 15, hmap := byteSlice d 112 16, buffers := bufs,
    chanList := chans.map (BitVec.ofNat 64), root := 0, started := false, startAt := 0, classed := false, busy0 := 0, failed := none, status := 0 }

/-- The lists of a descriptor, read once their addresses are checked. -/
def State.launchLists (s : State) (cl ten : Nat) (d : List Byte) : Option (List (Nat × Bool × Bool) × List Nat) :=
  let b := fieldAt d 80 8
  let c := fieldAt d 88 8
  match (if b = 0 then some [] else bufferList (s.cpBytes cl ten b 68)), (if c = 0 then some [] else channelList (s.cpBytes cl ten c 520)) with
  | some x, some y => some (x, y)
  | _, _ => none

/-- Step 0 of a LAUNCH: the checks, then the launch waits for the hazard table, or the packet is refused. -/
def State.takeLaunch (s : State) (cl : Nat) (q : CpQueue) (ri : Nat) (bs : List Byte) : State :=
  let qa := q.desc
  let ten := s.queueTen qa
  let va := fieldAt bs 8 8
  if !(zerosFrom bs [(1, 3), (16, 48)]) || (s.tenants.get none ten).isNone then s.refuse cl qa ri 0 0
  else match s.cpCheck cl ten va 128 128 false with
    | (s, .error k) => s.refuse cl qa ri k va
    | (s, .ok pa) =>
      let d := s.homeBytes pa 128
      let fuse := (fieldAt d 34 1).testBit 0
      if !(launchFieldsOk d) || ((fieldAt d 33 1).testBit 1 && !(s.queueSys qa)) || !(s.maskOk ten (fieldAt d 96 15) fuse) then s.refuse cl qa ri 0 0
      else match s.checkAll cl ten (s.listPlaces cl ten (fieldAt d 80 8) 4 4 16 ++ s.listPlaces cl ten (fieldAt d 88 8) 8 8 64
          ++ s.ringPlaces cl ten (fieldAt d 64 8) ++ s.ringPlaces cl ten (fieldAt d 72 8)) with
        | (s, some (k, a)) => s.refuse cl qa ri k a
        | (s, none) => match s.launchLists cl ten d with
          | none => s.refuse cl qa ri 0 0
          | some (bufs, chans) =>
            let s := s.consume cl qa ri
            { s with launches := s.launches.set none s.nextLaunch (some (makeLaunch ten cl qa ri va d bufs chans)), nextLaunch := s.nextLaunch + 1 }

/-- LAUNCH; the same turn of the command processor refuses a packet whose OP is reserved (14 R281). -/
def execLaunch (cl qa : Nat) (s : State) : Out :=
  match s.nextCommand cl qa with
  | none => .next s
  | some (q, ri, bs) =>
    let op := fieldAt bs 0 1
    if op = 1 then .next (s.takeLaunch cl q ri bs)
    else if op = 0 ∨ 5 < op then .next (s.refuse cl qa ri 0 0)
    else .next s

/-! ### The hazard table (14 R287) -/

/-- A launch has completed. -/
def State.launchDone (s : State) (l : Nat) : Bool := (s.launches.get none l).isNone

/-- The entry has a use that orders later launches. -/
def Hazard.used (h : Hazard) : Bool := h.writer.isSome || !h.readers.isEmpty

/-- A buffer's entry lets a use pass. -/
def State.hazardPasses (s : State) (t : List Hazard) (b : Nat × Bool × Bool) : Bool :=
  match t.find? (fun h => h.buf == b.1) with
  | none => true
  | some h =>
    (match h.writer with | some w => s.launchDone w | none => true) && (!b.2.2 || h.readers.all s.launchDone)

/-- Ids of a launch that have no entry. -/
def newIds (t : List Hazard) (bufs : List (Nat × Bool × Bool)) : Nat :=
  ((bufs.map (·.1)).foldl (fun (l : List Nat) b => if l.contains b || t.any (fun h => h.buf == b && h.used) then l else b :: l) []).length

/-- The table after it has been cleared keeps only that a completed launch wrote a buffer. -/
def State.clearHazards (s : State) (t : List Hazard) : List Hazard :=
  (t.filter (fun h => h.written || (match h.writer with | some w => s.launchDone w | none => false))).map
    (fun h => { h with writer := none, readers := [], written := true })

/-- The table that a launch finds: cleared where it has no room, once every earlier launch of the tenant has completed. -/
def State.hazardTable (s : State) (l : Nat) (x : Launch) : Option (List Hazard) :=
  let t := s.hazards.get [] x.ten
  if (t.filter Hazard.used).length + newIds t x.buffers ≤ 256 then some t
  else if s.launches.any (fun e => match e.2 with | some y => y.ten == x.ten && e.1 < l | none => false) then none
  else some (s.clearHazards t)

/-- A launch's use of a buffer enters the table. -/
def State.useBuffer (s : State) (l : Nat) (t : List Hazard) (b : Nat × Bool × Bool) : List Hazard :=
  let old := (t.find? (fun h => h.buf == b.1)).getD { buf := b.1, writer := none, readers := [], written := false }
  let written : Bool := old.written || (match old.writer with | some w => s.launchDone w | none => false)
  let new : Hazard := if b.2.2 then { buf := b.1, writer := some l, readers := if b.2.1 then [l] else [], written := written }
    else { old with readers := old.readers ++ [l], written := written }
  t.filter (fun h => h.buf != b.1) ++ [new]

/-- A launch reads a buffer that a completed launch wrote. -/
def State.readsWritten (s : State) (t : List Hazard) (x : Launch) : Bool :=
  x.buffers.any (fun b => b.2.1 && t.any (fun h => h.buf == b.1 && (h.written || (match h.writer with | some w => s.launchDone w | none => false))))

/-! ### Starting (14 R284, R288; 10 R223) -/

/-- Run f on a core as if it ran a tenant. -/
def State.asTenant (s : State) (c ten : Nat) (f : State → State) : State :=
  let old := (s.core c).tenant
  let s := f (s.setCore c { s.core c with tenant := ten })
  s.setCore c { s.core c with tenant := old }

/-- The cores of a mask. -/
def maskCores (mask : Nat) : List Nat := (List.range 960).filter (fun c => mask.testBit (c / 8))

/-- The seed cores of a launch: the lowest core that the mask covers in each unit of its domain. -/
def seedCores (dom mask : Nat) : List Nat :=
  let unit (c : Nat) : Nat := if dom = 1 then octetOfCore c else if dom = 2 then clusterOfCore c else dieOfCore c
  (maskCores mask).foldl (fun (l : List Nat) c => if l.any (fun k => unit k == unit c) then l else l ++ [c]) []

/-- The shares of [lo, hi) with their seed cores, the empty ones left out (14 R284). -/
def sharesOf (x : Launch) : List (Nat × Nat × Nat) :=
  let seeds := seedCores x.dom x.mask
  let d := seeds.length
  let n := x.hi.toNat - x.lo.toNat
  ((seeds.zipIdx).map (fun e => (e.1, x.lo.toNat + ceilDiv (n * e.2) d, x.lo.toNat + ceilDiv (n * (e.2 + 1)) d))).filter (fun e => e.2.1 < e.2.2)

/-- The record of a share. -/
def shareRecord (l : Nat) (x : Launch) (lo hi : Nat) : Record :=
  { code := x.entry, frame := x.frame, joinc := x.root, lo := BitVec.ofNat 64 lo, hi := BitVec.ofNat 64 hi, grain := x.grain, parent := 0,
    dom := x.dom, low := x.low, range := true, bud := x.policy.toNat / 4, pol := x.policy.toNat % 4, launch := some l, addr := 0 }

/-- The root join block (14 R284, 07 R157). -/
def rootBlock (x : Launch) (count : Nat) : List Byte :=
  bytesOf 4 count ++ bytesOf 4 0 ++ bytesOf 8 (if x.compl = 0 then x.sink else x.compl).toNat ++ bytesOf 8 x.frame.toNat
    ++ bytesOf 8 (x.policy.toNat % 4 * 2 ^ 48 + x.policy.toNat / 4 * 2 ^ 50)

/-- Every L1 of a cluster is emptied, its dirty words written back, and its L1s are fused or not. -/
def State.setFused (s : State) (cl : Nat) (on : Bool) : State :=
  if s.fused.get false cl = on then s
  else
    let ls := (List.range 48).flatMap (fun j => (s.l1Keys (48 * cl + j)).map (fun k => k % 2 ^ 49 / 32))
    let s := (List.range 48).foldl (fun s j => ls.foldl (fun s l => s.evictLine (48 * cl + j) l) s) s
    { s with fused := s.fused.set false cl on }

/-- The clusters of a mask. -/
def maskClusters (mask : Nat) : List Nat := (List.range 20).filter (fun c => (List.range 6).any (fun i => mask.testBit (6 * c + i)))

/-- The channel descriptors of a launch on a core of the grant. -/
def State.writeChannels (s : State) (c : Nat) (x : Launch) : State :=
  x.chanList.foldl (fun s w =>
    let w := w.toNat
    let e := w % 64
    let s : State := s.asTenant c x.ten (fun s => s.setClaims c e [])
    let d : Chan := { v := true, ten := x.ten, lcnt := bitsOf w 23 20, lsz := bitsOf w 15 12, base := bitsOf w 49 32, wp := 0, rp := 0, clm := 0 }
    { s with chans := s.chans.set Chan.zero (tcKey x.ten c * 64 + e) d }) s

/-- A running co-located launch of the other class that holds a whole cluster, with that cluster (14 R288). -/
def State.partner (s : State) (cls : Nat) : Option (Launch × Nat) :=
  s.launches.findSome? (fun e => match e.2 with
    | some y =>
      if y.started && y.failed.isNone && y.coloc && (match s.cpQueue y.cl y.queue with | some q => q.cls != 0 && q.cls != cls | none => false) then
        ((List.range 20).find? (fun c => (List.range 6).all (fun i => y.mask.testBit (6 * c + i)))).map (fun c => (y, c))
      else none
    | none => none)

/-- Half h of a cluster as an octet mask. -/
def halfMask (cl h : Nat) : Nat := 7 * 2 ^ (6 * cl + 3 * h)

/-- Where co-location puts a launch: the mask, and the state with the running launch's next place. A launch that asks for more
than three octets keeps its mask, since placement never narrows (14 R288, log entry 112). -/
def State.coLocate (s : State) (x : Launch) : State × Nat :=
  match s.cpQueue x.cl x.queue with
  | none => (s, x.mask)
  | some q =>
    let fits (m : Nat) : Bool := s.maskOk x.ten m false && !x.fuse && (maskOctets x.mask).length ≤ 3
    if q.place ≠ 0 then
      let m := halfMask ((q.place - 1) / 2) ((q.place - 1) % 2)
      (s.setCpQueue x.cl { q with place := 0 }, if fits m then m else x.mask)
    else if x.coloc ∧ q.cls ≠ 0 then
      (match s.partner q.cls with
      | some (y, c) =>
        if fits (halfMask c 1) then
          (match s.cpQueue y.cl y.queue with
          | some p => (s.setCpQueue y.cl { p with place := 1 + 2 * c }, halfMask c 1)
          | none => (s, halfMask c 1))
        else (s, x.mask)
      | none => (s, x.mask))
    else (s, x.mask)

/-- A core's tenant has no running launch on its octet. -/
def State.coreIdle (s : State) (c : Nat) : Bool := (s.core c).tenant == 16 || (s.launchesOn c).isEmpty

/-- Compute ACLK that the engines of a mask's octets have counted (14 R288, 20 R374). -/
def State.busyOf (s : State) (mask : Nat) : Nat := ((maskOctets mask).map (fun o => ((s.octet o).ctr.get 0 33).toNat)).foldl (· + ·) 0

/-- A launch starts on the clusters of its mask: the flag accumulator of its tenant there is cleared, and its slice is the one
last started (02 R30; 14 R293; 20 R374). -/
def State.openClusters (s : State) (x : Launch) (mask : Nat) : State :=
  (maskClusters mask).foldl (fun s cl =>
    let k := x.ten * 32 + cl
    { s with clflags := s.clflags.set 0 (cl * 32 + x.ten) 0, lastSlice := s.lastSlice.set 0 k (1000 * x.slice) }.countCluster cl 53 1) s

/-- The start step: table, acquire parts, channels, fusion, root block and seeds; then the cores that are free for it run the
launch. -/
def State.startLaunch (s : State) (l root pa : Nat) (x : Launch) (t : List Hazard) : State :=
  let s : State := { s with hazards := s.hazards.set [] x.ten (x.buffers.foldl (s.useBuffer l) t) }
  let (s, mask) := s.coLocate x
  let x : Launch := { x with mask := mask, root := BitVec.ofNat 64 root, started := true, startAt := s.time, busy0 := s.busyOf mask }
  let grant := grantCores (match s.tenants.get none x.ten with | some g => g.grant | none => 0)
  let s := if x.acq || s.readsWritten t x then grant.foldl (fun s c => s.acquirePart (.core c 0) 4) s else s
  let s := grant.foldl (fun s c => s.writeChannels c x) s
  let s := if x.fuse then (maskClusters mask).foldl (fun s c => s.setFused c true) s else s
  let shares := sharesOf x
  let s := s.cpWrite x.cl pa (rootBlock x shares.length)
  let s := shares.foldl (fun s e => s.asTenant e.1 x.ten (fun s => s.pushBottom e.1 (shareRecord l x e.2.1 e.2.2))) s
  let free := (maskCores mask).filter (fun c => s.coreIdle c && !(s.core c).halted)
  let s : State := { s with launches := s.launches.set none l (some x) }
  let s := (s.openClusters x mask).stepOf x.cl x.queue x.seq 2
  let s := free.foldl (fun s c => if (s.core c).tenant = x.ten then s else s.runTenant c x.ten) s
  (maskCores mask).foldl (fun s c => if (s.core c).tenant = x.ten then
      (let s := s.feed c
       { s with slices := s.slices.set 0 c (s.time + 1000 * x.slice) }) else s) s

/-- LAUNCH_START at a root block whose address the command processor chooses (log entry 49). -/
def execLaunchStart (l root : Nat) (s : State) : Out :=
  match s.launches.get none l with
  | none => .next s
  | some x =>
    if x.started || x.failed.isSome then .next s
    else match s.hazardTable l x with
      | none => .next s
      | some t =>
        if x.buffers.all (s.hazardPasses t) && (sharesOf x).all (fun e => !((s.spills.get [] (tcKey x.ten e.1)).length == 4096)) then
          match s.joinCheck (.me (6 * x.cl) 0) x.ten root with
          | (s, .ok pa) => .next (s.startLaunch l root pa x t)
          | _ => .next s
        else .next s

/-! ### Ending (14 R286) -/

/-- The root block has drained: COUNT is 0 at its home. -/
def State.rootDrained (s : State) (x : Launch) : Bool :=
  match s.rawPa (.me (6 * x.cl) 0) x.ten x.root.toNat with
  | some pa => s.homeNat pa 4 == 0
  | none => false

/-- A start from a launch's root block. -/
def fromRoot (x : Launch) : Start → Bool
  | .join pc _ joinc _ _ _ => joinc == 0 && pc == (if x.compl = 0 then x.sink else x.compl)
  | _ => false

/-- A unit of a launch that continued from its root block, an inline child's parent included. -/
def continuesRoot (l : Nat) (x : Launch) (t : Thread) : Bool :=
  t.launch == some l && (fromRoot x t.start || (match t.inl with | some p => fromRoot x p.start | none => false))

/-- Every engine job and copy packet of a launch has completed. -/
def State.jobsDone (s : State) (l : Nat) : Bool :=
  s.octets.all (fun e => e.2.queues.all (fun q => q.2.all (fun j => j.launch != some l || j.done)))
    && s.posted.all (fun p => p.2.2 != l || (s.homeNat (p.1 + 40) 4 + 2 ^ 32 - p.2.1 - 1) % 2 ^ 32 < 2 ^ 31)

/-- A launch may end. -/
def State.mayEnd (s : State) (l : Nat) (x : Launch) : Bool :=
  s.jobsDone l && (x.failed.isSome || (x.started && s.rootDrained x && !(s.threads.any (fun e => continuesRoot l x e.2))))

/-- The end of a launch: write-backs, the record, CI. -/
def State.finishLaunch (s : State) (l : Nat) (x : Launch) : State :=
  let grant := grantCores (match s.tenants.get none x.ten with | some g => g.grant | none => 0)
  let s := grant.foldl (fun s c => s.writeBackSel c (fun _ w => w.ten == x.ten)) s
  let s : State := { s with launches := s.launches.set none l none, posted := s.posted.filter (fun p => p.2.2 != l),
                            wdog := s.wdog.filter (fun e => e.1 / 32 != l), wdogFired := s.wdogFired.filter (fun e => e.1 / 32 != l),
                            chunks := s.chunks.filter (fun e => e.1 / 4 != l) }
  let held (c : Nat) : Bool := s.launches.any (fun e => match e.2 with | some y => y.started && y.fuse && (maskClusters y.mask).contains c | none => false)
  let s := if x.fuse then (maskClusters x.mask).foldl (fun s c => if held c then s else s.setFused c false) s else s
  let (k, c, t, epc, eval) := x.failed.getD (0, 0, 0, 0, 0)
  (s.stepOf x.cl x.queue x.seq 0).complete x.cl x.queue x.seq (commandRecord x.seq x.status k c t epc eval)

def execLaunchEnd (l : Nat) (s : State) : Out :=
  match s.launches.get none l with
  | none => .next s
  | some x => onlyIf (s.mayEnd l x) s (s.finishLaunch l x)

/-! ### RESET (14 R288, 20 R371) -/

/-- Session n is open for a queue. -/
def State.sessionOf (s : State) (n qa : Nat) : Bool := (s.sessWord n 2).testBit 0 && s.sessWord n 0 == qa

/-- A TRUNC or CLOSE record: type, tenant, a sequence and the records lost (20 R369). -/
def endRecord (typ ten seq lost time : Nat) : List Byte :=
  bytesOf 4 0 ++ bytesOf 1 typ ++ bytesOf 1 ten ++ bytesOf 3 0 ++ bytesOf 3 0 ++ bytesOf 4 seq ++ bytesOf 8 time ++ bytesOf 8 lost

/-- The cores that hold buffered records of a session, flushed. -/
def State.flushSession (s : State) (n : Nat) : State :=
  ((SMap.keys s.traceBuf).filter (fun k => k / 1024 == n)).foldl (fun s k => s.flushTrace n (k % 1024)) s

/-- A session ends: flush, its last record, and OPEN reads 0. -/
def State.endSession (s : State) (n typ ten seq : Nat) : State :=
  let s := s.flushSession n
  let s := s.traceWrite n 0 (endRecord typ ten seq (s.sessWord n 3) s.time)
  s.setCtl (0x800110 + 32 * n) (BitVec.ofNat 64 (setBits (s.sessWord n 2) 0 0 0))

/-- The first part of a RESET: the queue's launches end, with status 3. -/
def State.resetLaunches (s : State) (qa : Nat) : State :=
  let ls := s.launches.filterMap (fun e => match e.2 with | some x => if x.queue = qa then some (e.1, x) else none | none => none)
  ls.foldl (fun s e => { s with launches := s.launches.set none e.1 (some { e.2 with status := 3 }) }.endLaunch e.1 0 0 0 0 0 |>.feedEnded s) s

/-- The rest, once they have completed: the sessions of the queue end, then WI, RI and CI take the sequence named. -/
def State.resetQueue (s : State) (cl : Nat) (q : CpQueue) : State :=
  let qa := q.desc
  let wi := fieldAt q.packet 8 4
  let s := (List.range 16).foldl (fun s n => if s.sessionOf n qa then s.endSession n 8 (s.queueTen qa) q.seq else s) s
  let s := s.cpWrite cl qa (bytesOf 8 wi ++ bytesOf 8 wi ++ bytesOf 8 wi)
  s.setCpQueue cl { q with step := 0, packet := [], seq := 0, wi := wi }

/-- A RESET that has been taken goes on once the queue's launches have their records. -/
def State.tryReset (s : State) (cl : Nat) (q : CpQueue) : State :=
  if s.launches.any (fun e => match e.2 with | some x => x.queue == q.desc | none => false) then s else s.resetQueue cl q

def execReset (cl qa : Nat) (s : State) : Out :=
  match s.cpQueue cl qa with
  | none => .next s
  | some q =>
    if q.step = 4 then .next (s.tryReset cl q)
    else match s.nextCommand cl qa with
      | some (q, ri, bs) =>
        if fieldAt bs 0 1 = 5 then
          if zerosFrom bs [(1, 3), (12, 52)] && s.queueSys qa then
            .next (((s.startWait cl q ri 4 bs).resetLaunches qa).tryReset cl { q with step := 4, packet := bs, seq := ri })
          else .next (s.refuse cl qa ri 0 0)
        else .next s
      | none => .next s

/-! ### Co-location's classifier (14 R288) -/

/-- The class of a launch by its busy ACLK and bytes read: 1 compute-bound, 2 memory-bound, 0 neither. -/
def boundClass (busy bytes : Nat) : Nat := if bytes ≤ 2 * busy ∧ 0 < busy then 1 else if 8 * busy < bytes then 2 else 0

/-- The classifier judges a launch after its first 200 µs, by busy ACLK of which its octets' engines have counted as many since
it started, and by the HBM bytes read, which no part of the state counts (log entry 113). -/
def execColocationClassify (l busy bytes : Nat) (s : State) : Out :=
  match s.launches.get none l with
  | none => .next s
  | some x =>
    if x.started && !x.classed && x.startAt + 200000 ≤ s.time && x.busy0 + busy ≤ s.busyOf x.mask then
      let s : State := { s with launches := s.launches.set none l (some { x with classed := true }) }
      match s.cpQueue x.cl x.queue with
      | some q => .next (s.setCpQueue x.cl { q with cls := boundClass busy bytes })
      | none => .next s
    else .next s

/-! ### Slices and pre-emption (14 R293) -/

/-- A tenant waits for a core: it has a running launch whose octets hold the core, or a running launch and packets in the
message spill queue of some core of the octet. -/
def State.waitsFor (s : State) (ten c : Nat) : Bool :=
  let runs (p : Launch → Bool) : Bool := s.launches.any (fun e => match e.2 with | some x => x.ten == ten && x.started && x.failed.isNone && p x | none => false)
  (s.core c).tenant != ten && (runs (fun x => x.mask.testBit (octetOfCore c)) || (runs (fun _ => true) && (List.range 8).any (fun j => !(s.msgs.get [] (tcKey ten (8 * octetOfCore c + j))).isEmpty)))

/-- The cores of a cluster on which a tenant's slice has ended. -/
def State.sliceOver (s : State) (cl ten : Nat) : List Nat :=
  ((List.range 48).map (fun j => 48 * cl + j)).filter (fun c =>
    let e := s.slices.get 0 c
    (s.core c).tenant == ten && !(s.core c).halted && e != 0 && e ≤ s.time)

/-- Fault records of a thread's stall or pop, dropped. -/
def State.dropStalls (s : State) (ten c : Nat) : State :=
  let mine (p : PageFault) : Bool := p.ten == ten && (match p.who with | .hart (.core k _) => k == c | .pop k _ => k == c | _ => false)
  { s with faults := (s.faults.map (fun e => (e.1, e.2.filter (fun p => !mine p)))).filter (fun e => !e.2.isEmpty) }

/-- The access for which a thread of a tenant's context stalls. -/
def State.stallOf (s : State) (ten c t : Nat) : Access :=
  match (s.faults.flatMap (·.2)).find? (fun p => p.ten == ten && p.who == .hart (.core c t)) with
  | some p => p.acc
  | none => .read

/-- A core stops its tenant: stalls are discarded, hardware records move to the spill area, pins are cleared, %preempt
counts. -/
def State.preempt (s : State) (c : Nat) : State :=
  let ten := (s.core c).tenant
  let old := s
  let s := (List.range 16).foldl (fun s t =>
    let x := s.thread c t
    if x.ctx.run = .free ∧ x.stall = false then s
    else s.setThread c t { (if x.stall then x.unstall (old.stallOf ten c t) else x) with saved := false }) (s.dropStalls ten c)
  let s := (s.dequeOf c).reverse.foldl (fun s r => s.spillBottom c r) (s.setDeque c [])
  let k := tcKey ten c
  { s with pins := s.pins.filter (fun e => e.1 / 64 != k), preempts := s.preempts.set 0 k (s.preempts.get 0 k + 1) }

/-- The tenants that wait for some core of a list. -/
def State.waiters (s : State) (cs : List Nat) : List Nat := (List.range 16).filter (fun t => cs.any (fun c => s.waitsFor t c))

/-- The slice of a tenant ends on a cluster: it is renewed, or the cores that another tenant needs are given to it; which of
several waiting tenants comes next is left open (log entry 2). -/
def State.endSlice (s : State) (cl : Nat) (cs : List Nat) : State :=
  match s.waiters cs with
  | [] => { s with slices := cs.foldl (fun m c => m.set 0 c (s.time + s.sliceFor c (s.core c).tenant)) s.slices }
  | t :: ts =>
    let next := (t :: ts).getD (Config.freeNat s.freeCtr % (ts.length + 1)) t
    let s : State := { s with freeCtr := s.freeCtr + 1 }
    let mine := cs.filter (fun c => s.waitsFor next c)
    let s := mine.foldl (fun s c => (s.preempt c).runTenant c next) (s.countCluster cl 52 1)
    { s with slices := (cs.filter (fun c => !mine.contains c)).foldl (fun m c => m.set 0 c (s.time + s.sliceFor c (s.core c).tenant)) s.slices }

def execSliceEnd (cl ten : Nat) (s : State) : Out :=
  match s.sliceOver cl ten with
  | [] => .next s
  | cs => .next (s.endSlice cl cs)

/-! ### Saves (14 R294) -/

/-- Every admitted tenant's image of a hardware thread is written back; a thread that is out resumes from its image. -/
def State.saveThread (s : State) (c t : Nat) : State :=
  (List.range 16).foldl (fun s ten =>
    if (s.tenants.get none ten).isSome then
      let x := s.threadOf ten c t
      let s := s.writeImage ten c t x.ctx
      if (s.core c).tenant = ten then s else s.setThreadOf ten c t { x with saved := x.ctx.run != .free }
    else s) s

def execSaveRequest (core thread : Nat) (s : State) : Out := onlyIf (core < 960 && thread < 16) s (s.saveThread core thread)

end Sys2Proof.Machine
end

