-- ==== Sys2Proof/Machine/HostEvents.lean ====
section
/-! DEFINITION. Steps of control cores, the attestation unit, ports, links and wake latches, and the log of a replay from
reset (18 R336 to R352; 20 R375). -/

namespace Sys2Proof.Machine

/-! ### The log of a replay from reset (20 R375) -/

/-- MODE of RECST: 0 off, 1 record, 2 play. -/
def State.replayMode (s : State) : Nat := (s.ctlWord 0x8000C0).toNat % 4

/-- The size of the log, and where it stands. -/
def logSize : Nat := 2 ^ 32
def logBase : Nat := 0xBF00000000

/-- Recording, or play, goes on. -/
def State.logs (s : State) : Bool := s.replayMode == 1 && s.replayPos < logSize
def State.plays (s : State) : Bool := s.replayMode == 2 && s.replayPos < logSize

/-- The bytes of an entry (20 R375). -/
def logEntry (time kind port : Nat) (payload : List Byte) : List Byte :=
  bytesOf 8 time ++ bytesOf 1 kind ++ bytesOf 1 port ++ bytesOf 2 payload.length ++ bytesOf 4 0
    ++ byteSlice payload 0 (ceilDiv payload.length 16 * 16)

/-- USED counts an entry that is written or consumed. -/
def State.useEntry (s : State) (pos : Nat) : State :=
  let w := (s.ctlWord 0x8000C0).toNat
  { s with replayPos := pos }.setCtl 0x8000C0 (BitVec.ofNat 64 (setBits w 63 32 (bitsOf w 63 32 + 1)))

/-- Recording ends with an entry of kind 7. -/
def State.endLog (s : State) : State :=
  if s.logs then ((s.homeWrite 2047 (logBase + s.replayPos) (logEntry s.time 7 0 [])).useEntry logSize) else s

/-- Write an entry while recording; a full log ends it. -/
def State.record (s : State) (kind port : Nat) (payload : List Byte) : State :=
  if s.logs then
    let bs := logEntry s.time kind port payload
    if logSize < s.replayPos + bs.length + 16 then s.endLog
    else (s.homeWrite 2047 (logBase + s.replayPos) bs).useEntry (s.replayPos + bs.length)
  else s

/-- Play ends by divergence. -/
def State.diverge (s : State) : State :=
  if s.plays then { s with replayPos := logSize }.setCtl 0x8000C0 (s.ctlWord 0x8000C0 ||| 4) else s

/-- The next entry of the log: its time, kind, port and payload. -/
def State.nextEntry (s : State) : Nat × Nat × Nat × List Byte :=
  let a := logBase + s.replayPos
  (s.homeNat a 8, s.homeNat (a + 8) 1, s.homeNat (a + 9) 1, s.homeBytes (a + 16) (s.homeNat (a + 10) 2))

/-- Pass the next entry. -/
def State.passEntry (s : State) : State :=
  let (_, _, _, p) := s.nextEntry
  s.useEntry (s.replayPos + 16 + ceilDiv p.length 16 * 16)

/-- An event of a kind happens: it is recorded, or in play it is to be the next entry, at its time, or play diverges. The
payload that play uses is the logged one. -/
def State.logEvent (s : State) (kind port : Nat) (payload : List Byte) : State × List Byte :=
  if s.plays then
    let (t, k, _, p) := s.nextEntry
    if t = s.time ∧ k = kind then (s.passEntry, p) else (s.diverge, payload)
  else (s.record kind port payload, payload)

/-! ### Replies and resets of service queues (18 R343, R344) -/

/-- A pending request matches a reply (18 R343). -/
def State.replyMatches (s : State) (cl : Nat) (bs : List Byte) (r : Service) : Bool :=
  r.cl == cl && r.seq == fieldAt bs 0 4 && s.cidOf r.core == fieldAt bs 4 2 && r.thread == fieldAt bs 6 1 && r.sym == fieldAt bs 7 1

/-- The symbol that a request allocated still stands; a value for a freed one is discarded (11 R233). -/
def State.awaitsReply (s : State) (r : Service) : Bool :=
  match s.sym r.core r.sym with
  | some y => y.src == .service r.cl r.seq && y.ten == r.ten && y.thread == r.thread
  | none => false

/-- Resolve the symbol of a request, and forget the request. -/
def State.answer (s : State) (r : Service) (value : Option Nat) : State :=
  let s : State := { s with services := s.services.filter (fun x => x != r) }
  if s.awaitsReply r then
    match value with
    | some v => s.arrival r.core r.sym v
    | none => s.poisonSym r.core r.sym cSOFTWARE
  else s

/-- A reply is discarded and counted. -/
def State.loseReply (s : State) (cl : Nat) : State :=
  let a := 0x400028 + cl * 0x10000
  s.setCtl a (BitVec.ofNat 64 (((s.ctlWord a).toNat + 1) % 2 ^ 32))

def execSvcrep (cl : Nat) (r : BitVec 256) (s : State) : Out :=
  let bs := bytesOf 32 r.toNat
  let ok := fieldAt bs 9 7 == 0 && fieldAt bs 24 8 == 0 && fieldAt bs 8 1 ≤ 1
  match s.services.find? (s.replyMatches cl bs) with
  | some q => if ok then .next (s.answer q (if fieldAt bs 8 1 = 0 then some (fieldAt bs 16 8) else none)) else .next (s.loseReply cl)
  | none => .next (s.loseReply cl)

def execSvcrst (cl : Nat) (seq : BitVec 32) (s : State) : Out :=
  let s := (s.services.filter (fun r => r.cl == cl)).foldl (fun s r => s.answer r none) s
  let d := s.svcq cl
  if d = 0 then .next s
  else .next (s.homeWrite 2047 d (bytesOf 8 seq.toNat ++ bytesOf 8 seq.toNat ++ bytesOf 8 seq.toNat))

/-! ### Attestation (18 R351) -/

/-- The device secret: the fuse bank beside the fuse block (17 R322, log entry 7). -/
def State.devSecret (s : State) : BitVec 256 := BitVec.ofNat 256 (ofBytes ((List.range 32).map (fun i => s.fuses.get 0 (256 + i))))

/-- The number of bits set in FLOOR (17 R322). -/
def State.floorCount (s : State) : Nat := popCountBelow (ofBytes ((List.range 8).map (fun i => s.fuses.get 0 (160 + i)))) 64

/-- The bytes of the world table. -/
def State.worldTable (s : State) : List Byte := (List.range 128).flatMap (fun i => bytesOf 8 (s.ctlWord (0x30000 + 8 * i)).toNat)

/-- A report without its signature. -/
def State.reportBody (s : State) (nonce : List Byte) : List Byte :=
  nonce ++ (List.range 8).flatMap (fun i => bytesOf 32 (s.meas.get 0 i).toNat)
    ++ (List.range 4).map (fun i => s.flash.get 0 (4 + i)) ++ bytesOf 4 s.floorCount ++ bytesOf 32 (Config.sm3 s.worldTable).toNat

/-- A report for the request at a physical address. -/
def State.attest (s : State) (req : Nat) : State :=
  let body := s.reportBody (s.homeBytes (req + 32) 32)
  s.homeWrite 2047 (s.homeNat req 8) (body ++ bytesOf 64 (Config.sm2Sign s.devSecret (Config.sm3 body)).toNat)

def execAttestRequest (req : Nat) (s : State) : Out := onlyIf (req % 64 == 0 && s.phase == .running) s (s.attest req)

/-! ### Ports and links (18 R346 to R348) -/

/-- The target of an inbound write: device memory of one world, the requester's (18 R346, R350). -/
def State.inboundOk (s : State) (addr n : Nat) (secure : Bool) : Bool :=
  0 < n && n ≤ 512 && (s.regionOf addr == .hbm || s.regionOf addr == .cxl) && s.regionOf (addr + n - 1) == s.regionOf addr
    && (List.range ((addr + n + 4095) / 4096 - addr / 4096)).all (fun i => s.frameWorld ((addr / 4096 + i) * 4096) == secure)

/-- A port's write enters the ingress of its die, in the order in which the port delivers it (10 R228). -/
def State.enterIngress (s : State) (die agent addr : Nat) (bs : List Byte) : State :=
  { s with ingress := s.ingress.set [] die (s.ingress.get [] die ++ [Inflow.mk agent addr bs]) }

/-- An inbound write enters the ingress, or is refused and raised as wired source 1 (18 R346). -/
def State.inbound (s : State) (die addr : Nat) (bs : List Byte) (secure : Bool) : State :=
  if s.inboundOk addr bs.length secure then s.enterIngress die (1200 + die) addr bs else s.irq (1000 + die) 1

/-- The payload of an arrival's log entries: the address, with the world in bit 63, then the data, in parts that fit
(log entry 50). -/
def arrivalParts (addr : Nat) (secure : Bool) : Nat → List Byte → List (List Byte)
  | 0, _ => []
  | fuel + 1, bs =>
    if bs.isEmpty then []
    else (bytesOf 8 (addr + (if secure then 2 ^ 63 else 0)) ++ bs.take 504) :: arrivalParts (addr + 504) secure fuel (bs.drop 504)

def State.recordArrival (s : State) (kind port addr : Nat) (bs : List Byte) (secure : Bool) : State :=
  (arrivalParts addr secure (bs.length + 1) bs).foldl (fun s p => s.record kind port p) s

def execInboundWrite (die addr : Nat) (bytes : List Byte) (secure : Bool) (s : State) : Out :=
  onlyIf (die < 4 && bytes.length ≤ 512 && !s.plays) s
    ((s.recordArrival (if s.regionOf addr == .cxl then 2 else 1) die addr bytes secure).inbound die addr bytes secure)

/-- A peer's store enters the ingress of the port's die; one of the other world is refused (10 R228; 18 R348, R350). -/
def State.peerArrives (s : State) (port addr : Nat) (bs : List Byte) (secure : Bool) : State :=
  if s.regionOf addr == .hbm && s.inboundOk addr bs.length secure then s.enterIngress (port / 6) (1228 + port) addr bs else s

/-- The row names no world: the store is one of its frame's world (log entry 50). -/
def execPeerStoreArrival (port addr : Nat) (bytes : List Byte) (s : State) : Out :=
  onlyIf (port < 24 && !s.plays) s
    ((s.recordArrival 3 port addr bytes (s.frameWorld addr)).peerArrives port addr bytes (s.frameWorld addr))

/-- A flit that fails its CRC is replayed: the error is recorded, and nothing else is seen (18 R348, 19 R353). -/
def execFlitReplay (port : Nat) (s : State) : Out := onlyIf (port < 24) s (s.errorRecord 0 4 port 0 0xFFFF 0 0)

def execPortDown (port : Nat) (s : State) : Out := onlyIf (port < 24) s { s with portDown := s.portDown.set false port true }

/-- A read that a device does not answer ends with poisoned data (18 R347, log entry 51). -/
def execCxlTimeout (core sym : Nat) (s : State) : Out :=
  match s.sym core sym with
  | some y => match y.src with
    | .load _ _ _ => .next (s.poisonSym core sym cPOISON)
    | .device _ => .next (s.poisonSym core sym cPOISON)
    | _ => .next s
  | none => .next s

/-- A thread waits for the acknowledgement of its store to an address, in a release at DOMAIN scope (18 R348). -/
def State.awaitsAck (s : State) (c t addr : Nat) : Bool :=
  let x := s.thread c t
  x.ctx.run == .waitAcq && x.ctx.waitObj.toNat == addr && x.ctx.waitCnt == 1 && s.peerStores.contains (c * 16 + t, addr)

def execDomainAckTimeout (core thread addr : Nat) (s : State) : Out :=
  onlyIf (s.awaitsAck core thread addr) s
    ({ s with peerStores := s.peerStores.erase (core * 16 + thread, addr) }.takeTrap (.core core thread) cHW_ERROR addr .plain false [])

/-! ### Control cores (18 R338) -/

/-- A control core has been released (17 R334). -/
def State.ccRunning (s : State) (cc : Nat) : Bool := cc < 24 && (s.sysReg 0x315).getLsbD cc

/-- A control core's store is performed at its home. Its world and permissions are the control core's own affair
(log entry 52). -/
def execControlCoreStore (cc addr : Nat) (bytes : List Byte) (s : State) : Out :=
  let reg := s.regionOf addr
  onlyIf (s.ccRunning cc && (reg == .hbm || reg == .cxl) && s.regionOf (addr + bytes.length) == reg) s (s.homeWrite (1204 + cc) addr bytes)

/-- A read of ENTROPY: its value is recorded, or in play taken from the log (20 R375). -/
def execEntropyRead (cc : Nat) (s : State) : Out :=
  onlyIf (s.ccRunning cc) s ({ s with freeCtr := s.freeCtr + 1 }.logEvent 5 0 (bytesOf 8 (Config.freeNat s.freeCtr))).1

/-- Play injects the next logged arrival at its time (20 R375). -/
def State.inject (s : State) : State :=
  let (t, k, port, p) := s.nextEntry
  if t ≤ s.time ∧ 1 ≤ k ∧ k ≤ 4 then
    let a := fieldAt p 0 8
    let bs := p.drop 8
    let s := s.passEntry
    if k = 3 then s.peerArrives port (a % 2 ^ 63) bs (a.testBit 63)
    else if k = 4 then s
    else s.inbound port (a % 2 ^ 63) bs (a.testBit 63)
  else if k = 7 then { s with replayPos := logSize } else s

def execLogInject (s : State) : Out := onlyIf s.plays s s.inject

/-! ### The wake latch (18 R352) -/

/-- A write to a gated domain: 0 to 23 a control core, 24 to 43 a cluster. A full latch leaves it at its source. -/
def execLatchWrite (dom addr : Nat) (v : Word) (s : State) : Out :=
  onlyIf (dom < 44 && (s.latches.get [] dom).length < 16) s { s with latches := s.latches.set [] dom (s.latches.get [] dom ++ [(addr, v)]) }

/-- The interrupt that a write of a wake latch delivers: a control core's own, or that of the cluster's control core. -/
def latchTarget (dom : Nat) : Nat := if dom < 24 then dom else controlCoreOf (dom - 24)

def execLatchReplay (dom : Nat) (s : State) : Out :=
  .next { (s.latches.get [] dom).foldl (fun s w => s.irq (latchTarget dom) (w.2.toNat % 2048)) s with latches := s.latches.set [] dom [] }

end Sys2Proof.Machine
end

