-- ==== Sys2Proof/Machine/BootEvents.lean ====
section
/-! DEFINITION. Steps of reset and boot, of the mesh registers, and writes of registers in control space (00 R8; 12 R245;
17 R321 to R335; 18 R340; 19 R361; 20 R362). -/

namespace Sys2Proof.Machine

/-! ### Reset and self-test (17 R321, R322, R326) -/

/-- The boot stops with a code and its argument. -/
def State.bootStop (s : State) (code arg : Nat) : State :=
  { s with phase := .stopped }.setSysReg 0x317 (BitVec.ofNat 64 (setBits (setBits (s.sysReg 0x317).toNat 15 8 code) 23 16 arg))

/-- A position is fused off (17 R322). -/
def State.fusedOff (s : State) (p : Nat) : Bool := (s.fuses.get 0 (p / 8)).getLsbD (p % 8)

/-- Self-test has run: `failed` names failed positions below 1,024, and 1,024 + p for the router of position p. -/
def State.selfTest (s : State) (failed : List Nat) : State :=
  { s with good := (List.range 1024).foldl (fun m p => m.set false p (!s.fusedOff p && !failed.contains p)) [],
           routers := (List.range 1024).foldl (fun m p => m.set false p (!failed.contains (1024 + p))) [] }

/-- RESET_N is released: the fuses are sensed, self-test runs, training starts. A die with no good position stops the boot
with code 1 (log entry 53). -/
def State.release (s : State) (agree : Bool) (failed : List Nat) : State :=
  let s := { s with phase := .training, time := 0 }.bootStage 1
  if !agree then s.bootStop 8 0
  else
    let s := (s.selfTest failed).bootStage 2
    if (List.range 4).any (fun d => (s.goodOf d).isEmpty) then s.bootStop 1 0 else s.bootStage 3

def execResetNRelease (fusesAgree : Bool) (failed : List Nat) (s : State) : Out :=
  onlyIf (s.phase == .inReset) s (s.release fusesAgree failed)

/-- RESET_N is asserted: the package is in reset, and keeps its fuses, its flash and its straps (17 R321). What moves next is
no state of the package. -/
def State.assertReset (s : State) : State :=
  let t : State := { State.reset with schedule := s.schedule, freeCtr := s.freeCtr, fuses := s.fuses, flash := s.flash }
  (t.setMeshst 21 16 s.pkg).setCtl 0x8000C0 (BitVec.ofNat 64 s.replayMode)

def execResetNAssert (s : State) : Out := .next s.assertReset

/-! ### The ROM (17 R324, R325) -/

def State.flashBytes (s : State) (off n : Nat) : List Byte := (List.range n).map (fun i => s.flash.get 0 (off + i))

/-- The image header keeps its rules (17 R324). -/
def headerValid (h : List Byte) : Bool :=
  let load := fieldAt h 8 8
  let size := fieldAt h 16 8
  let entry := fieldAt h 24 8
  fieldAt h 0 4 == 0x50454C31 && load % 4096 == 0 && size % 64 == 0 && 4096 ≤ size && size ≤ 0x4000000
    && load + size ≤ 0x3000000000 && pcOk entry && entry / 64 * 64 < size && fieldAt h 160 352 == 0

/-- The 1,346 fuse bits as bytes (17 R325). -/
def State.fuseBytes (s : State) : List Byte :=
  (List.range 168).map (fun i => s.fuses.get 0 i) ++ [BitVec.ofNat 8 ((s.fuses.get 0 168).toNat % 4)]

/-- The code with which the ROM refuses an image, or 0. -/
def State.imageCode (s : State) (h : List Byte) (d : BitVec 256) : Nat :=
  let key := (h.drop 32).take 64
  if (s.fuses.get 0 168).getLsbD 0 then
    if (Config.sm3 key).toNat ≠ ofBytes ((List.range 32).map (fun i => s.fuses.get 0 (128 + i))) then 4
    else if !(Config.sm2Verify key d ((h.drop 96).take 64)) then 5
    else if fieldAt h 4 4 < s.floorCount then 6
    else 0
  else 0

/-- Extend a measurement register by a digest. -/
def State.extend (s : State) (n : Nat) (d : BitVec 256) : State :=
  { s with meas := s.meas.set 0 n (Config.sm3 (bytesOf 32 (s.meas.get 0 n).toNat ++ bytesOf 32 d.toNat)) }

/-- The tables of a core in the boot context (17 R327). -/
def State.bootTables (s : State) (c : Nat) : State :=
  let k := tcKey 16 c
  let chan : Chan := { v := true, ten := 0, lcnt := 6, lsz := 8, base := 0, wp := 0, rp := 0, clm := 0 }
  let win := s.windowBase 16 + c % 48 * 0x40000
  let t63 : Tag := { v := true, deposit := true, pol := 0, bud := 0, low := false, target := 0 }
  let t62 : Tag := { v := true, deposit := false, pol := 2, bud := 0, low := false, target := BitVec.ofNat 64 win }
  { s with chans := s.chans.set Chan.zero (64 * k) chan, tags := (s.tags.set Tag.zero (64 * k + 63) t63).set Tag.zero (64 * k + 62) t62 }

/-- The cores of the boot: every good position, by the entry that the canonical map gives it (17 R327, log entry 8). -/
def State.bootCores (s : State) : State :=
  let s : State := { s with logical := s.canonMap }
  (SMap.keys s.logical).foldl State.bootTables s

/-- The public key stands in control space (18 R351). -/
def State.publishKey (s : State) : State :=
  let x := (Config.sm2PublicKey s.devSecret).toNat
  (List.range 8).foldl (fun s i => s.setCtl (0x40040 + 8 * i) (BitVec.ofNat 64 (elemOf x 64 i))) s

/-- The core of a good position, before a map is committed. -/
def State.bootCore (s : State) : Nat := (s.bootPos.bind s.coreAt).getD 0

/-- The ROM starts the first stage. -/
def State.handOff (s : State) (h : List Byte) (d : BitVec 256) : State :=
  let s := ((s.extend 0 d).extend 1 (Config.sm3 s.fuseBytes)).publishKey
  let m := bytesOf 32 (s.meas.get 0 0).toNat
  let s := if s.plays then (if s.nextEntry.2.1 = 8 ∧ s.nextEntry.2.2.2 = m then s.passEntry else s.diverge) else s.record 8 0 m
  ({ s with phase := .running }.bootStage 6).startUnit s.bootCore 0 (.boot (BitVec.ofNat 64 (fieldAt h 8 8 + fieldAt h 24 8))) none

/-- The header's load address and body size name a body that the ROM can load (17 R324). -/
def bodyNamed (h : List Byte) : Bool :=
  let load := fieldAt h 8 8
  let size := fieldAt h 16 8
  load % 4096 == 0 && size % 64 == 0 && 4096 ≤ size && size ≤ 0x4000000 && load + size ≤ 0x3000000000

/-- The boot core runs the ROM: it loads the body at the load address before it judges the header; of a header whose load
address or size is malformed there is no body to load (17 R325). The class of a flash error is open (log entry 53). -/
def State.rom (s : State) : State :=
  let s := { s with phase := .rom }.bootCores.bootStage 4
  let e := Config.flashError s.freeCtr
  if e ≠ 0 then s.bootStop 7 (e % 256)
  else
    let h := s.flashBytes 0 512
    let body := if bodyNamed h then s.flashBytes 512 (fieldAt h 16 8) else []
    let s := s.homeWrite (coreAgent s.bootCore) (fieldAt h 8 8) body
    if !(headerValid h) then s.bootStop 3 0
    else
      let d := Config.sm3 (h.take 96 ++ body)
      let k := s.imageCode h d
      if k ≠ 0 then s.bootStop k 0 else (s.bootStage 5).handOff h d

/-- The end of training: `failed` names a stack that fails (17 R321, R326). -/
def execHbmTrainingEnd (failed : Option Nat) (s : State) : Out :=
  onlyIf (s.phase == .training) s (match failed with | some k => s.bootStop 2 (k % 16) | none => s.rom)

/-! ### Mesh registers (17 R329 to R335) -/

/-- A write that a register may refuse. -/
def State.orSame (s : State) (t : Option State) : Out := .next (t.getD s)

def execGo (core : Nat) (s : State) : Out := s.orSame (s.writeMeshctl (some core) 1)
def execCommit (core : Nat) (s : State) : Out := s.orSame (s.writeMeshctl (some core) 2)
def execDiscoveryDone (s : State) : Out := onlyIf s.meshBusy s s.meshDone
def execCcrel (v : Word) (s : State) : Out := s.orSame (s.writeCcrel v)
def execMeasx (v : Word) (s : State) : Out := s.orSame (s.writeMeasx v)

/-! ### Control space (18 R340) -/

/-- The bits of a control-space word that a write changes; 0 where the word has no row, is read only or has a row of its own
(00 R8: the other bits read as zero). -/
def regMask (off : Nat) : Nat :=
  let addr (lo : Nat) : Nat := 2 ^ 52 - 2 ^ lo
  if off % 8 ≠ 0 then 0
  else if 0x10000 ≤ off ∧ off < 0x10200 then 0xFFFFFF
  else if 0x30000 ≤ off ∧ off < 0x30400 then addr 12 + (if off % 16 = 0 then 7 * 2 ^ 61 else 0)
  else if 0x50000 ≤ off ∧ off < 0x50040 then 2 ^ 64 - 1
  else if 0x100000 ≤ off ∧ off < 0x180000 then 2 ^ 64 - 1
  else if 0x400000 ≤ off ∧ off < 0x540000 then
    (if off % 0x10000 = 0 then addr 6 else if off % 0x10000 = 8 then 0x7FF else if off % 0x10000 = 0x40 then 2 ^ 32 - 1 else 0)
  else if 0x600000 ≤ off ∧ off < 0x678000 then
    (let k := off % 0x1000
     if k < 0x10 then 2 ^ 63 + addr 6 else if k = 0x10 then 2 ^ 32 - 1 else if 0x40 ≤ k ∧ k < 0x140 then 2 ^ 63 + 15 * 2 ^ 52 + addr 6 else 0)
  else if off = 0x800000 then 2 ^ 64 - 1
  else if off = 0x800008 then 2 ^ 56 - 1
  else if off = 0x800020 then addr 5
  else if off = 0x800028 then addr 6
  else if 0x800040 ≤ off ∧ off < 0x8000C0 then (if off % 16 = 0 then 2 ^ 64 - 1 else 2 ^ 63 + (2 ^ 56 - 1))
  else if 0x800100 ≤ off ∧ off < 0x800300 then (if off % 32 = 0 ∨ off % 32 = 8 then 2 ^ 64 - 1 else if off % 32 = 16 then 0xFF00 else 0)
  else if 0x810000 ≤ off ∧ off < 0x81F000 then (if off % 64 < 32 then 2 ^ 63 + (2 ^ 48 - 1) else 2 ^ 63 + 2 ^ 62 + 63 * 2 ^ 56 + (2 ^ 48 - 1))
  else if 0x820000 ≤ off ∧ off < 0x821E00 then 1
  else 0

/-- A write is ignored: a locked world entry, a zero weight, or a comparator with a malformed PC (18 R350; 12 R245; 20 R362). -/
def State.regIgnored (s : State) (off v : Nat) : Bool :=
  if 0x30000 ≤ off ∧ off < 0x30400 then (s.ctlWord (off / 16 * 16)).getLsbD 61
  else if 0x600000 ≤ off ∧ off < 0x678000 ∧ off % 0x1000 = 0x10 then (List.range 8).any (fun j => elemOf v 4 j == 0)
  else if 0x810000 ≤ off ∧ off < 0x81F000 then !pcOk (v % 2 ^ 48)
  else false

/-- A write of a control-space word. MEWT is %mewt of its octet, and writes of words 1 and 2 keep what the hardware holds in
their other bits. -/
def State.writeReg (s : State) (off v : Nat) : State :=
  let m := regMask off
  if m = 0 || s.regIgnored off v then s
  else if 0x600000 ≤ off ∧ off < 0x678000 ∧ off % 0x1000 = 0x10 then
    let o := (off - 0x600000) / 0x1000
    s.setOctet o { s.octet o with mewt := BitVec.ofNat 32 v }
  else if 0x800100 ≤ off ∧ off < 0x800300 ∧ off % 32 = 16 then
    s.setCtl off (BitVec.ofNat 64 (setBits (s.ctlWord off).toNat 15 8 (bitsOf v 15 8)))
  else s.setCtl off (BitVec.ofNat 64 v &&& BitVec.ofNat 64 m)

/-- IDLE of an engine and of a copy unit (12 R245). -/
def State.meIdle (s : State) (o : Nat) : Bool := (s.octet o).queues.all (fun e => e.2.all (fun j => !j.running))
def State.cuIdle (s : State) (o : Nat) : Bool :=
  (s.octet o).chans.all (fun e => e.2.isNone) && s.lnJobs.all (fun j => j.octet != o || j.ended.isSome)

/-- What a control core reads at a word of control space: IDLE is computed, MEWT is %mewt of its octet, and the other words
hold what was written (12 R245). -/
def State.readReg (s : State) (off : Nat) : Word :=
  let o := (off - 0x600000) / 0x1000
  let k := off % 0x1000
  if 0x600000 ≤ off ∧ off < 0x678000 ∧ k / 8 < 3 then
    (if k / 8 = 0 then s.ctlWord off ||| BitVec.ofNat 64 (if s.meIdle o then 2 ^ 62 else 0)
     else if k / 8 = 1 then s.ctlWord off ||| BitVec.ofNat 64 (if s.cuIdle o then 2 ^ 62 else 0)
     else (s.octet o).mewt.setWidth 64)
  else s.ctlWord off

def execRegisterWrite (off : Nat) (v : Word) (s : State) : Out := .next (s.writeReg off v.toNat)

end Sys2Proof.Machine
end

