-- ==== Sys2Proof/Machine/ErrorEvents.lean ====
section
/-! DEFINITION. Steps of the watchdog, of throttling, of errors, and of failed cores, engines and copy units (19 R353 to
R361). -/

namespace Sys2Proof.Machine

/-! ### The watchdog (19 R360) -/

/-- LIMIT of a cluster, in µs. -/
def State.wdogLimit (s : State) (cl : Nat) : Nat := (s.ctlWord (0x400040 + cl * 0x10000)).toNat % 2 ^ 32

/-- The threads of a launch on a cluster: tenant, core and thread. -/
def State.launchThreads (s : State) (cl l : Nat) : List (Nat × Nat × Nat) :=
  (s.threads.filter (fun e => e.2.launch == some l && e.2.ctx.run != .free && clusterOfCore (e.1 / 16 % 1024) == cl && e.1 / 16 % 1024 < 960)).map
    (fun e => (e.1 / 16 / 1024, e.1 / 16 % 1024, e.1 % 16))

/-- A thread's stall is over: its page-fault record is dropped. -/
def State.dropStall (s : State) (ten c t : Nat) : State :=
  let mine (p : PageFault) : Bool := p.ten == ten && p.who == .hart (.core c t)
  { s with faults := (s.faults.map (fun e => (e.1, e.2.filter (fun p => !mine p)))).filter (fun e => !e.2.isEmpty) }

/-- A WATCHDOG trap reaches a thread: at once where its core runs it, else when it next runs (log entry 54). -/
def State.watchdogTrap (s : State) (ten c t : Nat) : State :=
  let x := s.threadOf ten c t
  if (s.core c).tenant ≠ ten ∨ (s.core c).halted = true ∨ (s.core c).failed = true then s.setThreadOf ten c t { x with due := true }
  else (s.dropStall ten c t).takeTrap (.core c t) cWATCHDOG 0 .plain false []

/-- The count of a launch on a cluster has reached LIMIT. -/
def State.watchdogDue (s : State) (cl l : Nat) : Bool :=
  cl < 20 && s.wdogLimit cl != 0 && s.wdogLimit cl * 1000 ≤ s.wdog.get 0 (32 * l + cl)
    && (match s.launches.get none l with | some x => x.started && x.failed.isNone | none => false)

/-- The severity of a watchdog's record is open (log entry 2). -/
def State.watchdogFires (s : State) (cl l : Nat) : State :=
  let k := 32 * l + cl
  let again := s.wdogFired.get false k
  let ts := s.launchThreads cl l
  let s := s.errorRecord (Config.freeNat s.freeCtr % 256) 5 0 0 0xFFFF 0 0
  let s := { s with freeCtr := s.freeCtr + 1, wdog := s.wdog.set 0 k 0, wdogFired := s.wdogFired.set false k true }.countCluster cl 55 1
  if again then (s.endLaunch l cWATCHDOG 0 0 0 0).feedEnded s
  else ts.foldl (fun s e =>
    if (s.threadOf e.1 e.2.1 e.2.2).launch = some l then s.watchdogTrap e.1 e.2.1 e.2.2 else s) s

def execWatchdogExpiry (cl l : Nat) (s : State) : Out := onlyIf (s.watchdogDue cl l) s (s.watchdogFires cl l)

/-! ### Throttling (19 R361; 20 R375) -/

/-- The steps that a die has taken, of the twelve between 4.0 and 1.0 GHz. -/
def State.steps (s : State) (die : Nat) : Nat := (s.ctlWord (0x60000 + 8 * die)).toNat
def State.setSteps (s : State) (die n : Nat) : State :=
  { s.setCtl (0x60000 + 8 * die) (BitVec.ofNat 64 n) with thrLast := s.thrLast.set 0 die s.time }

/-- A cause lowers ACLK by a step. In a replay from reset there is no step: recording ends, and play diverges. -/
def execThrottleStep (die : Nat) (s : State) : Out :=
  if die < 4 && s.thrCause.get false die then
    if s.replayMode = 0 then onlyIf (s.steps die < 12) s (s.setSteps die (s.steps die + 1)) else .next s.endLog.diverge
  else .next s

def execThrottleRaise (die : Nat) (s : State) : Out :=
  onlyIf (die < 4 && !s.thrCause.get false die && 0 < s.steps die && s.thrLast.get 0 die + 100000 ≤ s.time) s
    (s.setSteps die (s.steps die - 1))

/-! ### Errors (19 R353 to R356) -/

/-- The HBM stack that holds a word (00 R1, 10 R217). -/
def hbmStack (pa : Nat) : Nat := pa / 0xC00000000

/-- A scrubber leaves what it cannot correct poisoned; its pass is no write (19 R354). -/
def execScrubPass (word : Nat) (uncorrectable : Bool) (s : State) : Out :=
  onlyIf (s.regionOf (8 * word) == .hbm) s
    (if uncorrectable then { s with poison := s.poison.set false word true }.errorRecord 1 2 (hbmStack (8 * word)) (8 * word) 0xFFFF 0 0
     else s)

/-- A corrected error changes no value (19 R353). It is counted and recorded; a replay logs it, or is to find it logged. -/
def execCorrectableError (cls pos : Nat) (s : State) : Out :=
  if cls < 5 then
    let core := if cls = 0 then s.coreAt pos else none
    let s := (s.logEvent 6 0 (bytesOf 8 (cls * 2 ^ 16 + pos % 2 ^ 16))).1
    let s := s.errorRecord 0 cls pos 0 (match core with | some c => if c < 960 then c else 0xFFFF | none => 0xFFFF) 0 0
    match core with
    | some c => .next (s.countCore c 30 1)
    | none => .next s
  else .next s

/-- The physical position of a core, and its number as a record names it. -/
def State.posOf (s : State) (c : Nat) : Nat := (s.logical.get none c).getD 0
def recordCore (c : Nat) : Nat := if c < 960 then c else 0xFFFF

/-- The line of a register that a register line cache holds is lost: a clean one is refilled from the image, a dirty one
raises HW_ERROR on its thread. Which it is is open (19 R355, log entry 56). -/
def State.lostLine (s : State) (c t line : Nat) : State :=
  let dirty := Config.freeNat s.freeCtr % 2 == 1
  let s := { s with freeCtr := s.freeCtr + 1 }.errorRecord 1 0 (s.posOf c) 0 (recordCore c) 0 t
  if (s.thread c t).ctx.run = .free ∨ dirty = false ∨ 64 ≤ line then s
  else (s.dropStall (s.core c).tenant c t).takeTrap (.core c t) cHW_ERROR 0 .plain false []

/-- Slice n homes a word under some policy of a page that maps it: by either interleave, or near the core whose window
holds the page (10 R217). CXL memory lies on no die and is package-interleaved. -/
def State.homedAt (s : State) (pa n : Nat) : Bool :=
  n == homeOf 0 pa none || (s.regionOf pa == .hbm && (n == homeOf 1 pa none
    || (List.range 960).any (fun c => match s.logical.get none c with | some p => homeOf 2 pa (some p) == n | none => false)))

/-- An uncorrectable error: the word is poisoned, or the tile or block is dropped (19 R353, R355). A word in a slice is
lost in the slice that homes it. -/
def execUncorrectableError (u : ErrUnit) (s : State) : Out :=
  match u with
  | .word pa slice =>
    onlyIf (match slice with
        | some n => (s.regionOf pa == .hbm || s.regionOf pa == .cxl) && s.homedAt pa n
        | none => s.regionOf pa == .hbm) s
      ({ s with poison := s.poison.set false (pa / 8) true }.errorRecord 1 (if slice.isSome then 1 else 2)
        (match slice with | some n => n | none => hbmStack pa) (pa / 8 * 8) 0xFFFF 0 0)
  | .l1Word l1 w =>
    (match s.l1.get none (l1Key l1 w) with
    | some x => .next ({ s with l1 := s.l1.set none (l1Key l1 w) (some { x with poison := true }) }.errorRecord 1 0 (s.posOf l1) (8 * w) (recordCore l1) 0 0)
    | none => .next s)
  | .scratch ten core off =>
    onlyIf (core < 1024 && off < 2 ^ 18) s
      ({ s with spoison := s.spoison.set false (tcKey ten core * 2 ^ 15 + off / 8) true }.errorRecord 1 0 (s.posOf core) 0 (recordCore core) 0 0)
  | .tile o k =>
    let x := s.octet o
    onlyIf (o < 120) s ((s.setOctet o { x with tiles := x.tiles.set none k none }).errorRecord 1 3 (s.posOf (8 * o)) 0 0xFFFF 0 0)
  | .icache core block =>
    onlyIf (core < 1024) s { s with icache := (List.range 8).foldl (fun m i => m.set none (icKey core (block * 8 + i)) none) s.icache }
  | .regLine core thread line => onlyIf (core < 1024 && thread < 16) s (s.lostLine core thread line)

/-- A fatal event stops every agent (19 R356). -/
def execFatalError (cls pos : Nat) (s : State) : Out := .next { s.errorRecord 4 cls pos 0 0xFFFF 0 0 with fatal := true }

/-! ### Failed cores (19 R357 to R359) -/

/-- The lowest spare entry of a die that the map names. -/
def State.spareOf (s : State) (die : Nat) : Option Nat :=
  ((List.range 16).map (fun k => 960 + 16 * die + k)).find? (fun e => (s.logical.get none e).isSome && !s.omitted.get false e)

/-- The register lines of a core go to their images: those of its running tenant and of every tenant pre-empted on it whose
threads no save request has sent home already (02 R38; 14 R293, R294). -/
def State.drainImages (s : State) (c : Nat) : State :=
  (List.range 16).foldl (fun s ten =>
    if (s.tenants.get none ten).isNone then s
    else (List.range 16).foldl (fun s t =>
      let x := s.threadOf ten c t
      if x.ctx.run = .free ∨ x.saved = true then s else s.writeImage ten c t x.ctx) s) s

/-- What a failed core held goes home: dirty L1 words, images, and scratchpad pages. Numbers from 16 up in `lost` name L1
words, and from 16 + 2^49 up scratchpad words, that cannot be read and are poisoned there (log entry 57). -/
def State.drainCore (s : State) (c : Nat) (lost : List Nat) : State :=
  let mine := (SMap.keys s.l1).filter (fun k => k / 2 ^ 49 == c)
  let bad := lost.filter (fun n => 16 ≤ n && n < 16 + 2 ^ 49)
  let s := mine.foldl State.writeBackKey s
  let gone := bad.filter (fun n => (s.l1.get none (l1Key c (n - 16))).isSome)
  let s : State := { s with poison := gone.foldl (fun m n => m.set false (n - 16) true) s.poison, l1 := s.l1.filter (fun e => e.1 / 2 ^ 49 != c) }
  let lostScr := (lost.filter (fun n => 16 + 2 ^ 49 ≤ n)).map (fun n => n - 16 - 2 ^ 49)
  let s : State := { s with spoison := (lostScr.filter (fun k => k / 2 ^ 15 % 1024 == c)).foldl (fun m k => m.set false k true) s.spoison,
                            resident := s.resident.filter (fun e => e.1 / 64 % 1024 != c), pins := s.pins.filter (fun e => e.1 / 64 % 1024 != c),
                            icache := s.icache.filter (fun e => e.1 / 2 ^ 49 != c), tlb := s.tlb.filter (fun e => e.1 / 2 ^ 38 / 32 != c) }
  s.drainImages c

/-- Every symbol of a core that moves, pending or holding a value, resolves to poison (19 R358). -/
def State.poisonSyms (s : State) (c : Nat) : State :=
  (List.range 256).foldl (fun s i => match s.sym c i with
    | some y => (match y.state with
      | .poison _ => s
      | _ => (s.setSym c i (some { y with state := .pending })).poisonSym c i cHW_ERROR)
    | none => s) s

/-- The record of the spare's own boot context is no more: it is the failed core from now on. -/
def State.useSpare (s : State) (c e : Nat) : State :=
  let p := s.logical.get none e
  let k := tcKey 16 e
  { s with logical := (s.logical.set none c p).set none e none, cores := s.cores.set Core.zero e Core.zero,
           threads := s.threads.filter (fun x => x.1 / 16 != k), msgs := s.msgs.set [] k [], deques := s.deques.set [] k [], spills := s.spills.set [] k [] }

/-- Remap: the spare takes the core's logical number, and its threads resume or meet HW_ERROR. -/
def State.remapCore (s : State) (c e : Nat) (lost : List Nat) : State :=
  let s := s.errorRecord 2 0 (s.posOf c) 0 (recordCore c) 0 0
  let s := (s.drainCore c lost).useSpare c e
  let s := s.errorRecord 3 0 (s.posOf c) 0 (recordCore c) 0 0
  let s := s.poisonSyms c
  ((List.range 16).filter (fun t => lost.contains t)).foldl (fun s t =>
    if (s.thread c t).ctx.run = .free then s
    else (s.dropStall (s.core c).tenant c t).takeTrap (.core c t) cHW_ERROR 0 .plain false []) s

/-- The launches that hold a thread or a job on a core. -/
def State.launchesHeld (s : State) (c : Nat) : List Nat :=
  let ts := s.threads.filterMap (fun e => if e.1 / 16 % 1024 = c then e.2.launch else none)
  let js := s.octets.flatMap (fun e => e.2.queues.flatMap (fun q => q.2.filterMap (fun j => if j.core = c then j.launch else none)))
  (ts ++ js).foldl (fun l x => if l.contains x then l else l ++ [x]) []

/-- The die has no spare: the logical number is dead. -/
def State.killCore (s : State) (c : Nat) : State :=
  let ls := s.launchesHeld c
  let s := s.errorRecord 2 0 (s.posOf c) 0 (recordCore c) 0 0
  let s := s.setCore c { s.core c with failed := true }
  ls.foldl (fun s l => (s.endLaunch l cHW_ERROR c 0 0 0).feedEnded s) s

/-- A core fails: `lost` names the threads, below 16, whose images have a line that cannot be read. A spare that fails is
no spare any more. -/
def execCoreFailed (core : Nat) (lost : List Nat) (s : State) : Out :=
  if s.phase != .running || (s.logical.get none core).isNone || (s.core core).failed then .next s
  else if 960 ≤ core then
    .next { (s.errorRecord 2 0 (s.posOf core) 0 0xFFFF 0 0).setCore core { s.core core with failed := true } with
      logical := s.logical.set none core none }
  else match s.spareOf (dieOfCore core) with
    | some e => .next (s.remapCore core e lost)
    | none => .next (s.killCore core)

/-! ### Failed engines and copy units (19 R359) -/

/-- Every job of an engine ends, its mailbox written where it can be. -/
def State.failJobs (s : State) (o : Nat) : State :=
  (List.range 8).foldl (fun s q => ((s.octet o).queues.get [] q).foldl (fun s _ => s.endJob o q cHW_ERROR true) s) s

/-- The packets in progress end, and so do the octet's lineage jobs. Queued packets end as they are taken. -/
def State.failPackets (s : State) (o : Nat) : State :=
  let s := (List.range 8).foldl (fun s ch => s.failPacket o ch cHW_ERROR 0) s
  (s.lnJobs.filter (fun j => j.octet == o && j.ended.isNone)).foldl (fun s j => s.endLineage j cHW_ERROR) s

def execEngineFailed (octet : Nat) (copyUnit : Bool) (s : State) : Out :=
  let x := s.octet octet
  if 120 ≤ octet then .next s
  else
    let s := s.errorRecord 1 3 (s.posOf (8 * octet)) 0 0xFFFF 0 0
    if copyUnit then .next ((s.setOctet octet { x with cuFailed := true }).failPackets octet)
    else .next ((s.setOctet octet { x with meFailed := true }).failJobs octet)

end Sys2Proof.Machine
end

