-- ==== Sys2Proof/Machine/DebugEvents.lean ====
section
/-! DEFINITION. Steps of the debug block and of trace sessions (20 R362 to R373). -/

namespace Sys2Proof.Machine

/-! ### HALT and RESUME (20 R362 to R365) -/

/-- A HALT spares the boot core while debug is locked and the boot has not reached stage 6 (20 R362; 17 R322); before the
cores run, it is the one that the canonical map will number. -/
def State.lockedCore (s : State) : Option Nat :=
  if (s.fuses.get 0 168).getLsbD 1 && bitsOf (s.sysReg 0x317).toNat 3 0 < 6 then s.bootPos.bind (fun p => match s.coreAt p with | some c => some c | none => s.canonEntry p) else none

/-- Halt the cores of an octet but one, and its engine and copy unit. -/
def State.haltOctetBut (s : State) (but : Option Nat) (o : Nat) : State :=
  let s := (List.range 8).foldl (fun s j => if but = some (8 * o + j) then s else s.haltCore (8 * o + j) 1) s
  s.setOctet o { s.octet o with halted := true }

/-- HALT stops the partition, and triggers no group (20 R366). -/
def State.halt (s : State) : State :=
  let but := s.lockedCore
  (s.partition.foldl (fun s o => s.haltOctetBut but o) (s.noteHalt 1)).updateHalted

def execHalt (s : State) : Out := .next s.halt

/-- Packets that a breakpoint has stopped, and that a core's input holds, start first (20 R368). -/
def State.startMarked (s : State) (c : Nat) : Nat → State
  | 0 => s
  | fuel + 1 =>
    match findIdx? (fun (pk : Packet) => pk.past && s.destCore pk == some c) s.net 0 with
    | some (i, pk) => ({ s with net := dropIdx s.net i }.arrivePacket c { pk with past := false }).startMarked c fuel
    | none => s

/-- A core restarts: held values are delivered, a due trap is taken, then its free threads take work. -/
def State.unhalt (s : State) (c : Nat) : State :=
  let x := s.core c
  if x.halted then
    let s := s.setCore c { x with halted := false }
    let s := (List.range 16).foldl (fun s t =>
      let th := s.thread c t
      s.setThread c t { th with ctx := { th.ctx with halted := false } }) s
    let s := (List.range 16).foldl (fun s t => (s.resumeSyms c t).takeDue c t) s
    (s.startMarked c (s.net.length + 1)).feed c
  else s

/-- RESUME restarts every halted core, engine and copy unit. -/
def State.resume (s : State) : State :=
  let s := (SMap.keys s.cores).foldl State.unhalt s
  let s := (SMap.keys s.octets).foldl (fun s o => s.setOctet o { s.octet o with halted := false }) s
  s.updateHalted

def execResume (s : State) : Out := .next s.resume

/-- The comparators stop a thread that is about to issue (20 R367). -/
def execPcBreakpoint (core thread : Nat) (s : State) : Out :=
  let h := HartId.core core thread
  if s.canIssue h then
    match s.breakAt h with
    | some t => .next t
    | none => .next s
  else .next s

/-! ### The slate pulse (20 R372, R373) -/

def State.setSlated (s : State) (v : Nat) : State :=
  s.setCtl 0x800018 (BitVec.ofNat 64 (setBits (s.ctlWord 0x800018).toNat 2 2 v))

/-- SLATE chooses an instant 1 µs ahead; it is ignored while an earlier record is not complete. -/
def execSlate (s : State) : Out := onlyIf s.slate.isNone s ({ s with slate := some (s.time + 1000) }.setSlated 0)

/-- The distinct PCs of threads that are not FREE, ascending. -/
def State.slatePcs (s : State) : List Nat :=
  SMap.keys ((s.threads.filter (fun e => e.2.ctx.run != .free && e.1 / 16 % 1024 < 960 && (s.core (e.1 / 16 % 1024)).tenant == e.1 / 16 / 1024)).foldl
    (fun m e => SMap.put m e.2.ctx.pc.toNat true) [])

/-- The 40 bytes of a core. -/
def State.slateCore (s : State) (pcs : List Nat) (c : Nat) : List Byte :=
  let ths := (List.range 16).map (fun t => (s.thread c t).ctx)
  bytesOf 6 (packElems 3 (ths.map (fun x => x.run.code))) ++ bytesOf 2 (packElems 1 (ths.map (fun x => if x.halted ∧ x.run ≠ .free then 1 else 0)))
    ++ ths.flatMap (fun x => bytesOf 2 (if x.run = .free then 0xFFFF
        else match findIdx? (fun p => p == x.pc.toNat) pcs 0 with | some (i, _) => i | none => 0xFFFF))

/-- The slate record. -/
def State.slateRecord (s : State) (ts : Nat) : List Byte :=
  let pcs := s.slatePcs
  bytesOf 8 ts ++ bytesOf 2 pcs.length ++ bytesOf 2 960 ++ bytesOf 4 (32 + 8 * pcs.length + 38400) ++ bytesOf 16 0
    ++ pcs.flatMap (bytesOf 8) ++ (List.range 960).flatMap (s.slateCore pcs)

/-- At Ts the record is written, and SLATED shows it. -/
def State.slateLatch (s : State) (ts : Nat) : State :=
  ({ s with slate := none }.homeWrite 2047 (bitsOf (s.ctlWord 0x800028).toNat 51 6 * 64) (s.slateRecord ts)).setSlated 1

def execSlateLatch (s : State) : Out :=
  match s.slate with
  | some ts => onlyIf (ts ≤ s.time) s (s.slateLatch ts)
  | none => .next s

/-! ### Trace sessions (20 R369, R370) -/

/-- Another open session names the same queue. -/
def State.sessionTaken (s : State) (n : Nat) : Bool := (List.range 16).any (fun k => k != n && s.sessionOf k (s.sessWord n 0))

/-- Opening a session clears LOST. -/
def State.openSession (s : State) (n : Nat) : State :=
  (s.setCtl (0x800110 + 32 * n) (BitVec.ofNat 64 (setBits (s.sessWord n 2) 0 0 1))).setCtl (0x800118 + 32 * n) 0

def execSessionOpen (n : Nat) (s : State) : Out :=
  onlyIf (n < 16 && !(s.sessWord n 2).testBit 0 && !s.sessionTaken n) s (s.openSession n)

def execSessionClose (n : Nat) (s : State) : Out :=
  onlyIf (n < 16 && (s.sessWord n 2).testBit 0) s (s.endSession n 9 (s.queueTen (s.sessWord n 0)) 0)

end Sys2Proof.Machine
end

