-- ==== Sys2Proof/Machine/Evictions.lean ====
section
/-! DEFINITION. Steps that the hardware takes by itself at any time: evictions and page moves; and a word whose opcode is
unassigned (02 R38; 04 R88; 10 R219, R220, R224). -/

namespace Sys2Proof.Machine

/-- The hardware evicts a line of an L1 (10 R220). -/
def execL1LineEviction (l1 line : Nat) (s : State) : Out :=
  onlyIf ((List.range 32).any (fun i => (s.l1.get none (l1Key l1 (line * 32 + i))).isSome)) s ((s.evictLine l1 line).countCore l1 21 1)

/-- A slice evicts a line: loss notices go to the cores that own its words, and the owners become none (10 R219). -/
def State.evictSlice (s : State) (line : Nat) : State :=
  (List.range 32).foldl (fun s i => s.takeOwner 2047 (line * 32 + i)) s

/-- The line at `line`, in units of 256 bytes, lies in the take part of an admitted tenant on some die, which the slices
keep (15 R297). -/
def State.takeHeld (s : State) (line : Nat) : Bool :=
  (SMap.keys s.tenants).any (fun ten => (List.range 4).any (fun d =>
    let part := s.takePart ten d
    part.1 ≤ line * 256 && line * 256 < part.1 + part.2))

def execL2LineEviction (line : Nat) (s : State) : Out := onlyIf (!s.takeHeld line) s (s.evictSlice line)

/-- The hardware moves an unpinned page of a core's scratchpad between its frame and its backing, as a whole (10 R224). -/
def State.movePage (s : State) (key : Nat) : State :=
  if s.resident.get false key then
    { s with resident := s.resident.set false key false }.countCore (key / 64 % 1024) 29 1
  else (s.bringIn key).countCore (key / 64 % 1024) 29 1

def execScratchpadPageMove (ten core page : Nat) (s : State) : Out :=
  let key := tcKey ten core * 64 + page
  onlyIf (ten ≤ 16 && core < 1024 && page < 64 && s.pins.get 0 key == 0
    && (s.resident.get false key || (pagesOn s.pins core (fun n => n != 0)).length < 64)) s (s.movePage key)

/-- The tenants of which a core holds register lines of a thread: the running one, and those pre-empted on it whose threads
no save request has sent home (02 R38; 14 R293, R294). -/
def State.lineTenants (s : State) (core thread : Nat) : List Nat :=
  (List.range 16).filter (fun ten => ten == (s.core core).tenant
    || ((s.tenants.get none ten).isSome && (s.threadOf ten core thread).ctx.run != .free && !(s.threadOf ten core thread).saved))

/-- A register line goes back to its thread's image (02 R38). Of which of those tenants it is, is the cache's choice (log
entry 115). -/
def execRegisterLineEviction (core thread line : Nat) (s : State) : Out :=
  let tens := s.lineTenants core thread
  let ten := tens.getD (Config.freeNat s.freeCtr % tens.length) 16
  onlyIf (!tens.isEmpty && core < 960 && thread < 16 && line < 64) s
    ({ s with freeCtr := s.freeCtr + 1 }.writeImageLine ten core thread line (s.threadOf ten core thread).ctx)

/-- A thread enters a word whose opcode is unassigned: it traps in step 1 of decode (04 R82, R88). -/
def execUnassignedOpcode (w : BitVec 96) (s : State) : Out := .next (s.decodeTrap s.hart w cILLEGAL_OPCODE 1 87)

end Sys2Proof.Machine
end

