-- ==== Sys2Proof/Machine/Reels.lean ====
section
/-! DEFINITION. Reels: checkpoints of a tenant, the order log, and play (08 R190; 20 R376 to R378; log entry 40). -/

namespace Sys2Proof.Machine

/-! ### The descriptor (20 R376) -/

/-- Word k of a reel's descriptor. -/
def State.reelWord (s : State) (r : Reel) (k : Nat) : Nat := s.homeNat (r.addr + 8 * k) 8
def State.putReelWord (s : State) (r : Reel) (k v : Nat) : State := s.homeWriteNat 2047 (r.addr + 8 * k) 8 v

/-- The reel of a tenant in a mode: 1 recording, 2 playing, 3 ended. -/
def State.reelIn (s : State) (ten mode : Nat) : Option Reel := s.reels.find? (fun r => r.ten == ten && r.mode == mode)
def State.reelAt (s : State) (addr : Nat) : Option Reel := s.reels.find? (fun r => r.addr == addr)
def State.setReel (s : State) (r : Reel) : State := { s with reels := s.reels.map (fun x => if x.addr = r.addr then r else x) }

/-- STATE of the descriptor, and the reel's own. -/
def State.reelMode (s : State) (r : Reel) (mode : Nat) : State :=
  (s.putReelWord r 1 (setBits (s.reelWord r 1) 1 0 mode)).setReel { r with mode := mode }

/-- A reel ends with a cause, or 0. -/
def State.endReel (s : State) (r : Reel) (cause : Nat) : State :=
  (s.putReelWord r 1 (setBits (s.reelWord r 1) 15 8 cause)).reelMode r 3

/-! ### The order log (20 R377) -/

/-- The 16 bytes of an entry. -/
def orderEntry (kind b1 b2 b4 b8 : Nat) : List Byte := bytesOf 1 kind ++ bytesOf 1 b1 ++ bytesOf 2 b2 ++ bytesOf 4 b4 ++ bytesOf 8 b8

/-- Append an entry to the log of a tenant that records; a full area ends the reel. -/
def State.logOrder (s : State) (ten : Nat) (bs : List Byte) : State :=
  match s.reelIn ten 1 with
  | none => s
  | some r =>
    let used := s.reelWord r 6
    if s.reelWord r 5 < used + 16 then s.endReel r cQUEUE_FULL
    else (s.homeWrite 2047 (s.reelWord r 4 + used) bs).putReelWord r 6 (used + 16)

/-- The first entry that play has not used and that meets a test, with its number. -/
def State.nextOrder (s : State) (r : Reel) (p : List Byte → Bool) : Option (Nat × List Byte) :=
  ((List.range (s.reelWord r 6 / 16)).find? (fun i => !r.used.get false i && p (s.homeBytes (s.reelWord r 4 + 16 * i) 16))).map
    (fun i => (i, s.homeBytes (s.reelWord r 4 + 16 * i) 16))

/-- Play uses the first such entry. -/
def State.useOrder (s : State) (ten : Nat) (p : List Byte → Bool) : State :=
  match s.reelIn ten 2 with
  | none => s
  | some r => match s.nextOrder r p with
    | some (i, _) => s.setReel { r with used := r.used.set false i true }
    | none => s

/-! ### Checkpoints (20 R376) -/

/-- The device memory that the leaves below a table frame map: base and size. -/
def State.leafRanges (s : State) : Nat → Nat → List (Nat × Nat)
  | 0, _ => []
  | lvl + 1, t => (List.range 512).flatMap (fun i =>
    let e := s.homeNat (t * 4096 + 8 * i) 8
    if !e.testBit 0 then []
    else if (lvl = 2 ∧ pteSz e = 3) ∨ (lvl = 1 ∧ pteSz e = 2) ∨ (lvl = 0 ∧ pteSz e < 2) then
      if leafOk e && !pteLn e then [(ptePfn e * 4096 / pageSize (pteSz e) * pageSize (pteSz e), pageSize (pteSz e))] else []
    else if lvl = 0 ∨ pteSz e ≠ 0 then [] else s.leafRanges lvl (ptePfn e))

/-- A tenant's frames: what its pages map, its lineage storage, its prefix table and its take areas. -/
def State.tenantRanges (s : State) (ten : Nat) : List (Nat × Nat) :=
  s.leafRanges 4 (bitsOf (s.descWord ten 0) 51 12)
    ++ [(s.nodeTable ten, 128 * s.nodeCap ten), (s.poolBase ten, 256 * s.poolSize ten), (s.descWord ten 6, 4096)]
    ++ (List.range 4).map (fun d => s.takePart ten d)

def inTenant (rs : List (Nat × Nat)) (a : Nat) : Bool := rs.any (fun r => r.1 ≤ a && a < r.1 + r.2)

/-- Each core saves the tenant's images, and its dirty words go home. -/
def State.saveTenant (s : State) (ten : Nat) : State :=
  let s := (s.threads.filter (fun e => e.1 / 16 / 1024 == ten && e.2.ctx.run != .free)).foldl
    (fun s e => s.writeImage ten (e.1 / 16 % 1024) (e.1 % 16) e.2.ctx) s
  (s.l1.filter (fun e => match e.2 with | some x => x.dirty && x.ten == ten | none => false)).foldl (fun s e => s.writeBackKey e.1) s

/-- What a checkpoint holds. -/
def State.snap (s : State) (ten : Nat) : Snap :=
  let rs := s.tenantRanges ten
  let tc (k : Nat) : Bool := k / 1024 == ten
  { mem := s.mem.filter (fun c => inTenant rs c.1),
    threads := s.threads.filter (fun e => tc (e.1 / 16)), deques := s.deques.filter (fun e => tc e.1), spills := s.spills.filter (fun e => tc e.1),
    msgs := s.msgs.filter (fun e => tc e.1), tags := s.tags.filter (fun e => tc (e.1 / 64)), chans := s.chans.filter (fun e => tc (e.1 / 64)),
    claims := s.claims.filter (fun e => tc (e.1 / 64)), bindings := s.bindings.filter (fun e => tc e.1),
    syms := s.syms.filter (fun e => match e.2 with | some y => y.ten == ten | none => false),
    scratch := s.scratch.filter (fun e => tc (e.1 / 2 ^ 18)), spoison := s.spoison.filter (fun e => tc (e.1 / 2 ^ 15)),
    launches := s.launches.filter (fun e => match e.2 with | some x => x.ten == ten | none => false),
    net := s.net.filter (fun p => p.ten == ten) }

/-- The frames in which two images of memory differ, ascending. -/
def changedFrames (a b : List Host.Cell) : List Nat :=
  (SMap.keys ((a ++ b).foldl (fun m c => SMap.put m (c.1 / 4096) true) ([] : SMap Bool))).filter
    (fun f => a.filter (fun c => c.1 / 4096 == f) != b.filter (fun c => c.1 / 4096 == f))

/-- The bytes that a list of checkpoints takes of the checkpoint area. -/
def snapBytes : List Host.Cell → List Snap → Nat
  | _, [] => 0
  | m, x :: r => 4096 * (changedFrames m x.mem).length + snapBytes x.mem r

/-- One checkpoint: the tenant is saved, the frames written since the last one are copied, and the log takes an entry of
kind 6. A full area ends the reel. -/
def State.checkpoint (s : State) (r : Reel) : State :=
  let s := s.saveTenant r.ten
  let x := s.snap r.ten
  let prev := match r.snaps.getLast? with | some y => y.mem | none => []
  let fs := changedFrames prev x.mem
  let used := snapBytes [] r.snaps
  if s.reelWord r 3 < used + 4096 * fs.length then s.endReel r cQUEUE_FULL
  else
    let base := s.reelWord r 2 + used
    let s := (fs.zipIdx).foldl (fun s e => s.homeWrite 2047 (base + 4096 * e.2) (s.homeBytes (4096 * e.1) 4096)) s
    let n := r.snaps.length
    let s := (s.setReel { r with snaps := r.snaps ++ [x], last := s.time }).putReelWord r 1 (setBits (s.reelWord r 1) 63 32 (n + 1))
    s.logOrder r.ten (orderEntry 6 0 0 n (s.time % 2 ^ 64))

/-- An engine job or a copy packet of the tenant runs, and is to complete first. -/
def State.tenantBusy (s : State) (ten : Nat) : Bool :=
  s.octets.any (fun e => e.2.queues.any (fun q => q.2.any (fun j => j.ten == ten && j.running))
    || e.2.chans.any (fun c => match c.2 with | some x => x.ten == ten && !x.done | none => false))

/-- PERIOD in ns; 0 gives 20 ms. -/
def State.reelPeriod (s : State) (r : Reel) : Nat :=
  let p := bitsOf (s.reelWord r 0) 47 32
  (if p = 0 then 20 else p) * 1000000

def execCheckpoint (reel : Nat) (s : State) : Out :=
  match s.reels[reel]? with
  | none => .next s
  | some r => onlyIf (r.mode == 1 && r.last + s.reelPeriod r ≤ s.time && !s.tenantBusy r.ten) s (s.checkpoint r)

/-! ### Play restores a checkpoint (20 R378) -/

/-- A map with the entries of some keys replaced. -/
def splice {α : Type} (mine : Nat → α → Bool) (m new : SMap α) : SMap α :=
  new.foldl (fun m e => SMap.put m e.1 e.2) (m.filter (fun e => !mine e.1 e.2))

def State.restoreSnap (s : State) (ten : Nat) (x : Snap) : State :=
  let rs := s.tenantRanges ten
  let tc (k : Nat) : Bool := k / 1024 == ten
  { s with
    mem := x.mem.foldl (fun m e => SMap.set unlistedByte m e.1 e.2) (s.mem.filter (fun e => !inTenant rs e.1)),
    threads := splice (fun k _ => tc (k / 16)) s.threads x.threads, deques := splice (fun k _ => tc k) s.deques x.deques,
    spills := splice (fun k _ => tc k) s.spills x.spills, msgs := splice (fun k _ => tc k) s.msgs x.msgs,
    tags := splice (fun k _ => tc (k / 64)) s.tags x.tags, chans := splice (fun k _ => tc (k / 64)) s.chans x.chans,
    claims := splice (fun k _ => tc (k / 64)) s.claims x.claims, bindings := splice (fun k _ => tc k) s.bindings x.bindings,
    syms := splice (fun _ y => match y with | some y => y.ten == ten | none => false) s.syms x.syms,
    scratch := splice (fun k _ => tc (k / 2 ^ 18)) s.scratch x.scratch, spoison := splice (fun k _ => tc (k / 2 ^ 15)) s.spoison x.spoison,
    launches := splice (fun _ y => match y with | some y => y.ten == ten | none => false) s.launches x.launches,
    net := s.net.filter (fun p => p.ten != ten) ++ x.net,
    faults := (s.faults.map (fun e => (e.1, e.2.filter (fun p => p.ten != ten)))).filter (fun e => !e.2.isEmpty),
    l1 := s.l1.filter (fun e => match e.2 with | some y => y.ten != ten | none => false),
    icache := s.icache.filter (fun e => !inTenant rs (8 * (e.1 % 2 ^ 49))),
    tlb := s.tlb.filter (fun e => e.1 / 2 ^ 38 % 32 != ten) }

/-- Play starts behind the entry of its checkpoint. -/
def State.play (s : State) (r : Reel) (k : Nat) (x : Snap) : State :=
  let start := match (List.range (s.reelWord r 6 / 16)).find? (fun i =>
      let e := s.homeBytes (s.reelWord r 4 + 16 * i) 16
      fieldAt e 0 1 == 6 && fieldAt e 4 4 == k) with
    | some i => i + 1
    | none => s.reelWord r 6 / 16
  let s := s.reelMode { r with used := (List.range start).map (fun i => (i, true)) } 2
  s.restoreSnap r.ten x

/-! ### CKPT -/

/-- The fields that are out of range, by word (20 R376). -/
def State.reelFieldsOk (s : State) (r : Reel) (k : Nat) : Bool :=
  let w := s.reelWord r k
  if k = 0 then bitsOf w 63 48 == 0 && bitsOf w 15 11 == 0 && bitsOf w 8 4 == 0 && bitsOf w 47 32 ≤ 1000
      && !(w.testBit 10 && w.testBit 9) && (s.tenants.get none r.ten).isSome
  else if k = 2 then w % 4096 == 0
  else if k = 4 then w % 16 == 0
  else if 7 ≤ k then w == 0
  else true

/-- CKPT on a descriptor: stop, play, or start recording. -/
def ckptBody (f : TFields) : M Unit := do
  let va ← readNat f.a
  let (loc, _) ← homeLoc va 128 .read
  let s ← get
  match loc with
  | .dev pa =>
    let w := s.homeNat pa 8
    let new : Reel := { ten := w % 16, addr := pa, mode := 1, last := s.time, snaps := [], counts := [], used := [] }
    let old := s.reelAt pa
    for k in List.range 16 do
      require (s.reelFieldsOk new k) (va + 8 * k)
    if w.testBit 9 then
      match old with
      | some r =>
        if r.mode ≠ 1 then illegal va
        else if s.tenantBusy r.ten then stop (.wait .waitJob va 0)
        else
          let t := s.checkpoint r
          set (match t.reelIn r.ten 1 with | some q => t.endReel q 0 | none => t)
      | none => illegal va
    else if w.testBit 10 then
      let k := bitsOf w 31 16
      match old with
      | some r =>
        match r.snaps[k]? with
        | some x => if r.mode ≠ 3 then illegal va else set (s.play r k x)
        | none => illegal va
      | none => illegal va
    else if s.reelWord new 1 % 4 ≠ 0 ∨ (s.reelIn new.ten 1).isSome then illegal va
    else if s.tenantBusy new.ten then stop (.wait .waitJob va 0)
    else
      let t : State := { s with reels := s.reels.filter (fun r => r.addr != pa) ++ [new] }
      let t := (t.putReelWord new 6 0).reelMode new 1
      set (t.checkpoint new)
  | _ => trap cFORMAT va

def execCkpt (f : TFields) (s : State) : Out := runT 0x1BA f (ckptBody f) s

/-! ### What an instruction adds to the log, and what play holds it to (20 R377, R378) -/

/-- The value of a step of an operand, or 0 where it has none. -/
def evalAt (s : State) (h : HartId) (m : M Nat) : Nat := match m { s with hart := h } with | .ok (x, _) => x | .error _ => 0

/-- The home word of an operation that the log orders; none for another instruction. -/
def State.homeOp (s : State) (h : HartId) (op : Nat) (f : TFields) : Option Nat :=
  let ten := s.tenOf h
  let place (va : Nat) : Nat := match (s.locate h ten va).2 with | some (.dev pa, _) => pa / 8 * 8 | _ => va / 8 * 8
  if [0x110, 0x111, 0x112, 0x113, 0x114, 0x115, 0x116, 0x117, 0x118, 0x119, 0x11C, 0x11D, 0x11F, 0x120, 0x121].contains op then
    some (place (evalAt s h (memAddr f)))
  else if op = 0x142 then
    let va := if f.a = .none then (s.ctxOf h).joinc.toNat else evalAt s h (readNat f.a)
    if va = 0 then none else some (place va)
  else if op = 0x186 then some (place (evalAt s h (readNat f.a)))
  else if 0x170 ≤ op ∧ op ≤ 0x179 then some (s.nodeAddr ten (evalAt s h (readNat (if op = 0x172 then f.d else f.a))))
  else if 0x18E ≤ op ∧ op ≤ 0x191 then some (s.pfxAddr ten 0)
  else none

/-- The hart has performed the instruction, and neither waits for it nor has trapped. A JOIN has where its block's count
changes. -/
def State.performed (s t : State) (h : HartId) (op : Nat) (f : TFields) (word : Nat) : Bool :=
  let x := s.ctxOf h
  let y := t.ctxOf h
  guardTrue f.g x
    && (if op = 0x142 then s.homeNat word 4 != t.homeNat word 4
        else y.pc.toNat == nextPc x.pc.toNat && y.run == .ready
          && (match h with | .core c k => (s.thread c k).ctr.get 0 12 == (t.thread c k).ctr.get 0 12 | _ => true))

/-- The opcodes that have an NB form (07 R144). -/
def nbOps : List Nat :=
  [0x11C, 0x122, 0x143, 0x144, 0x145, 0x149, 0x14A, 0x180, 0x181, 0x182, 0x183, 0x186, 0x188, 0x189, 0x18C, 0x18F, 0x192,
   0x193, 0x1B0, 0x1BE, 0x1F0]

/-- The instruction has an outcome to report: an NB form, or SYMPEEK. -/
def reports (op : Nat) (f : TFields) : Bool := (nbOps.contains op && nbBit f) || op == 0x167

/-- The result of the instruction reports timing. -/
def timedValue (op : Nat) (f : TFields) : Bool :=
  [0x1B7, 0x1BD, 0x14F, 0x14B, 0x187, 0x160, 0x162, 0x167].contains op
    || (op == 0x01E && [Operand.x 0x20, .x 0x21, .x 0x50, .x 0x100].contains f.a)

/-- The values that VALUE entries hold: the words of the destination, then the outcome. -/
def State.timedWords (t : State) (h : HartId) (op : Nat) (f : TFields) : List Nat :=
  let c := t.ctxOf h
  (if timedValue op f then
    (match f.d with
      | .s n => [(c.s.get 0 n.toNat).toNat]
      | .w e => [(c.s.get 0 (2 * e.toNat)).toNat, (c.s.get 0 (2 * e.toNat + 1)).toNat]
      | .p n => [(c.p.get 0 n.toNat).toNat % 2]
      | _ => [])
  else []) ++ (if reports op f then [if guardTrue f.g c then 1 else 0] else [])

/-- Counter 0 of a hart; an engine hart has none. -/
def State.issued (s : State) : HartId → Nat
  | .core c t => ((s.thread c t).ctr.get 0 0).toNat
  | _ => 0

/-- The thread or queue of a hart, as an entry names it. -/
def HartId.lane : HartId → Nat
  | .core _ t => t
  | .me _ q => q
  | .cu _ ch => ch

def isHome (h : HartId) (word : Nat) (e : List Byte) : Bool :=
  fieldAt e 0 1 == 1 && fieldAt e 1 1 == h.lane && fieldAt e 2 2 == agentOf h && fieldAt e 8 8 == word
def isValue (h : HartId) (n : Nat) (e : List Byte) : Bool :=
  fieldAt e 0 1 == 5 && fieldAt e 1 1 == h.lane && fieldAt e 2 2 == agentOf h && fieldAt e 4 4 == n % 2 ^ 32

/-- An instruction of a tenant that records adds its entries. -/
def State.recordIssue (s t : State) (h : HartId) (op : Nat) (f : TFields) : State :=
  let ten := s.tenOf h
  let a := agentOf h
  let t := match s.homeOp h op f, t.reelIn ten 1 with
    | some w, some r =>
      if s.performed t h op f w then
        let n := r.counts.get 0 a
        (t.setReel { r with counts := r.counts.set 0 a (n + 1) }).logOrder ten (orderEntry 1 h.lane a n w)
      else t
    | _, _ => t
  if s.performed t h op f 0 then
    (t.timedWords h op f).foldl (fun t v => t.logOrder ten (orderEntry 5 h.lane a (s.issued h) v)) t
  else t

/-- What play makes of an instruction before it runs. -/
inductive Gate where
  | run | hold
  | over (s : State)
  deriving DecidableEq, Repr

/-- The symbol of an entry becomes visible before the hart issues again. -/
def isSym (h : HartId) (n : Nat) (e : List Byte) : Bool :=
  fieldAt e 0 1 == 4 && fieldAt e 1 1 == h.lane && fieldAt e 2 2 == agentOf h && fieldAt e 4 4 < n % 2 ^ 32

/-- An instruction of a tenant that plays waits for the logged order, or ends the reel where the log cannot match it. -/
def State.issueGate (s : State) (h : HartId) (i : Instr) : Gate :=
  match opFields i, s.reelIn (s.tenOf h) 2 with
  | some (op, .t f), some r =>
    if (s.nextOrder r (isSym h (s.issued h))).isSome then .hold
    else if !guardTrue f.g (s.ctxOf h) then .run
    else if (timedValue op f || reports op f) && (s.nextOrder r (isValue h (s.issued h))).isNone then .over (s.endReel r cSOFTWARE)
    else match s.homeOp h op f with
      | none => .run
      | some w => match s.nextOrder r (fun e => fieldAt e 0 1 == 1 && fieldAt e 8 8 == w) with
        | none => .over (s.endReel r cSOFTWARE)
        | some (_, e) => if isHome h w e then .run else .hold
  | _, _ => .run

/-- The destination takes the logged values. -/
def State.putTimed (t : State) (h : HartId) (op : Nat) (f : TFields) (vs : List Nat) : State :=
  if timedValue op f then
    match f.d with
    | .s n => t.writeS h n.toNat (BitVec.ofNat 64 (vs.getD 0 0))
    | .w e => (t.writeS h (2 * e.toNat) (BitVec.ofNat 64 (vs.getD 0 0))).writeS h (2 * e.toNat + 1) (BitVec.ofNat 64 (vs.getD 1 0))
    | .p n => t.writeP h n.toNat (if vs.getD 0 0 = 1 then onesBelow (lanes (t.ctxOf h)) else 0)
    | _ => t
  else t

/-- Play uses k entries of the hart's values, and answers them. -/
def State.takeValues (t : State) (h : HartId) (ten n : Nat) : Nat → State × List Nat
  | 0 => (t, [])
  | k + 1 =>
    match t.reelIn ten 2 with
    | none => (t, [])
    | some r => match t.nextOrder r (isValue h n) with
      | none => (t, [])
      | some (i, e) =>
        let (t, vs) := (t.setReel { r with used := r.used.set false i true }).takeValues h ten n k
        (t, fieldAt e 8 8 :: vs)

/-- An instruction of a tenant that plays: its home entry is used, its result is the logged one, and an NB form has the
logged outcome. `s0` is the state before the instruction was entered, for one that is to try again. -/
def State.playIssue (s0 s t : State) (h : HartId) (op : Nat) (f : TFields) : State :=
  let ten := s.tenOf h
  let want := t.timedWords h op f
  let (u, vs) := if s.performed t h op f 0 then t.takeValues h ten (s.issued h) want.length else (t, [])
  let done (t : State) : State := match s.homeOp h op f with
    | some w => if s.performed t h op f w then t.useOrder ten (isHome h w) else t
    | none => t
  if reports op f ∧ vs.length = want.length ∧ want ≠ [] then
    if vs.getLast? = want.getLast? then (done u).putTimed h op f (if guardTrue f.g (t.ctxOf h) then vs else [])
    else if vs.getLast? = some 0 then
      { (s.enter h).reportGuard h f.g with reels := u.reels }
    else s0
  else (done u).putTimed h op f (if vs.isEmpty then want else vs)

/-- What an instruction that has run adds to a tenant's log, or takes from it. -/
def State.reelIssue (s0 s t : State) (h : HartId) (i : Instr) : State :=
  match opFields i with
  | some (op, .t f) =>
    if (t.reelIn (s.tenOf h) 1).isSome ∧ (s.reelIn (s.tenOf h) 1).isSome then s.recordIssue t h op f
    else if (s.reelIn (s.tenOf h) 2).isSome ∧ (t.reelIn (s.tenOf h) 2).isSome then s0.playIssue s t h op f
    else t
  | _ => t

/-! ### Events in the log -/

/-- LO of what a steal from a victim takes (09 R202). -/
def State.stealLo (s : State) (v : Nat) : Nat :=
  match s.topRecord v with
  | none => 0
  | some r => if !r.range || r.chunks ≤ 1 then r.lo.toNat else (r.lo + r.grain * BitVec.ofNat 64 (ceilDiv r.chunks 2)).toNat

/-- The entries of packet deliveries, steals and resolutions: the tenant and the entry. -/
def msgEntry (c : Nat) (pk : Packet) : Nat × List Byte := (pk.ten, orderEntry 2 pk.srcThr c pk.num pk.src)
def State.stealEntry (s : State) (v thief : Nat) : Nat × List Byte :=
  ((s.core thief).tenant, orderEntry 3 ((s.freeThread thief).getD 0) thief v (s.stealLo v))
def State.symEntry (s : State) (c i : Nat) (y : Sym) : Nat × List Byte :=
  (y.ten, orderEntry 4 y.thread c (s.issued (.core c y.thread)) i)

/-- The packet that a step delivers, and its core. -/
def State.delivery (s : State) (i : Nat) : Option (Nat × Packet) := (s.net[i]?).bind (fun pk => (s.destCore pk).map (fun c => (c, pk)))

/-- Symbols that a step has resolved. -/
def State.resolved (s t : State) : List (Nat × List Byte) :=
  s.syms.filterMap (fun e => match e.2 with
    | some y =>
      if y.state = .pending ∧ (match t.syms.get none e.1 with | some z => z.state != .pending | none => true) = true then
        some (s.symEntry (e.1 / 256) (e.1 % 256) y) else none
    | none => none)

/-- The entries of a step of another agent. -/
def State.eventEntries (s t : State) (i : Instr) : List (Nat × List Byte) :=
  let stolen (v th : Nat) : List (Nat × List Byte) :=
    if (s.core th).ctr.get 0 23 = (t.core th).ctr.get 0 23 then [] else [s.stealEntry v th]
  (match i with
    | .activationStart k => (match s.delivery k with | some (c, pk) => if t.net.length < s.net.length then [msgEntry c pk] else [] | none => [])
    | .deposit k => (match s.delivery k with | some (c, pk) => if t.net.length < s.net.length then [msgEntry c pk] else [] | none => [])
    | .stealRequest th => (match s.nextVictim th with | some v => stolen v th | none => [])
    | .map cl k _ _ => (match (s.faults.get [] cl)[k]? with
      | some p => (match p.who with | .split v th => stolen v th | _ => [])
      | none => [])
    | _ => []) ++ s.resolved t

/-- What another agent's step adds to a log, or uses of it. -/
def State.reelEvent (s t : State) (i : Instr) : State :=
  if s.reels.isEmpty then t
  else (s.eventEntries t i).foldl (fun t e => (t.logOrder e.1 e.2).useOrder e.1 (fun x => x == e.2)) t

/-- The log's next entry of a kind for a core, or for a symbol, against the one that a step would make. -/
def State.checkEvent (s : State) (e : Nat × List Byte) (same : List Byte → Bool) : Gate :=
  match s.reelIn e.1 2 with
  | none => .run
  | some r => match s.nextOrder r same with
    | none => .over (s.endReel r cSOFTWARE)
    | some (_, x) => if x = e.2 then .run else .hold

/-- Play holds packets, steals and resolutions to the logged order. A victim refuses a steal that is not logged. -/
def State.eventGate (s : State) (i : Instr) : Gate :=
  let packet (k : Nat) : Gate := match s.delivery k with
    | some (c, pk) => s.checkEvent (msgEntry c pk) (fun x => fieldAt x 0 1 == 2 && fieldAt x 2 2 == c)
    | none => .run
  let sym (c k : Nat) : Gate := match s.sym c k with
    | some y =>
      if y.state = .pending then
        s.checkEvent (s.symEntry c k y) (fun x => fieldAt x 0 1 == 4 && fieldAt x 1 1 == y.thread && fieldAt x 2 2 == c && fieldAt x 8 8 == k)
      else .run
    | none => .run
  if s.reels.isEmpty then .run
  else match i with
    | .activationStart k => packet k
    | .deposit k => packet k
    | .valueArrival c k => sym c k
    | .symbolPoison c k _ => sym c k
    | .stealRequest th =>
      if s.steals th then
        match s.nextVictim th with
        | some v =>
          if s.takesRequest v th then
            match s.checkEvent (s.stealEntry v th) (fun x => fieldAt x 0 1 == 3 && fieldAt x 2 2 == th) with
            | .hold =>
              let x := s.core th
              .over (((s.setCore th { x with walk := { x.walk with tried := x.walk.tried ++ [v] } }).countCore th 22 1).countCore v 24 1)
            | g => g
          else .run
        | none => .run
      else .run
    | _ => .run

end Sys2Proof.Machine
end

