-- ==== Sys2Proof/Machine/Acts.lean ====
section
/-! DEFINITION. What the agents without a row do to the package (log entry 1): system software admits and removes tenants,
the command processor gives a core to a waiting tenant, engines perform tile steps, ports and peers write (00 R4; 10 R228;
12 R251; 14 R277, R278, R293; 15 R297, R306). -/

namespace Sys2Proof.Machine

/-! ### Tenants (14 R277, R278; 15 R297, R306) -/

/-- PART of a descriptor's take area. -/
def State.partSize (s : State) (desc : Nat) : Nat :=
  let a := s.homeNat (desc + 64) 8
  if a = 0 then 0 else s.homeNat (a + 32) 4

/-- The parts of every admitted tenant, which each die holds once. -/
def State.partsHeld (s : State) : Nat :=
  s.tenants.foldl (fun n e => match e.2 with | some t => n + s.partSize t.desc | none => n) 0

/-- The command processor admits a tenant: an aligned descriptor, a save pool at an aligned place and large enough for the
grant, and parts that the slices can hold. -/
def State.admissible (s : State) (desc grant : Nat) : Bool :=
  let base := bitsOf (s.homeNat (desc + 112) 8) 51 0
  desc % 128 == 0 && base != 0 && base % 4096 == 0 && (grantCores grant).length * 0x114000 ≤ s.homeNat (desc + 120) 8
    && s.partsHeld + s.partSize desc ≤ 96 * 2 ^ 20

/-- Admission: %preempt counts from here (14 R279). -/
def State.enrol (s : State) (ten desc grant : Nat) : State :=
  { s with tenants := s.tenants.set none ten (some { desc, grant }), preempts := s.preempts.filter (fun e => e.1 / 1024 != ten) }

/-- Nothing of a tenant runs: no launch, no engine job, copy packet or lineage job. -/
def State.quiet (s : State) (ten : Nat) : Bool :=
  s.launches.all (fun e => match e.2 with | some x => x.ten != ten | none => true)
    && s.octets.all (fun e => e.2.queues.all (fun q => q.2.all (fun j => j.ten != ten))
      && e.2.chans.all (fun c => match c.2 with | some r => r.ten != ten | none => true))
    && s.lnJobs.all (fun j => j.ten != ten)

/-- Removal: every take of the tenant is invalidated on every die, its tiles are dropped, and what the package held for its
units and launches is no more (00 R4; 12 R246; 15 R306). -/
def State.removeTenant (s : State) (ten : Nat) : State :=
  let mine (k : Nat) : Bool := k / 1024 == ten
  let ours := s.takes.filter (fun e => match e.2 with | some d => d.ten == ten | none => false)
  let s := ours.foldl (fun s e => s.dropTake e.1) s
  { s with
    tenants := s.tenants.set none ten none,
    threads := s.threads.filter (fun e => !mine (e.1 / 16)), deques := s.deques.filter (fun e => !mine e.1),
    spills := s.spills.filter (fun e => !mine e.1), msgs := s.msgs.filter (fun e => !mine e.1),
    tags := s.tags.filter (fun e => !mine (e.1 / 64)), chans := s.chans.filter (fun e => !mine (e.1 / 64)),
    claims := s.claims.filter (fun e => !mine (e.1 / 64)), bindings := s.bindings.filter (fun e => !mine e.1),
    preempts := s.preempts.filter (fun e => !mine e.1), undeliv := s.undeliv.filter (fun e => !mine e.1),
    syms := s.syms.filter (fun e => match e.2 with | some y => y.ten != ten | none => false),
    scratch := s.scratch.filter (fun e => !mine (e.1 / 2 ^ 18)), spoison := s.spoison.filter (fun e => !mine (e.1 / 2 ^ 15)),
    resident := s.resident.filter (fun e => !mine (e.1 / 64)), pins := s.pins.filter (fun e => !mine (e.1 / 64)),
    octets := s.octets.map (fun e => (e.1, { e.2 with tiles := e.2.tiles.filter (fun t => match t.2 with
      | some x => (match x.tag with | some g => g.ten != ten | none => true)
      | none => false) })),
    clflags := s.clflags.filter (fun e => e.1 % 32 != ten), lastSlice := s.lastSlice.filter (fun e => e.1 / 32 != ten),
    faults := (s.faults.map (fun e => (e.1, e.2.filter (fun p => p.ten != ten)))).filter (fun e => !e.2.isEmpty),
    services := s.services.filter (fun r => r.ten != ten), transoms := s.transoms.filter (fun r => r.ten != ten),
    hazards := s.hazards.set [] ten [], attns := s.attns.filter (fun a => a.ten != ten),
    net := s.net.filter (fun p => p.ten != ten), reels := s.reels.filter (fun r => r.ten != ten) }

/-- A core that no unit holds is given to a tenant that waits for it; what the tenant before it left moves to its save area
(09 R197, 14 R293). -/
def State.giveCore (s : State) (c ten : Nat) : State :=
  if (s.tenants.get none ten).isSome && s.waitsFor ten c && s.coreIdle c && !(s.core c).halted then
    (if (s.core c).tenant = 16 then s else s.preempt c).runTenant c ten
  else s

/-- A queue descriptor is attached to the command processor of a cluster (14 R280). -/
def State.attachQueue (s : State) (cl desc : Nat) : State :=
  let q : CpQueue := { desc := desc, wi := s.homeNat desc 4, step := 0, packet := [], seq := 0, place := 0, cls := 0 }
  if (s.queues.get [] cl).any (fun q => q.desc == desc) || 64 ≤ (s.queues.get [] cl).length then s
  else { s with queues := s.queues.set [] cl (s.queues.get [] cl ++ [q]) }

/-- Another package writes its own memory, which this one reads through its port (10 R216, log entry 2). -/
def State.peerWrites (s : State) (addr : Nat) (bs : List Byte) : State :=
  let peer (a : Nat) : Bool := match s.regionOf a with | .peer _ => true | _ => false
  if !bs.isEmpty && peer addr && peer (addr + bs.length - 1) then s.homeWrite 2047 addr bs else s

/-- The acts of agents without a row. A fuse or a strap changes only in reset. -/
def State.runAct (s : State) : Act → State
  | .dropIcache c w => { s with icache := s.icache.set none (icKey c w) none }
  | .dropTlb k => { s with tlb := s.tlb.set none k none }
  | .tileStep o => if o < 120 ∧ (s.octet o).halted = false then s.tileTurn o else s
  | .enrol ten desc grant =>
    if ten < 16 ∧ (s.tenants.get none ten).isNone = true ∧ grant < 2 ^ 120 ∧ s.admissible desc grant = true then s.enrol ten desc grant else s
  | .remove ten => if (s.tenants.get none ten).isSome = true ∧ s.quiet ten = true then s.removeTenant ten else s
  | .attachQueue cl desc => s.attachQueue cl desc
  | .runTenant c ten => s.giveCore c ten
  | .throttleCause d on => { s with thrCause := s.thrCause.set false d on, thrLast := s.thrLast.set 0 d s.time }
  | .peerAck th a => { s with peerStores := s.peerStores.erase (th, a) }
  | .peerWrite a bs => s.peerWrites a bs
  | .ingress d k => s.performInflow d k
  | .flushTrace n c => s.flushTrace n c
  | .loadFlash off bs => { s with flash := writeBytes s.flash off bs }
  | .burnFuses off bs => if s.phase = .inReset then { s with fuses := writeBytes s.fuses off bs } else s
  | .setStraps pkg mode =>
    if s.phase = .inReset ∧ pkg < 64 ∧ mode < 3 then (s.setMeshst 21 16 pkg).setCtl 0x8000C0 (BitVec.ofNat 64 mode) else s

end Sys2Proof.Machine
end

