-- ==== Sys2Proof/Machine/Dispatch.lean ====
section
/-! DEFINITION. One arm per instruction and per step of another agent. -/

namespace Sys2Proof.Machine

def exec (i : Instr) (s : State) : Host.Outcome State Fault Refusal :=
  match i with
  | .add f => Sys2Proof.Machine.execAdd f s
  | .sub f => Sys2Proof.Machine.execSub f s
  | .mul f => Sys2Proof.Machine.execMul f s
  | .mulh f => Sys2Proof.Machine.execMulh f s
  | .mulhu f => Sys2Proof.Machine.execMulhu f s
  | .div f => Sys2Proof.Machine.execDiv f s
  | .divu f => Sys2Proof.Machine.execDivu f s
  | .rem f => Sys2Proof.Machine.execRem f s
  | .remu f => Sys2Proof.Machine.execRemu f s
  | .and f => Sys2Proof.Machine.execAnd f s
  | .or f => Sys2Proof.Machine.execOr f s
  | .xor f => Sys2Proof.Machine.execXor f s
  | .andn f => Sys2Proof.Machine.execAndn f s
  | .shl f => Sys2Proof.Machine.execShl f s
  | .shr f => Sys2Proof.Machine.execShr f s
  | .sra f => Sys2Proof.Machine.execSra f s
  | .rol f => Sys2Proof.Machine.execRol f s
  | .min f => Sys2Proof.Machine.execMin f s
  | .max f => Sys2Proof.Machine.execMax f s
  | .minu f => Sys2Proof.Machine.execMinu f s
  | .maxu f => Sys2Proof.Machine.execMaxu f s
  | .abs f => Sys2Proof.Machine.execAbs f s
  | .neg f => Sys2Proof.Machine.execNeg f s
  | .clz f => Sys2Proof.Machine.execClz f s
  | .ctz f => Sys2Proof.Machine.execCtz f s
  | .popc f => Sys2Proof.Machine.execPopc f s
  | .brev f => Sys2Proof.Machine.execBrev f s
  | .bswap f => Sys2Proof.Machine.execBswap f s
  | .sext f => Sys2Proof.Machine.execSext f s
  | .zext f => Sys2Proof.Machine.execZext f s
  | .mov f => Sys2Proof.Machine.execMov f s
  | .sel f => Sys2Proof.Machine.execSel f s
  | .li f => Sys2Proof.Machine.execLi f s
  | .lih f => Sys2Proof.Machine.execLih f s
  | .addW f => Sys2Proof.Machine.execAddW f s
  | .subW f => Sys2Proof.Machine.execSubW f s
  | .mulW f => Sys2Proof.Machine.execMulW f s
  | .madd f => Sys2Proof.Machine.execMadd f s
  | .cmp f => Sys2Proof.Machine.execCmp f s
  | .cmpu f => Sys2Proof.Machine.execCmpu f s
  | .test f => Sys2Proof.Machine.execTest f s
  | .lea f => Sys2Proof.Machine.execLea f s
  | .bfx f => Sys2Proof.Machine.execBfx f s
  | .bfi f => Sys2Proof.Machine.execBfi f s
  | .br f => Sys2Proof.Machine.execBr f s
  | .jmp f => Sys2Proof.Machine.execJmp f s
  | .call f => Sys2Proof.Machine.execCall f s
  | .callr f => Sys2Proof.Machine.execCallr f s
  | .ret f => Sys2Proof.Machine.execRet f s
  | .loop f => Sys2Proof.Machine.execLoop f s
  | .brt f => Sys2Proof.Machine.execBrt f s
  | .nop f => Sys2Proof.Machine.execNop f s
  | .yield f => Sys2Proof.Machine.execYield f s
  | .exit f => Sys2Proof.Machine.execExit f s
  | .bkpt f => Sys2Proof.Machine.execBkpt f s
  | .waitt f => Sys2Proof.Machine.execWaitt f s
  | .pand f => Sys2Proof.Machine.execPand f s
  | .por f => Sys2Proof.Machine.execPor f s
  | .pxor f => Sys2Proof.Machine.execPxor f s
  | .pnot f => Sys2Proof.Machine.execPnot f s
  | .pmov f => Sys2Proof.Machine.execPmov f s
  | .pset f => Sys2Proof.Machine.execPset f s
  | .pany f => Sys2Proof.Machine.execPany f s
  | .pall f => Sys2Proof.Machine.execPall f s
  | .pcnt f => Sys2Proof.Machine.execPcnt f s
  | .pfirst f => Sys2Proof.Machine.execPfirst f s
  | .fadd f => Sys2Proof.Machine.execFadd f s
  | .fsub f => Sys2Proof.Machine.execFsub f s
  | .fmul f => Sys2Proof.Machine.execFmul f s
  | .fdiv f => Sys2Proof.Machine.execFdiv f s
  | .fsqrt f => Sys2Proof.Machine.execFsqrt f s
  | .fma f => Sys2Proof.Machine.execFma f s
  | .fms f => Sys2Proof.Machine.execFms f s
  | .fnma f => Sys2Proof.Machine.execFnma f s
  | .fmin f => Sys2Proof.Machine.execFmin f s
  | .fmax f => Sys2Proof.Machine.execFmax f s
  | .fabs f => Sys2Proof.Machine.execFabs f s
  | .fneg f => Sys2Proof.Machine.execFneg f s
  | .fsgn f => Sys2Proof.Machine.execFsgn f s
  | .fabd f => Sys2Proof.Machine.execFabd f s
  | .fcmp f => Sys2Proof.Machine.execFcmp f s
  | .fclass f => Sys2Proof.Machine.execFclass f s
  | .frint f => Sys2Proof.Machine.execFrint f s
  | .f2i f => Sys2Proof.Machine.execF2i f s
  | .f2u f => Sys2Proof.Machine.execF2u f s
  | .i2f f => Sys2Proof.Machine.execI2f f s
  | .u2f f => Sys2Proof.Machine.execU2f f s
  | .fcvt f => Sys2Proof.Machine.execFcvt f s
  | .fexp2 f => Sys2Proof.Machine.execFexp2 f s
  | .flog2 f => Sys2Proof.Machine.execFlog2 f s
  | .frcp f => Sys2Proof.Machine.execFrcp f s
  | .frsq f => Sys2Proof.Machine.execFrsq f s
  | .ftanh f => Sys2Proof.Machine.execFtanh f s
  | .fsigm f => Sys2Proof.Machine.execFsigm f s
  | .fscalb f => Sys2Proof.Machine.execFscalb f s
  | .fgetexp f => Sys2Proof.Machine.execFgetexp f s
  | .scenc f => Sys2Proof.Machine.execScenc f s
  | .scdec f => Sys2Proof.Machine.execScdec f s
  | .fq8 f => Sys2Proof.Machine.execFq8 f s
  | .fdq8 f => Sys2Proof.Machine.execFdq8 f s
  | .vadd f => Sys2Proof.Machine.execVadd f s
  | .vsub f => Sys2Proof.Machine.execVsub f s
  | .vmul f => Sys2Proof.Machine.execVmul f s
  | .vmulh f => Sys2Proof.Machine.execVmulh f s
  | .vmadd f => Sys2Proof.Machine.execVmadd f s
  | .vmin f => Sys2Proof.Machine.execVmin f s
  | .vmax f => Sys2Proof.Machine.execVmax f s
  | .vabs f => Sys2Proof.Machine.execVabs f s
  | .vneg f => Sys2Proof.Machine.execVneg f s
  | .vand f => Sys2Proof.Machine.execVand f s
  | .vor f => Sys2Proof.Machine.execVor f s
  | .vxor f => Sys2Proof.Machine.execVxor f s
  | .vshl f => Sys2Proof.Machine.execVshl f s
  | .vshr f => Sys2Proof.Machine.execVshr f s
  | .vsra f => Sys2Proof.Machine.execVsra f s
  | .vcmp f => Sys2Proof.Machine.execVcmp f s
  | .vsel f => Sys2Proof.Machine.execVsel f s
  | .vfadd f => Sys2Proof.Machine.execVfadd f s
  | .vfsub f => Sys2Proof.Machine.execVfsub f s
  | .vfmul f => Sys2Proof.Machine.execVfmul f s
  | .vfma f => Sys2Proof.Machine.execVfma f s
  | .vfms f => Sys2Proof.Machine.execVfms f s
  | .vfmin f => Sys2Proof.Machine.execVfmin f s
  | .vfmax f => Sys2Proof.Machine.execVfmax f s
  | .vfabs f => Sys2Proof.Machine.execVfabs f s
  | .vfneg f => Sys2Proof.Machine.execVfneg f s
  | .vfcmp f => Sys2Proof.Machine.execVfcmp f s
  | .vfexp2 f => Sys2Proof.Machine.execVfexp2 f s
  | .vfrcp f => Sys2Proof.Machine.execVfrcp f s
  | .vfrsq f => Sys2Proof.Machine.execVfrsq f s
  | .vftanh f => Sys2Proof.Machine.execVftanh f s
  | .vfsigm f => Sys2Proof.Machine.execVfsigm f s
  | .vfcvt f => Sys2Proof.Machine.execVfcvt f s
  | .vradd f => Sys2Proof.Machine.execVradd f s
  | .vrfadd f => Sys2Proof.Machine.execVrfadd f s
  | .vrmax f => Sys2Proof.Machine.execVrmax f s
  | .vrmin f => Sys2Proof.Machine.execVrmin f s
  | .vrfmax f => Sys2Proof.Machine.execVrfmax f s
  | .vrfmin f => Sys2Proof.Machine.execVrfmin f s
  | .vdot f => Sys2Proof.Machine.execVdot f s
  | .vfdot f => Sys2Proof.Machine.execVfdot f s
  | .vmov f => Sys2Proof.Machine.execVmov f s
  | .vbcast f => Sys2Proof.Machine.execVbcast f s
  | .vext f => Sys2Proof.Machine.execVext f s
  | .vins f => Sys2Proof.Machine.execVins f s
  | .vperm f => Sys2Proof.Machine.execVperm f s
  | .vshuf f => Sys2Proof.Machine.execVshuf f s
  | .vslide f => Sys2Proof.Machine.execVslide f s
  | .vcompress f => Sys2Proof.Machine.execVcompress f s
  | .vexpand f => Sys2Proof.Machine.execVexpand f s
  | .viota f => Sys2Proof.Machine.execViota f s
  | .vbsenc f => Sys2Proof.Machine.execVbsenc f s
  | .vbsdec f => Sys2Proof.Machine.execVbsdec f s
  | .vq8 f => Sys2Proof.Machine.execVq8 f s
  | .vdq8 f => Sys2Proof.Machine.execVdq8 f s
  | .vamax f => Sys2Proof.Machine.execVamax f s
  | .vsplit f => Sys2Proof.Machine.execVsplit f s
  | .vonline f => Sys2Proof.Machine.execVonline f s
  | .vclamp f => Sys2Proof.Machine.execVclamp f s
  | .vscan f => Sys2Proof.Machine.execVscan f s
  | .vrng f => Sys2Proof.Machine.execVrng f s
  | .vavg f => Sys2Proof.Machine.execVavg f s
  | .ld f => Sys2Proof.Machine.execLd f s
  | .ldDec f => Sys2Proof.Machine.execLdDec f s
  | .ldb f => Sys2Proof.Machine.execLdb f s
  | .ldl f => Sys2Proof.Machine.execLdl f s
  | .st f => Sys2Proof.Machine.execSt f s
  | .stwt f => Sys2Proof.Machine.execStwt f s
  | .vld f => Sys2Proof.Machine.execVld f s
  | .vldb f => Sys2Proof.Machine.execVldb f s
  | .vldl f => Sys2Proof.Machine.execVldl f s
  | .vst f => Sys2Proof.Machine.execVst f s
  | .vlds f => Sys2Proof.Machine.execVlds f s
  | .vsts f => Sys2Proof.Machine.execVsts f s
  | .vldx f => Sys2Proof.Machine.execVldx f s
  | .vstx f => Sys2Proof.Machine.execVstx f s
  | .pref f => Sys2Proof.Machine.execPref f s
  | .flushl f => Sys2Proof.Machine.execFlushl f s
  | .invl f => Sys2Proof.Machine.execInvl f s
  | .aadd f => Sys2Proof.Machine.execAadd f s
  | .amin f => Sys2Proof.Machine.execAmin f s
  | .amax f => Sys2Proof.Machine.execAmax f s
  | .aand f => Sys2Proof.Machine.execAand f s
  | .aor f => Sys2Proof.Machine.execAor f s
  | .axor f => Sys2Proof.Machine.execAxor f s
  | .aswap f => Sys2Proof.Machine.execAswap f s
  | .acas f => Sys2Proof.Machine.execAcas f s
  | .ainc f => Sys2Proof.Machine.execAinc f s
  | .afadd f => Sys2Proof.Machine.execAfadd f s
  | .bind f => Sys2Proof.Machine.execBind f s
  | .unbind f => Sys2Proof.Machine.execUnbind f s
  | .acq f => Sys2Proof.Machine.execAcq f s
  | .rel f => Sys2Proof.Machine.execRel f s
  | .fence f => Sys2Proof.Machine.execFence f s
  | .lda f => Sys2Proof.Machine.execLda f s
  | .str f => Sys2Proof.Machine.execStr f s
  | .waitw f => Sys2Proof.Machine.execWaitw f s
  | .waitwWake f => Sys2Proof.Machine.execWaitwWake f s
  | .pinsp f => Sys2Proof.Machine.execPinsp f s
  | .unpinsp f => Sys2Proof.Machine.execUnpinsp f s
  | .spawn f => Sys2Proof.Machine.execSpawn f s
  | .spawnr f => Sys2Proof.Machine.execSpawnr f s
  | .join f => Sys2Proof.Machine.execJoin f s
  | .send f => Sys2Proof.Machine.execSend f s
  | .sendv f => Sys2Proof.Machine.execSendv f s
  | .mcast f => Sys2Proof.Machine.execMcast f s
  | .bindtag f => Sys2Proof.Machine.execBindtag f s
  | .unbindtag f => Sys2Proof.Machine.execUnbindtag f s
  | .hcfgBind f => Sys2Proof.Machine.execHcfgBind f s
  | .hcfgNew f => Sys2Proof.Machine.execHcfgNew f s
  | .hcfgUnbind f => Sys2Proof.Machine.execHcfgUnbind f s
  | .hcfgFree f => Sys2Proof.Machine.execHcfgFree f s
  | .hadv f => Sys2Proof.Machine.execHadv f s
  | .hadvw f => Sys2Proof.Machine.execHadvw f s
  | .hq f => Sys2Proof.Machine.execHq f s
  | .policy f => Sys2Proof.Machine.execPolicy f s
  | .raise f => Sys2Proof.Machine.execRaise f s
  | .waitj f => Sys2Proof.Machine.execWaitj f s
  | .jobq f => Sys2Proof.Machine.execJobq f s
  | .sleep f => Sys2Proof.Machine.execSleep f s
  | .wake f => Sys2Proof.Machine.execWake f s
  | .symq f => Sys2Proof.Machine.execSymq f s
  | .symwait f => Sys2Proof.Machine.execSymwait f s
  | .symid f => Sys2Proof.Machine.execSymid f s
  | .symdrop f => Sys2Proof.Machine.execSymdrop f s
  | .jobl f => Sys2Proof.Machine.execJobl f s
  | .rcvl f => Sys2Proof.Machine.execRcvl f s
  | .symlim f => Sys2Proof.Machine.execSymlim f s
  | .sympeek f => Sys2Proof.Machine.execSympeek f s
  | .lnfork f => Sys2Proof.Machine.execLnfork f s
  | .lnforkAf f => Sys2Proof.Machine.execLnforkAf f s
  | .lnpatch f => Sys2Proof.Machine.execLnpatch f s
  | .lnrebase f => Sys2Proof.Machine.execLnrebase f s
  | .lnrebaseChk f => Sys2Proof.Machine.execLnrebaseChk f s
  | .lnflat f => Sys2Proof.Machine.execLnflat f s
  | .lndrop f => Sys2Proof.Machine.execLndrop f s
  | .lndropFold f => Sys2Proof.Machine.execLndropFold f s
  | .lninfo f => Sys2Proof.Machine.execLninfo f s
  | .lnres f => Sys2Proof.Machine.execLnres f s
  | .meload f => Sys2Proof.Machine.execMeload f s
  | .memm f => Sys2Proof.Machine.execMemm f s
  | .melin f => Sys2Proof.Machine.execMelin f s
  | .medl f => Sys2Proof.Machine.execMedl f s
  | .medrop f => Sys2Proof.Machine.execMedrop f s
  | .meburst f => Sys2Proof.Machine.execMeburst f s
  | .cuq f => Sys2Proof.Machine.execCuq f s
  | .cuwp f => Sys2Proof.Machine.execCuwp f s
  | .cucq f => Sys2Proof.Machine.execCucq f s
  | .coll f => Sys2Proof.Machine.execColl f s
  | .gather f => Sys2Proof.Machine.execGather f s
  | .cuwait f => Sys2Proof.Machine.execCuwait f s
  | .kvmap f => Sys2Proof.Machine.execKvmap f s
  | .kvgrow f => Sys2Proof.Machine.execKvgrow f s
  | .attn f => Sys2Proof.Machine.execAttn f s
  | .pfxh f => Sys2Proof.Machine.execPfxh f s
  | .pfxl f => Sys2Proof.Machine.execPfxl f s
  | .pfxins f => Sys2Proof.Machine.execPfxins f s
  | .pfxpin f => Sys2Proof.Machine.execPfxpin f s
  | .pfxdel f => Sys2Proof.Machine.execPfxdel f s
  | .sysc f => Sys2Proof.Machine.execSysc f s
  | .intr f => Sys2Proof.Machine.execIntr f s
  | .trap f => Sys2Proof.Machine.execTrap f s
  | .eret f => Sys2Proof.Machine.execEret f s
  | .rdx f => Sys2Proof.Machine.execRdx f s
  | .wrx f => Sys2Proof.Machine.execWrx f s
  | .tlbi f => Sys2Proof.Machine.execTlbi f s
  | .time f => Sys2Proof.Machine.execTime f s
  | .tmark f => Sys2Proof.Machine.execTmark f s
  | .hlt f => Sys2Proof.Machine.execHlt f s
  | .ckpt f => Sys2Proof.Machine.execCkpt f s
  | .ifence f => Sys2Proof.Machine.execIfence f s
  | .cctl f => Sys2Proof.Machine.execCctl f s
  | .perf f => Sys2Proof.Machine.execPerf f s
  | .logx f => Sys2Proof.Machine.execLogx f s
  | .spadmap f => Sys2Proof.Machine.execSpadmap f s
  | .cimw f => Sys2Proof.Machine.execCimw f s
  | .cimr f => Sys2Proof.Machine.execCimr f s
  | .bpl f => Sys2Proof.Machine.execBpl f s
  | .rbld f => Sys2Proof.Machine.execRbld f s
  | .accrd f => Sys2Proof.Machine.execAccrd f s
  | .accclr f => Sys2Proof.Machine.execAccclr f s
  | .planes f => Sys2Proof.Machine.execPlanes f s
  | .dupf f => Sys2Proof.Machine.execDupf f s
  | .delta f => Sys2Proof.Machine.execDelta f s
  | .takew f => Sys2Proof.Machine.execTakew f s
  | .taker f => Sys2Proof.Machine.execTaker f s
  | .beatrd f => Sys2Proof.Machine.execBeatrd f s
  | .beatwr f => Sys2Proof.Machine.execBeatwr f s
  | .conv f => Sys2Proof.Machine.execConv f s
  | .wpset f => Sys2Proof.Machine.execWpset f s
  | .cmpl f => Sys2Proof.Machine.execCmpl f s
  | .pktnext f => Sys2Proof.Machine.execPktnext f s
  | .scatr f => Sys2Proof.Machine.execScatr f s
  | .map cl idx pteAddr pte => Sys2Proof.Machine.execMap cl idx pteAddr pte s
  | .decline cl idx => Sys2Proof.Machine.execDecline cl idx s
  | .valueArrival core sym => Sys2Proof.Machine.execValueArrival core sym s
  | .symbolPoison core sym cause => Sys2Proof.Machine.execSymbolPoison core sym cause s
  | .waitResume core thread => Sys2Proof.Machine.execWaitResume core thread s
  | .waittDeadline core thread => Sys2Proof.Machine.execWaittDeadline core thread s
  | .sleepTimeout core thread => Sys2Proof.Machine.execSleepTimeout core thread s
  | .stealRequest thief => Sys2Proof.Machine.execStealRequest thief s
  | .stealRetry thief => Sys2Proof.Machine.execStealRetry thief s
  | .chunkCountPublish die => Sys2Proof.Machine.execChunkCountPublish die s
  | .activationStart idx => Sys2Proof.Machine.execActivationStart idx s
  | .deposit idx => Sys2Proof.Machine.execDeposit idx s
  | .bootCountAdd core => Sys2Proof.Machine.execBootCountAdd core s
  | .jobStart octet micro => Sys2Proof.Machine.execJobStart octet micro s
  | .rampDown octet => Sys2Proof.Machine.execRampDown octet s
  | .burstRampStart octet => Sys2Proof.Machine.execBurstRampStart octet s
  | .burstEnd octet => Sys2Proof.Machine.execBurstEnd octet s
  | .takeLookup octet => Sys2Proof.Machine.execTakeLookup octet s
  | .packetTake octet q micro => Sys2Proof.Machine.execPacketTake octet q micro s
  | .copy octet chan => Sys2Proof.Machine.execCopy octet chan s
  | .fill octet chan => Sys2Proof.Machine.execFill octet chan s
  | .gatherPacket octet chan => Sys2Proof.Machine.execGatherPacket octet chan s
  | .gatherRowReturn octet chan row => Sys2Proof.Machine.execGatherRowReturn octet chan row s
  | .collPacket octet chan => Sys2Proof.Machine.execCollPacket octet chan s
  | .reloc octet chan bytes => Sys2Proof.Machine.execReloc octet chan bytes s
  | .kvgrowComplete die pair => Sys2Proof.Machine.execKvgrowComplete die pair s
  | .lineageJobEnd idx => Sys2Proof.Machine.execLineageJobEnd idx s
  | .sauPartial a page => Sys2Proof.Machine.execSauPartial a page s
  | .routerMerge a idx j => Sys2Proof.Machine.execRouterMerge a idx j s
  | .partialArrival a idx => Sys2Proof.Machine.execPartialArrival a idx s
  | .launch cl qa => Sys2Proof.Machine.execLaunch cl qa s
  | .launchStart l root => Sys2Proof.Machine.execLaunchStart l root s
  | .launchEnd l => Sys2Proof.Machine.execLaunchEnd l s
  | .wrsig cl qa => Sys2Proof.Machine.execWrsig cl qa s
  | .wait cl qa => Sys2Proof.Machine.execWait cl qa s
  | .barrier cl qa => Sys2Proof.Machine.execBarrier cl qa s
  | .reset cl qa => Sys2Proof.Machine.execReset cl qa s
  | .queuePoll cl qa => Sys2Proof.Machine.execQueuePoll cl qa s
  | .colocationClassify l busy bytes => Sys2Proof.Machine.execColocationClassify l busy bytes s
  | .sliceEnd cl ten => Sys2Proof.Machine.execSliceEnd cl ten s
  | .saveRequest core thread => Sys2Proof.Machine.execSaveRequest core thread s
  | .svcrep cl r => Sys2Proof.Machine.execSvcrep cl r s
  | .svcrst cl seq => Sys2Proof.Machine.execSvcrst cl seq s
  | .attestRequest req => Sys2Proof.Machine.execAttestRequest req s
  | .resetNRelease fusesAgree failed => Sys2Proof.Machine.execResetNRelease fusesAgree failed s
  | .hbmTrainingEnd failed => Sys2Proof.Machine.execHbmTrainingEnd failed s
  | .go core => Sys2Proof.Machine.execGo core s
  | .discoveryDone => Sys2Proof.Machine.execDiscoveryDone s
  | .commit core => Sys2Proof.Machine.execCommit core s
  | .ccrel v => Sys2Proof.Machine.execCcrel v s
  | .measx v => Sys2Proof.Machine.execMeasx v s
  | .registerWrite off v => Sys2Proof.Machine.execRegisterWrite off v s
  | .watchdogExpiry cl l => Sys2Proof.Machine.execWatchdogExpiry cl l s
  | .throttleStep die => Sys2Proof.Machine.execThrottleStep die s
  | .throttleRaise die => Sys2Proof.Machine.execThrottleRaise die s
  | .scrubPass word uncorrectable => Sys2Proof.Machine.execScrubPass word uncorrectable s
  | .correctableError cls pos => Sys2Proof.Machine.execCorrectableError cls pos s
  | .uncorrectableError u => Sys2Proof.Machine.execUncorrectableError u s
  | .fatalError cls pos => Sys2Proof.Machine.execFatalError cls pos s
  | .coreFailed core lost => Sys2Proof.Machine.execCoreFailed core lost s
  | .engineFailed octet copyUnit => Sys2Proof.Machine.execEngineFailed octet copyUnit s
  | .inboundWrite die addr bytes secure => Sys2Proof.Machine.execInboundWrite die addr bytes secure s
  | .flitReplay port => Sys2Proof.Machine.execFlitReplay port s
  | .cxlTimeout core sym => Sys2Proof.Machine.execCxlTimeout core sym s
  | .domainAckTimeout core thread addr => Sys2Proof.Machine.execDomainAckTimeout core thread addr s
  | .latchWrite dom addr v => Sys2Proof.Machine.execLatchWrite dom addr v s
  | .latchReplay dom => Sys2Proof.Machine.execLatchReplay dom s
  | .halt => Sys2Proof.Machine.execHalt s
  | .resume => Sys2Proof.Machine.execResume s
  | .slate => Sys2Proof.Machine.execSlate s
  | .slateLatch => Sys2Proof.Machine.execSlateLatch s
  | .pcBreakpoint core thread => Sys2Proof.Machine.execPcBreakpoint core thread s
  | .activationBreakpoint idx => Sys2Proof.Machine.execActivationBreakpoint idx s
  | .sessionOpen n => Sys2Proof.Machine.execSessionOpen n s
  | .sessionClose n => Sys2Proof.Machine.execSessionClose n s
  | .checkpoint reel => Sys2Proof.Machine.execCheckpoint reel s
  | .entropyRead cc => Sys2Proof.Machine.execEntropyRead cc s
  | .logInject => Sys2Proof.Machine.execLogInject s
  | .unassignedOpcode w => Sys2Proof.Machine.execUnassignedOpcode w s
  | .l1LineEviction l1 line => Sys2Proof.Machine.execL1LineEviction l1 line s
  | .l2LineEviction line => Sys2Proof.Machine.execL2LineEviction line s
  | .scratchpadPageMove ten core page => Sys2Proof.Machine.execScratchpadPageMove ten core page s
  | .registerLineEviction core thread line => Sys2Proof.Machine.execRegisterLineEviction core thread line s
  | .resetNAssert => Sys2Proof.Machine.execResetNAssert s
  | .peerStoreArrival port addr bytes => Sys2Proof.Machine.execPeerStoreArrival port addr bytes s
  | .portDown port => Sys2Proof.Machine.execPortDown port s
  | .controlCoreStore cc addr bytes => Sys2Proof.Machine.execControlCoreStore cc addr bytes s

end Sys2Proof.Machine
end

