-- ==== Sys2Proof/Machine/Step.lean ====
section
/-! DEFINITION. One step of the package: the schedule says who moves (log entry 1), and a hart that moves runs the
instruction that it fetches. -/

namespace Sys2Proof.Machine

/-- The outcome of an instruction, with the counters of its L1 traffic, and its entries in a reel's log. -/
def settleIssue (s0 s : State) (h : HartId) (i : Instr) : Out → Out
  | .next t =>
    let t := t.account s h
    .next (if s.reels.isEmpty then t else s0.reelIssue s t h i)
  | .fault r => .fault r
  | .refused r => .refused r

/-- What a hart that has entered an instruction does: it runs it, unless a reel that plays holds it. -/
def runEntered (s0 s : State) (h : HartId) (i : Instr) : Out :=
  match (if s.reels.isEmpty then Gate.run else s.issueGate h i) with
  | .run => settleIssue s0 s h i (exec i s)
  | .hold => .next s0
  | .over t => .next { s0 with reels := t.reels, mem := t.mem, owner := t.owner, poison := t.poison }

/-- A hart issues: it goes on with a containment that it has to complete; else a breakpoint halts its core, or it runs the
instruction at its pc. A hart that may not issue leaves the state as it is. -/
noncomputable def issue (s : State) (h : HartId) : Out :=
  let s := { s with hart := h }
  if s.canIssue h then
    match s.pendOf h with
    | some (c, t, p) => .next (s.finishTrap c t p)
    | none =>
    match s.breakAt h with
    | some t => .next t
    | none =>
      match s.enterInstr h with
      | (t, none) => .next t
      | (t, some i) => runEntered s t h i
  else .next s

/-- The slot in which a core's choice is a thread, and that slot's new starvation count (09 R207). -/
def State.slotOf (s : State) (c t : Nat) : Option (Bool × Nat) :=
  [false, true].findSome? (fun vec => match s.choose c vec with
    | some (u, n) => if u = t then some (vec, n) else none
    | none => none)

/-- A hart's turn: an engine hart issues; a core thread issues where its core chooses it for a slot. -/
noncomputable def issueTurn (s : State) (h : HartId) : Out :=
  match h with
  | .core c t =>
    match s.slotOf c t with
    | some (vec, n) => issue (s.setStarved c vec n) h
    | none => .next s
  | _ => issue s h

/-- The outcome of another agent's step, with its entries in a reel's log. -/
def settleEvent (s : State) (i : Instr) : Out → Out
  | .next t => .next (s.reelEvent t i)
  | .fault r => .fault r
  | .refused r => .refused r

/-- Another agent makes its step, unless a reel that plays holds it. -/
def runEvent (s : State) (i : Instr) : Out :=
  match s.eventGate i with
  | .run => settleEvent s i (exec i s)
  | .hold => .next s
  | .over t => .next t

/-- The row is a step of another agent, not an instruction. -/
def isEvent (i : Instr) : Bool :=
  match opFields i, i with
  | some _, _ => false
  | none, .unassignedOpcode _ => false
  | none, _ => true

/-- The first entry of the schedule moves. -/
noncomputable def runTurn (s : State) : Turn → Out
  | .issue h => issueTurn s h
  | .caught h => issueTurn { s with caught := true } h
  | .slot c vec =>
    match s.choose c vec with
    | some (t, n) => issue (s.setStarved c vec n) (.core c t)
    | none => .next (s.setStarved c vec 0)
  | .event i => if isEvent i then runEvent s i else .next s
  | .tick ns aclk => .next (s.tick ns aclk)
  | .act a => .next (s.runAct a)

/-- One step. With an empty schedule the hart `hart` issues, as the only candidate of its slot (log entry 116). After
FATAL_ERROR nothing moves but the reset (19 R356). -/
noncomputable def step (s : State) : Host.Outcome State Fault Refusal :=
  match s.schedule with
  | [] => if s.fatal then .fault .fatal else issue s s.hart
  | turn :: rest =>
    let s := { s with schedule := rest, caught := false }
    if s.fatal then (match turn with
      | .event .resetNAssert => exec .resetNAssert s
      | _ => .next s)
    else runTurn s turn

/-- A hart of a kind that executes an opcode: a core thread, or the running job or packet of octet 0. -/
def hartFor (op : Nat) : HartId :=
  if legalOn .core op then .core 0 0 else if legalOn .engine op then .me 0 0 else .cu 0 0

/-- The state with an instruction, whose bits numbered from the first stored word are `w`, placed where the next step
fetches: at the pc of a hart that executes it, in the boot context, READY and with no wait recorded. No program runs
from reset until the ROM has started one (log entry 13), so the hart is made ready here, and it moves next. -/
def State.withFetchWord (s : State) (nbits w : Nat) : State :=
  let w := w % 2 ^ nbits
  let h := hartFor (w / 2 ^ 87)
  let s := s.readyHart h
  let pc := (s.ctxOf h).pc.toNat
  s.placeWord h (pc / 64 * 64) (pc % 8) w

end Sys2Proof.Machine
end

