-- ==== Sys2Proof/Safety.lean ====
section
/-! DEFINITION. The terms that the statements use: when an instruction runs, what it reads, where it writes, and what it
leaves alone. -/

namespace Sys2Proof.Safety

open Sys2Proof.Machine

/-- Memory is in canonical form. -/
def MemoryCanonical (s : State) : Prop := Memory.wf s.mem = true

/-! ### When an instruction runs -/

/-- The opcode of an instruction, and its guard, modifier and operands; a format L instruction has field D alone. -/
def fieldsOf (i : Instr) : Option (Nat × TFields) :=
  match opFields i with
  | some (op, .t f) => some (op, f)
  | some (op, .l f) => some (op, headFields f)
  | none => none

/-- A hart that the part has (00 R3, 12 R244, R255). -/
def validHart : HartId → Bool
  | .core c t => c < 1024 && t < 16
  | .me o q => o < 120 && q < 8
  | .cu o ch => o < 120 && ch < 9

def isCore : HartId → Bool
  | .core _ _ => true
  | _ => false

/-- The hart that moves may run the instruction (04 R82, R85), and its guard is true (04 R78). -/
def ready (i : Instr) (s : State) : Bool :=
  validHart s.hart &&
  match fieldsOf i with
  | some (op, f) => (s.hartChecks s.hart op f).isNone && guardTrue f.g (s.ctxOf s.hart)
  | none => false

/-- The same on a core thread. -/
def readyCore (i : Instr) (s : State) : Bool := isCore s.hart && ready i s

/-- The state in which an instruction's effect begins: its hart is ready again, and its pc is the next instruction's. -/
def entered (s : State) : State := (s.enter s.hart).advance s.hart

/-- The registers with which an instruction's effect begins. -/
def base (s : State) : Ctx :=
  { s.ctxOf s.hart with run := .ready, pc := BitVec.ofNat 64 (nextPc (s.ctxOf s.hart).pc.toNat) }

/-! ### Operands -/

/-- Scalar register n of a context, unless it is late. -/
def scalarOf (c : Ctx) (n : Nat) : Option Word :=
  if n = 0 then some 0 else if (c.late.get none n).isNone then some (c.s.get 0 n) else none

/-- The value of an integer source field: a register that is present, a special register that has a value, or an
immediate (02 R24, R27; 04 R75). -/
def srcOf (s : State) : Operand → Option Word
  | .s n => scalarOf (s.ctxOf s.hart) n.toNat
  | .x n => if specialOpen s.hart n.toNat then none else some (BitVec.ofNat 64 (s.special s.hart n.toNat))
  | .imm v => some (v.signExtend 64)
  | _ => none

/-- The FP32 bits of a floating-point source field (05 R104). -/
def fpOf (s : State) : Operand → Option Nat
  | .s n => (scalarOf (s.ctxOf s.hart) n.toNat).map (fun x => x.toNat % 2 ^ 32)
  | .imm v => some (encodeF fp32 .rne (FV.ofInt v.toInt)).bits
  | _ => none

/-- The 128-bit value of a pair of present registers (04 R75). -/
def pairOf (s : State) : Operand → Option (Word × Word)
  | .w e => match scalarOf (s.ctxOf s.hart) (2 * e.toNat), scalarOf (s.ctxOf s.hart) (2 * e.toNat + 1) with
    | some a, some b => some (a, b)
    | _, _ => none
  | _ => none

/-- A vector register that is present. -/
def vecOf (s : State) : Operand → Option Vec
  | .v n => if ((s.ctxOf s.hart).late.get none (64 + n.toNat)).isNone then some ((s.ctxOf s.hart).v.get 0 n.toNat) else none
  | _ => none

/-- A predicate register. -/
def predOf (s : State) : Operand → Option Pred
  | .p n => some ((s.ctxOf s.hart).getP n.toNat)
  | _ => none

/-! ### Registers after a write -/

/-- Registers with scalar n written: s0 discards the write, another register is present (02 R24, R33). -/
def setS (c : Ctx) (n : Nat) (x : Word) : Ctx :=
  if n = 0 then c else { c with s := c.s.set 0 n x, late := c.late.set none n none }

def setV (c : Ctx) (n : Nat) (x : Vec) : Ctx := { c with v := c.v.set 0 n x, late := c.late.set none (64 + n) none }

/-- Registers with predicate n written; p0 discards the write (02 R25). -/
def setP (c : Ctx) (n : Nat) (x : Pred) : Ctx := if n = 0 then c else { c with p := c.p.set 0 n x }

/-- Registers with flags raised (02 R29). -/
def addFlags (c : Ctx) (fl : Flags) : Ctx := { c with flags := c.flags ||| fl }

/-! ### Frames -/

/-- From s to t only the registers of the hart that moved changed, and they are c, its record of a wait, and its age stamp
where it leaves a wait (09 R207): no other
hart's registers, no byte of memory, of an L1 or of a scratchpad, and nothing else of the package. A core thread's flags fl reach its cluster's
accumulator (02 R30), and a symbol is freed only where the hart no longer refers to it (11 R233). -/
structure HartOnly (s t : State) (c : Ctx) (fl : Flags) : Prop where
  regs    : t.ctxOf s.hart = c
  others  : ∀ g, validHart g = true → g ≠ s.hart → t.ctxOf g = s.ctxOf g
  threads : ∀ k, { t.threads.get Thread.zero k with
              ctx := (s.threads.get Thread.zero k).ctx, waiting := (s.threads.get Thread.zero k).waiting,
              stall := (s.threads.get Thread.zero k).stall, stamp := (s.threads.get Thread.zero k).stamp } = s.threads.get Thread.zero k
  stamps  : (s.ctxOf s.hart).run.waits = false → ∀ k, (t.threads.get Thread.zero k).stamp = (s.threads.get Thread.zero k).stamp
  octets  : ∀ o, { t.octet o with meCtx := (s.octet o).meCtx, cuCtx := (s.octet o).cuCtx } = s.octet o
  rest    : { t with threads := s.threads, octets := s.octets, syms := s.syms, clflags := s.clflags } = s
  flags   : ∀ k, t.clflags.get 0 k = s.clflags.get 0 k |||
              (if isCore s.hart = true ∧ k = clusterOf s.hart * 32 + s.tenOf s.hart then fl else 0)
  symbols : ∀ k, t.syms.get none k = s.syms.get none k ∨
              (t.syms.get none k = none ∧ ∃ d n j, s.hart = .core d n ∧ k = d * 256 + j
                ∧ (s.ctxOf s.hart).symRefs.contains j = true ∧ c.symRefs.contains j = false)
  bytes   : ∀ a, t.homeByte a = s.homeByte a
  cached  : ∀ d w, t.l1Get d w = s.l1Get d w
  scratch : ∀ k off n, t.scrBytes k off n = s.scrBytes k off n

/-- A special register may be written with a value now (02 R27 to R29, 11 R238). -/
def specialOk (u : State) (n : Nat) (x : Word) : Bool :=
  !(n == 1 && (u.ctxOf u.hart).anyLateV) && (u.setSpecial u.hart n x).isSome

/-- An integer destination takes a value (01 R23). -/
def canWrite (s : State) (fl : Flags) : Operand → Word → Bool
  | .s _, _ => true
  | .x n, x => specialOk ((entered s).raiseFlags s.hart fl) n.toNat x
  | _, _ => false

/-- The state after an instruction that raised flags fl and wrote x to its integer destination, and did nothing else. -/
def Wrote (s t : State) (fl : Flags) : Operand → Word → Prop
  | .s n, x => HartOnly s t (setS (addFlags (base s) fl) n.toNat x) fl
  | .x n, x => ((entered s).raiseFlags s.hart fl).setSpecial s.hart n.toNat x = some t
  | _, _ => False

/-! ### Memory as an access finds it (07 R142; 10 R219) -/

/-- The byte of a word that holds physical address a. -/
def byteAt (x : Word) (a : Nat) : Byte := BitVec.ofNat 8 (x.toNat / 256 ^ (a % 8))

/-- The byte at physical address a that core c's ordinary loads see: of its L1 word where that is valid, else its home's. -/
def seenByte (s : State) (c a : Nat) : Byte :=
  match s.l1Get c (a / 8) with
  | some x => byteAt x.value a
  | none => s.homeByte a

/-- The word that core c's ordinary loads see is poisoned. -/
def seenPoison (s : State) (c w : Nat) : Bool :=
  match s.l1Get c w with
  | some x => x.poison
  | none => s.poison.get false w

/-- The core of a hart, for its L1. -/
def coreOf : HartId → Nat
  | .core c _ => c
  | _ => 0

/-- Where a virtual address leads for the hart that moves, and its page; none where the access raises PAGE_FAULT. -/
def placeOf (s : State) (va : Nat) : Option (Loc × Page) :=
  if 2 ^ 48 ≤ va then none
  else match (s.locate s.hart (s.tenOf s.hart) va).2 with
    | some (.ln n off, pg) => if !s.nodeInvalid (s.tenOf s.hart) n && 256 * (s.node (s.tenOf s.hart) n).lines ≤ off then none else some (.ln n off, pg)
    | some (.dev pa, pg) => if s.regionOf pa == .unlisted || s.regionOf pa == .control || pg.home == 3 then none else some (.dev pa, pg)
    | r => r

/-- The first check of an access that its place fails, in the order of the table of 07 R142, with its cause. -/
def failsWith (s : State) (acc : Access) (refuse : Refuse) (loc : Loc) (pg : Page) : Option Nat :=
  match loc with
  | .scr _ _ => if refuse false pg then some cFORMAT else none
  | .dev pa =>
    if s.tenOf s.hart ≠ 16 ∧ pg.s ≠ s.frameWorld pa then some cWORLD
    else if acc.writes = true ∧ pg.w = false then some cPROTECTION
    else if fmtReserved pg.fmt = true ∨ refuse false pg = true then some cFORMAT
    else match s.regionOf pa with
      | .peer p => if s.unreachable p then some cHW_ERROR else none
      | _ => none
  | .ln n _ =>
    let d := s.node (s.tenOf s.hart) n
    let bad := s.nodeInvalid (s.tenOf s.hart) n
    if pg.s ≠ s.frameWorld (s.nodeTable (s.tenOf s.hart)) then some cWORLD
    else if acc.writes = true ∧ pg.w = false then some cPROTECTION
    else if fmtReserved pg.fmt = true ∨ refuse true pg = true ∨ pg.home ≠ 0 ∨ pg.nc = true
      ∨ (bad = false ∧ (pg.fmt ≠ d.fmt ∨ pg.geom ≠ d.geom)) then some cFORMAT
    else if bad then some cNODE_INVALID
    else if d.state = 3 then some cNODE_RETIRED
    else if acc.writes = true ∧ (d.state = 2 ∨ d.job = 1) then some cNODE_FROZEN
    else none

/-- A write of a node that a lineage job holds waits for the job (08 R168). -/
def heldByJob (s : State) (acc : Access) : Loc → Bool
  | .ln n _ => acc.writes && (s.node (s.tenOf s.hart) n).job > 1
  | _ => false

/-- An access of the hart that moves passes every check at its place. -/
def allowed (s : State) (va : Nat) (acc : Access) (refuse : Refuse) : Option (Loc × Page) :=
  match placeOf s va with
  | some (loc, pg) => if (failsWith s acc refuse loc pg).isNone && !heldByJob s acc loc then some (loc, pg) else none
  | none => none

/-- The n bytes at a place that a read by a path finds, none of them poisoned. A read of the PCIe region, whose devices
the spec does not describe, finds an open value (log entry 2). -/
def Found (s : State) (loc : Loc) (pg : Page) (n : Nat) (path : Path) (bs : List Byte) : Prop :=
  match loc with
  | .dev pa =>
    if s.regionOf pa = .pcie then ∃ k, s.freeCtr ≤ k ∧ bs = bytesOf n (Config.freeNat k)
    else if path ≠ .home ∧ s.cached s.hart pa pg = true then
      (∀ w ∈ wordsOf pa n, seenPoison s (coreOf s.hart) w = false)
        ∧ bs = (List.range n).map (fun i => seenByte s (coreOf s.hart) (pa + i))
    else s.homePoisoned pa n = false ∧ bs = s.homeBytes pa n
  | .scr key off => s.scrPoisoned key off n = false ∧ bs = s.scrBytes key off n
  | .ln node off => s.nodeBytes (s.tenOf s.hart) node off n = some bs

/-- From s to t nothing outside the data memory changed but the registers of the hart that moved, which are c, its record
of a wait, its age stamp where it leaves one, the flags fl that reach its cluster (02 R30), event counts, cached translations and the count of open values;
a symbol is freed only where the hart no longer refers to it (11 R233). -/
structure Accessed (s t : State) (c : Ctx) (fl : Flags) : Prop where
  regs    : t.ctxOf s.hart = c
  others  : ∀ g, validHart g = true → g ≠ s.hart → t.ctxOf g = s.ctxOf g
  threads : ∀ k, { t.threads.get Thread.zero k with
              ctx := (s.threads.get Thread.zero k).ctx, waiting := (s.threads.get Thread.zero k).waiting,
              stall := (s.threads.get Thread.zero k).stall, ctr := (s.threads.get Thread.zero k).ctr,
              stamp := (s.threads.get Thread.zero k).stamp } = s.threads.get Thread.zero k
  stamps  : (s.ctxOf s.hart).run.waits = false → ∀ k, (t.threads.get Thread.zero k).stamp = (s.threads.get Thread.zero k).stamp
  octets  : ∀ o, { t.octet o with meCtx := (s.octet o).meCtx, cuCtx := (s.octet o).cuCtx } = s.octet o
  cores   : ∀ c, { t.core c with ctr := (s.core c).ctr } = s.core c
  rest    : { t with threads := s.threads, octets := s.octets, cores := s.cores, syms := s.syms, clflags := s.clflags,
                     tlb := s.tlb, freeCtr := s.freeCtr, l1 := s.l1, mem := s.mem, poison := s.poison, owner := s.owner,
                     scratch := s.scratch, spoison := s.spoison, peerStores := s.peerStores } = s
  flags   : ∀ k, t.clflags.get 0 k = s.clflags.get 0 k |||
              (if isCore s.hart = true ∧ k = clusterOf s.hart * 32 + s.tenOf s.hart then fl else 0)
  symbols : ∀ k, t.syms.get none k = s.syms.get none k ∨
              (t.syms.get none k = none ∧ ∃ d n j, s.hart = .core d n ∧ k = d * 256 + j
                ∧ (s.ctxOf s.hart).symRefs.contains j = true ∧ c.symRefs.contains j = false)
  tlb     : ∀ k, s.tlb.get none k = none ∨ t.tlb.get none k = s.tlb.get none k

/-- No byte of memory, of a scratchpad or of what a core sees changed. -/
structure Untouched (s t : State) : Prop where
  bytes   : t.mem = s.mem
  poison  : t.poison = s.poison
  owner   : t.owner = s.owner
  scratch : t.scratch = s.scratch ∧ t.spoison = s.spoison
  peers   : t.peerStores = s.peerStores
  seen    : ∀ d a, a < 2 ^ 52 → seenByte t d a = seenByte s d a

/-! ### Channel slots as vector operands (06 R116) -/

/-- The channel that a handle of the hart names, with its core. -/
def boundChan (s : State) (n : Nat) : Option (Nat × Chan) :=
  match s.hart with
  | .core c _ => ((s.ctxOf s.hart).handles.get none n).map (fun e => (c, s.chan c e))
  | _ => none

/-- The slots that a handle operand asks for are there. -/
def enough (x : Chan) (count there : Nat) : Bool := count == 0 || Max.max count x.spanSlots ≤ there

/-- The 256 bytes of a vector or handle source that can be read now, as a number; a field without a source reads zero. -/
def spanOf (s : State) : Operand → Option Nat
  | .v n => (vecOf s (.v n)).map (fun x => x.toNat)
  | .h n c => match boundChan s n.toNat with
    | some (k, x) =>
      let offs := (List.range 32).map (fun j => x.spanOff x.rp.toNat (8 * j))
      let key := tcKey (s.core k).tenant k
      if enough x c.toNat x.filled && offs.all (fun o => !s.scrPoisoned key o 8) then
        some (ofBytes (offs.flatMap (fun o => s.scrBytes key o 8)))
      else none
    | none => none
  | .none => some 0
  | _ => none

/-- A vector or handle destination can be written now; one that merges is read first. -/
def canPut (s : State) (merge : Bool) : Operand → Bool
  | .v n => !merge || (vecOf s (.v n)).isSome
  | .h n c => match boundChan s n.toNat with
    | some (_, x) => enough x c.toNat x.empty
    | none => false
  | _ => false

/-- From s to t lanes were written: a lane without a result keeps what D held where the mask merges, and else is zero. A
vector register changes as `HartOnly` says; a channel destination changes only bytes of the span at its write pointer. -/
def PutLanes (s t : State) (c : Ctx) (fl : Flags) (w : Nat) (merge : Bool) (rs : List (Option Nat)) : Operand → Prop
  | .v n =>
    let old := elems w rs.length (((s.ctxOf s.hart).v.get 0 n.toNat).toNat)
    HartOnly s t (setV c n.toNat (BitVec.ofNat 2048 (packElems w
      ((rs.zip old).map (fun e => e.1.getD (if merge then e.2 else 0)))))) fl
  | .h n _ => ∃ u k x, HartOnly s u c fl ∧ boundChan s n.toNat = some (k, x)
      ∧ t = u.writeSpan (tcKey (s.core k).tenant k) x w (if merge then rs else rs.map (fun r => some (r.getD 0)))
  | _ => False

end Sys2Proof.Safety
end

