-- ==== Sys2Proof/Certificates/Slice0/Obligations.lean ====
section
/-! DEFINITION. The statements for the provers, with the tables of the spec that they use. -/

open Sys2Proof Sys2Proof.Machine Sys2Proof.Safety

/-! ### Scalar integer instructions (05 R92 to R98) -/

/-- The exact signed result of an instruction that SAT may clamp: from a, b and the old value of D (R93). -/
def Sys2Proof.Claims.exactOf (a b d : Word) : Instr → Option Int
  | .add _ => some (a.toInt + b.toInt)
  | .sub _ => some (a.toInt - b.toInt)
  | .mul _ => some (a.toInt * b.toInt)
  | .abs _ => some |a.toInt|
  | .neg _ => some (-a.toInt)
  | .madd _ => some (d.toInt + a.toInt * b.toInt)
  | _ => none

/-- The result of an instruction without SAT (R93). SZ 0 to 2 selects 8, 16 or 32 bits. -/
def Sys2Proof.Claims.plainOf (a b : Word) : Instr → Option Word
  | .mulh _ => some ((a.signExtend 128 * b.signExtend 128).extractLsb' 64 64)
  | .mulhu _ => some ((a.zeroExtend 128 * b.zeroExtend 128).extractLsb' 64 64)
  | .and _ => some (a &&& b)
  | .or _ => some (a ||| b)
  | .xor _ => some (a ^^^ b)
  | .andn _ => some (a &&& ~~~b)
  | .shl _ => some (BitVec.ofNat 64 (a.toNat * 2 ^ (b.toNat % 64)))
  | .shr _ => some (BitVec.ofNat 64 (a.toNat / 2 ^ (b.toNat % 64)))
  | .sra _ => some (BitVec.ofInt 64 (a.toInt / 2 ^ (b.toNat % 64)))
  | .rol _ => some (a <<< (b.toNat % 64) ||| a >>> (64 - b.toNat % 64))
  | .min _ => some (BitVec.ofInt 64 (Min.min a.toInt b.toInt))
  | .max _ => some (BitVec.ofInt 64 (Max.max a.toInt b.toInt))
  | .minu _ => some (BitVec.ofNat 64 (Min.min a.toNat b.toNat))
  | .maxu _ => some (BitVec.ofNat 64 (Max.max a.toNat b.toNat))
  | .sext f => some (if mField f.m 1 0 = 0 then (a.truncate 8).signExtend 64
      else if mField f.m 1 0 = 1 then (a.truncate 16).signExtend 64 else (a.truncate 32).signExtend 64)
  | .zext f => some (if mField f.m 1 0 = 0 then (a.truncate 8).zeroExtend 64
      else if mField f.m 1 0 = 1 then (a.truncate 16).zeroExtend 64 else (a.truncate 32).zeroExtend 64)
  | _ => none

/-- What the result of a counting or reordering instruction is, bit by bit (R93). -/
def Sys2Proof.Claims.countsOf (a x : Word) : Instr → Prop
  | .clz _ => x.toNat ≤ 64 ∧ (∀ j, 64 - x.toNat ≤ j → a.getLsbD j = false) ∧ (x.toNat < 64 → a.getLsbD (63 - x.toNat) = true)
  | .ctz _ => x.toNat ≤ 64 ∧ (∀ j, j < x.toNat → a.getLsbD j = false) ∧ (x.toNat < 64 → a.getLsbD x.toNat = true)
  | .popc _ => x.toNat = ((List.range 64).filter (fun j => a.getLsbD j)).length
  | .brev _ => ∀ j, j < 64 → x.getLsbD (63 - j) = a.getLsbD j
  | .bswap _ => ∀ j, j < 8 → x.extractLsb' (8 * (7 - j)) 8 = a.extractLsb' (8 * j) 8
  | _ => False

/-- The instruction reads D before it writes it (R92). -/
def Sys2Proof.Claims.readsD : Instr → Bool
  | .madd _ => true
  | _ => false

/-- The value of a source that the instruction has; a field without one counts as 0. -/
def Sys2Proof.Claims.fieldOf (s : State) (o : Operand) : Option Word := if o = .none then some 0 else srcOf s o

/-- The instruction selects SAT (R92). -/
def Sys2Proof.Claims.saturates : Instr → Bool
  | .add f => f.m.getLsbD 10
  | .sub f => f.m.getLsbD 10
  | .mul f => f.m.getLsbD 10
  | .abs f => f.m.getLsbD 10
  | .neg f => f.m.getLsbD 10
  | .madd f => f.m.getLsbD 10
  | _ => false

/-- The integer instructions of 05 R93 on present sources. ADD, SUB, MUL, ABS, NEG and MADD write the exact signed result
mod 2^64, or under SAT the nearer limit of the signed range, with SAT raised where it lies outside; the others write the
value of the table and raise no flag. Only the hart's registers change. -/
def Obligations.IntegerResults : Prop :=
  (∀ (i : Instr) (s : State) (op : Nat) (f : TFields) (a b d : Word) (x : Int), fieldsOf i = some (op, f) → ready i s = true →
    Claims.fieldOf s f.a = some a → Claims.fieldOf s f.b = some b → (Claims.readsD i = true → srcOf s f.d = some d) →
    Claims.exactOf a b d i = some x →
    let out : Bool := Claims.saturates i && !(-2 ^ 63 ≤ x && x < 2 ^ 63)
    let y : Word := if out then (if x < 0 then BitVec.ofInt 64 (-2 ^ 63) else BitVec.ofInt 64 (2 ^ 63 - 1)) else BitVec.ofInt 64 x
    let fl : Flags := if out then fSAT else 0
    canWrite s fl f.d y = true → ∃ t, exec i s = .next t ∧ Wrote s t fl f.d y)
  ∧ (∀ (i : Instr) (s : State) (op : Nat) (f : TFields) (a b y : Word), fieldsOf i = some (op, f) → ready i s = true →
    Claims.fieldOf s f.a = some a → Claims.fieldOf s f.b = some b →
    (Claims.plainOf a b i = some y ∨ Claims.countsOf a y i) → canWrite s 0 f.d y = true →
    ∃ t, exec i s = .next t ∧ Wrote s t 0 f.d y)

/-- The division instructions on present sources (05 R94). -/
def Obligations.DivisionResults : Prop :=
  ∀ (i : Instr) (s : State) (f : TFields) (a b : Word), ready i s = true → srcOf s f.a = some a → srcOf s f.b = some b →
    ∀ y : Word,
    ((i = .div f ∧ (if b = 0 then y.toInt = -1
        else if a.toInt = -2 ^ 63 ∧ b.toInt = -1 then y.toInt = -2 ^ 63 else y.toInt = a.toInt.tdiv b.toInt))
      ∨ (i = .divu f ∧ (if b = 0 then y.toNat = 2 ^ 64 - 1 else y.toNat = a.toNat / b.toNat))
      ∨ (i = .rem f ∧ (if b = 0 then y = a
        else if a.toInt = -2 ^ 63 ∧ b.toInt = -1 then y = 0 else y.toInt = a.toInt - b.toInt * a.toInt.tdiv b.toInt))
      ∨ (i = .remu f ∧ (if b = 0 then y = a else y.toNat = a.toNat % b.toNat))) →
    canWrite s 0 f.d y = true → ∃ t, exec i s = .next t ∧ Wrote s t 0 f.d y

/-- LEA forms an address without translating it; BFX extracts a field, signed or not; BFI inserts one into D (05 R98). -/
def Obligations.AddressAndFieldResults : Prop :=
  (∀ (s : State) (f : TFields) (a b : Word), ready (.lea f) s = true → srcOf s f.a = some a → srcOf s f.b = some b →
    let y : Word := BitVec.ofNat 64 (a.toNat + b.toNat * 2 ^ mField f.m 3 0)
    canWrite s 0 f.d y = true → ∃ t, exec (.lea f) s = .next t ∧ Wrote s t 0 f.d y)
  ∧ (∀ (s : State) (f : TFields) (a : Word), ready (.bfx f) s = true → srcOf s f.a = some a →
    let x := a.toNat / 2 ^ mField f.m 11 6 % 2 ^ (mField f.m 5 0 + 1)
    let y : Word := if f.m.getLsbD 12 = true ∧ 2 ^ mField f.m 5 0 ≤ x then BitVec.ofInt 64 (x - 2 ^ (mField f.m 5 0 + 1)) else BitVec.ofNat 64 x
    canWrite s 0 f.d y = true → ∃ t, exec (.bfx f) s = .next t ∧ Wrote s t 0 f.d y)
  ∧ (∀ (s : State) (f : TFields) (a d : Word), ready (.bfi f) s = true → srcOf s f.a = some a → srcOf s f.d = some d →
    let m : Word := BitVec.ofNat 64 ((2 ^ (mField f.m 5 0 + 1) - 1) * 2 ^ mField f.m 11 6)
    let y : Word := (d &&& ~~~m) ||| (BitVec.ofNat 64 (a.toNat * 2 ^ mField f.m 11 6) &&& m)
    canWrite s 0 f.d y = true → ∃ t, exec (.bfi f) s = .next t ∧ Wrote s t 0 f.d y)

/-- MOV copies A to D, a special register included, and a reserved value written to one traps with the register
unchanged; SEL picks by a predicate bit; LI and LIH build a constant (05 R96). -/
def Sys2Proof.Claims.MoveResults : Prop :=
  (∀ (s : State) (f : TFields) (a : Word), ready (.mov f) s = true → srcOf s f.a = some a → canWrite s 0 f.d a = true →
    ∃ t, exec (.mov f) s = .next t ∧ Wrote s t 0 f.d a)
  ∧ (∀ (s : State) (f : TFields) (a : Word) (n : BitVec 10), ready (.mov f) s = true → srcOf s f.a = some a → f.d = .x n →
    (entered s).setSpecial s.hart n.toNat a = none → (n = 1 → (s.ctxOf s.hart).anyLateV = false) →
    exec (.mov f) s = .next (s.takeTrap s.hart 0x02 a.toNat .plain true [f.d]))
  ∧ (∀ (s : State) (f : TFields) (a b : Word), ready (.sel f) s = true → srcOf s f.a = some a → srcOf s f.b = some b →
    let y := if (((s.ctxOf s.hart).getP (mField f.m 3 0)).getLsbD 0 != f.m.getLsbD 4) = true then a else b
    canWrite s 0 f.d y = true → ∃ t, exec (.sel f) s = .next t ∧ Wrote s t 0 f.d y)
  ∧ (∀ (s : State) (f : LFields), ready (.li f) s = true → canWrite s 0 f.d (f.imm.signExtend 64) = true →
    ∃ t, exec (.li f) s = .next t ∧ Wrote s t 0 f.d (f.imm.signExtend 64))
  ∧ (∀ (s : State) (f : LFields) (d : Word), ready (.lih f) s = true → srcOf s f.d = some d →
    let y : Word := (f.imm.extractLsb' 0 24 ++ d.extractLsb' 0 40)
    canWrite s 0 f.d y = true → ∃ t, exec (.lih f) s = .next t ∧ Wrote s t 0 f.d y)

/-- CMP, CMPU and TEST set bits Lanes()-1:0 of the predicate to the outcome and clear the bits above (05 R97). -/
def Sys2Proof.Claims.CompareResults : Prop :=
  (∀ (i : Instr) (s : State) (f : TFields) (p : BitVec 4) (a b : Word) (r : Bool), ready i s = true → f.d = .p p →
    srcOf s f.a = some a → srcOf s f.b = some b →
    ((i = .cmp f ∧ r = ((mField f.m 3 0 = 0 ∧ a = b) ∨ (mField f.m 3 0 = 1 ∧ a ≠ b) ∨ (mField f.m 3 0 = 2 ∧ a.toInt < b.toInt)
        ∨ (mField f.m 3 0 = 3 ∧ a.toInt ≤ b.toInt) ∨ (mField f.m 3 0 = 4 ∧ b.toInt < a.toInt) ∨ (mField f.m 3 0 = 5 ∧ b.toInt ≤ a.toInt))
        ∧ mField f.m 3 0 ≤ 5)
      ∨ (i = .cmpu f ∧ r = ((mField f.m 3 0 = 0 ∧ a = b) ∨ (mField f.m 3 0 = 1 ∧ a ≠ b) ∨ (mField f.m 3 0 = 2 ∧ a.toNat < b.toNat)
        ∨ (mField f.m 3 0 = 3 ∧ a.toNat ≤ b.toNat) ∨ (mField f.m 3 0 = 4 ∧ b.toNat < a.toNat) ∨ (mField f.m 3 0 = 5 ∧ b.toNat ≤ a.toNat))
        ∧ mField f.m 3 0 ≤ 5)
      ∨ (i = .test f ∧ r = ((mField f.m 3 0 = 0 ∧ a &&& b = 0) ∨ (mField f.m 3 0 = 1 ∧ a &&& b ≠ 0)) ∧ mField f.m 3 0 ≤ 1)) →
    ∃ t, exec i s = .next t ∧ HartOnly s t (setP (base s) p.toNat (if r then onesBelow (lanes (base s)) else 0)) 0)

/-- A 128-bit number from its two words (R95). -/
def Sys2Proof.Claims.wide (p : Word × Word) : BitVec 128 := p.2 ++ p.1

/-- The 128-bit value of a source: a pair, or an immediate sign-extended (R95). -/
def Sys2Proof.Claims.wideOf (s : State) (o : Operand) : Option (BitVec 128) :=
  match o with
  | .imm v => some (v.signExtend 128)
  | o => (pairOf s o).map Claims.wide

/-- The wide forms work on pairs: ADD.W and SUB.W wrap mod 2^128 or clamp under SAT, MUL.W gives the full product. Both
sources are read before the pair is written (05 R95). -/
def Obligations.WideResults : Prop :=
  ∀ (s : State) (f : TFields) (e : BitVec 5), f.d = .w e →
    let put (fl : Flags) (y : BitVec 128) : Ctx :=
      setS (setS (addFlags (base s) fl) (2 * e.toNat) (y.extractLsb' 0 64)) (2 * e.toNat + 1) (y.extractLsb' 64 64)
    (∀ (i : Instr) (a b : BitVec 128) (x : Int), ready i s = true → Claims.wideOf s f.a = some a → Claims.wideOf s f.b = some b →
      ((i = .addW f ∧ x = a.toInt + b.toInt) ∨ (i = .subW f ∧ x = a.toInt - b.toInt)) →
      let out : Bool := f.m.getLsbD 10 && !(-2 ^ 127 ≤ x && x < 2 ^ 127)
      let y : BitVec 128 := if out then (if x < 0 then BitVec.ofInt 128 (-2 ^ 127) else BitVec.ofInt 128 (2 ^ 127 - 1)) else BitVec.ofInt 128 x
      let fl : Flags := if out then fSAT else 0
      ∃ t, exec i s = .next t ∧ HartOnly s t (put fl y) fl)
    ∧ (∀ a b : Word, ready (.mulW f) s = true → srcOf s f.a = some a → srcOf s f.b = some b →
      ∃ t, exec (.mulW f) s = .next t ∧ HartOnly s t
        (put 0 (if f.m.getLsbD 0 then a.zeroExtend 128 * b.zeroExtend 128 else a.signExtend 128 * b.signExtend 128)) 0)

/-- Moves and integer comparisons. -/
def Obligations.MovesAndCompares : Prop := Claims.MoveResults ∧ Claims.CompareResults

/-! ### Control and predicates (04 R69, R78; 05 R99 to R103) -/

/-- A well-formed PC names a slot of 0 to 4 in a block below 2^48 (04 R69). -/
def Sys2Proof.Claims.wellFormedPc (x : Word) : Prop := x.toNat < 2 ^ 48 ∧ x.toNat % 64 < 5

/-- The instruction after one at slot 0 to 3 is in the next slot, after slot 4 in slot 0 of the next block, and a branch of
n instructions leads to the n-th instruction after its own, blocks taken mod 2^42 (04 R69). -/
def Obligations.PcArithmetic : Prop :=
  ∀ (k j : Nat) (off : Int), k < 2 ^ 42 → j < 5 →
    (j < 4 → nextPc (64 * k + j) = 64 * k + j + 1)
    ∧ (j = 4 → nextPc (64 * k + j) = 64 * ((k + 1) % 2 ^ 42))
    ∧ ∀ (k' j' : Nat), k' < 2 ^ 42 → j' < 5 → ((5 * k + j : Nat) : Int) + off ≡ (5 * k' + j' : Nat) [ZMOD 5 * 2 ^ 42] →
      branchTarget (64 * k + j) off = 64 * k' + j'

/-- Registers with the pc at a target. -/
def Sys2Proof.Claims.goto (c : Ctx) (t : Word) : Ctx := { c with pc := t }

/-- The target of an offset that the instruction carries (05 R100). -/
def Sys2Proof.Claims.target (s : State) (imm : BitVec 40) : Word := BitVec.ofNat 64 (branchTarget (s.ctxOf s.hart).pc.toNat imm.toInt)

/-- The PC of the next instruction. -/
def Sys2Proof.Claims.link (s : State) : Word := BitVec.ofNat 64 (nextPc (s.ctxOf s.hart).pc.toNat)

/-- Control transfers: where the pc goes, the link register and the counter that they write, and nothing else. A register
target or base that is malformed raises MISALIGNED with the target, and nothing else changes (05 R100). -/
def Obligations.ControlTransfers : Prop :=
  (∀ (s : State) (f : LFields), ready (.br f) s = true →
    ∃ t, exec (.br f) s = .next t ∧ HartOnly s t (Claims.goto (base s) (Claims.target s f.imm)) 0)
  ∧ (∀ (s : State) (f : LFields) (a : Word), ready (.jmp f) s = true → srcOf s f.d = some a →
    (Claims.wellFormedPc a → ∃ t, exec (.jmp f) s = .next t
        ∧ HartOnly s t (Claims.goto (base s) (BitVec.ofNat 64 (branchTarget a.toNat f.imm.toInt))) 0)
    ∧ (¬ Claims.wellFormedPc a → exec (.jmp f) s = .next (s.takeTrap s.hart 0x08 a.toNat .plain false [])))
  ∧ (∀ (s : State) (f : LFields) (n : BitVec 6), ready (.call f) s = true → f.d = .s n →
    ∃ t, exec (.call f) s = .next t
      ∧ HartOnly s t (Claims.goto (setS (base s) n.toNat (Claims.link s)) (Claims.target s f.imm)) 0)
  ∧ (∀ (s : State) (f : TFields) (n : BitVec 6) (a : Word), ready (.callr f) s = true → f.d = .s n → srcOf s f.a = some a →
    (Claims.wellFormedPc a → ∃ t, exec (.callr f) s = .next t
        ∧ HartOnly s t (Claims.goto (setS (base s) n.toNat (Claims.link s)) a) 0)
    ∧ (¬ Claims.wellFormedPc a → exec (.callr f) s = .next (s.takeTrap s.hart 0x08 a.toNat .plain false [f.d])))
  ∧ (∀ (s : State) (f : TFields) (a : Word), ready (.ret f) s = true → srcOf s f.a = some a →
    (Claims.wellFormedPc a → ∃ t, exec (.ret f) s = .next t ∧ HartOnly s t (Claims.goto (base s) a) 0)
    ∧ (¬ Claims.wellFormedPc a → exec (.ret f) s = .next (s.takeTrap s.hart 0x08 a.toNat .plain false [f.d])))
  ∧ (∀ (s : State) (f : LFields) (n : BitVec 6) (d : Word), ready (.loop f) s = true → f.d = .s n → srcOf s f.d = some d →
    ∃ t, exec (.loop f) s = .next t
      ∧ HartOnly s t (Claims.goto (setS (base s) n.toNat (d - 1)) (if d - 1 = 0 then Claims.link s else Claims.target s f.imm)) 0)
  ∧ (∀ (s : State) (f : LFields) (d : Word) (r : Prop), ready (.brt f) s = true → srcOf s f.d = some d →
    (r ↔ (mField f.m 3 0 = 0 ∧ d.toInt = 0) ∨ (mField f.m 3 0 = 1 ∧ d.toInt ≠ 0) ∨ (mField f.m 3 0 = 2 ∧ d.toInt < 0)
      ∨ (mField f.m 3 0 = 3 ∧ d.toInt ≤ 0) ∨ (mField f.m 3 0 = 4 ∧ 0 < d.toInt) ∨ (mField f.m 3 0 = 5 ∧ 0 ≤ d.toInt)) →
    mField f.m 3 0 ≤ 5 → ∃ t, exec (.brt f) s = .next t
      ∧ (r → HartOnly s t (Claims.goto (base s) (Claims.target s f.imm)) 0) ∧ (¬ r → HartOnly s t (base s) 0))

/-- An instruction whose guard is false advances the pc and has no other effect, whatever it is (04 R78). -/
def Obligations.FalseGuard : Prop :=
  ∀ (i : Instr) (s : State) (op : Nat) (f : TFields), fieldsOf i = some (op, f) → validHart s.hart = true →
    s.hartChecks s.hart op f = none → guardTrue f.g (s.ctxOf s.hart) = false →
    exec i s = .next (entered s) ∧ HartOnly s (entered s) (base s) 0

/-- No trace session is open (20 R369). -/
def Sys2Proof.Claims.untraced (s : State) : Prop := ∀ n < 16, (s.sessWord n 2).testBit 0 = false

/-- The registers after a trap has entered the handler at %tvec: %cause, %epc and %eval are written, and %tvec reads 0. -/
def Sys2Proof.Claims.inHandler (c : Ctx) (cause val : Nat) : Ctx :=
  { c with cause := BitVec.ofNat 8 cause, epc := c.pc, eval := BitVec.ofNat 64 val, pc := c.tvec, tvec := 0, run := .ready }

/-- A thread has a handler: its %tvec is not 0, and it is a well-formed PC (04 R70, 09 R210). -/
def Sys2Proof.Claims.hasHandler (c : Ctx) : Prop := c.tvec ≠ 0 ∧ Claims.wellFormedPc c.tvec

/-- From s to t the registers of a thread became x, its trap was counted, it took its age stamp if it left a wait
(09 R207), and nothing else changed. -/
def Sys2Proof.Claims.TrapOnly (s t : State) (c k : Nat) (x : Ctx) : Prop :=
  t.ctxOf (.core c k) = x ∧ (∀ g, validHart g = true → g ≠ .core c k → t.ctxOf g = s.ctxOf g) ∧ { t with threads := s.threads } = s
  ∧ (t.thread c k).waiting = none ∧ (t.thread c k).stall = false
  ∧ (t.thread c k).stamp = (if (s.thread c k).ctx.run.waits then s.now c else (s.thread c k).stamp)
  ∧ ∀ j, { t.threads.get Thread.zero j with
      ctx := (s.threads.get Thread.zero j).ctx, waiting := (s.threads.get Thread.zero j).waiting,
      stall := (s.threads.get Thread.zero j).stall, ctr := (s.threads.get Thread.zero j).ctr,
      stamp := (s.threads.get Thread.zero j).stamp } = s.threads.get Thread.zero j

/-- From s to t the hart that moves began a wait at its own instruction: its run state, wait object and wait count are
written, its pc and its other registers are as before, it has recorded the instruction, and nothing else changed (07 R164). -/
def Sys2Proof.Claims.Waiting (s t : State) (op : Nat) (f : TFields) (run : RunState) (obj cnt : Nat) : Prop :=
  HartOnly s t { s.ctxOf s.hart with run := run, waitObj := BitVec.ofNat 64 obj, waitCnt := BitVec.ofNat 64 cnt } 0
  ∧ ∀ c k, s.hart = .core c k → (t.thread c k).waiting = some (op, f) ∧ (t.thread c k).stall = false
      ∧ (t.thread c k).stamp = (s.thread c k).stamp

/-- NOP has no effect. YIELD makes the thread the youngest of its core: its age stamp is the current ACLK count, and nothing
else changes. BKPT raises BREAKPOINT with VAL of field B: on a core that is armed for it the core halts with cause 2, past
the instruction; else a thread with a handler enters it, and without one the trap is contained as `takeTrap` says (09 R210,
20 R366). WAITT ends at once, with no effect, when package time has reached its deadline, and else records the deadline and
waits for it; one that waits already keeps the deadline that it has recorded. A deadline past the last package time is the
last one, which is the model's choice (log entry 14) (05 R101, R102). -/
def Obligations.ThreadControl : Prop :=
  (∀ (s : State) (f : TFields), ready (.nop f) s = true →
    ∃ t, exec (.nop f) s = .next t ∧ HartOnly s t (base s) 0)
  ∧ (∀ (s : State) (f : TFields) (c n : Nat), ready (.yield f) s = true → s.hart = .core c n →
    ∃ t, exec (.yield f) s = .next t
      ∧ (t.thread c n).stamp = s.aclk.get 0 (dieOfCore c)
      ∧ HartOnly s (t.setThread c n { t.thread c n with stamp := (s.thread c n).stamp }) (base s) 0)
  ∧ (∀ (s : State) (f : TFields) (c k : Nat), readyCore (.bkpt f) s = true → s.hart = .core c k →
    let b := operandVal f.b
    (s.armed c = true → (s.core c).halted = false → ∃ t, exec (.bkpt f) s = .next t ∧ (t.core c).halted = true ∧ (t.core c).haltCause = 2
        ∧ t.ctxOf s.hart = { base s with cause := 0x31, epc := (s.ctxOf s.hart).pc, eval := BitVec.ofNat 64 b, halted := true })
    ∧ (s.armed c = false → Claims.untraced s → Claims.hasHandler (s.ctxOf s.hart) →
        ∃ t, exec (.bkpt f) s = .next t ∧ Claims.TrapOnly s t c k (Claims.inHandler (s.ctxOf s.hart) 0x31 b)))
  ∧ (∀ (s : State) (f : TFields), ready (.bkpt f) s = true →
    exec (.bkpt f) s = .next (s.takeTrap s.hart 0x31 (operandVal f.b) .bkpt true [f.d]))
  ∧ (∀ (s : State) (f : TFields) (a : Word), ready (.waitt f) s = true → srcOf s f.a = some a →
    let deadline : Nat := if s.resumes s.hart 0x04B f then (s.ctxOf s.hart).waitObj.toNat
      else if f.m.getLsbD 0 then Min.min (s.time % 2 ^ 64 + a.toNat) (2 ^ 64 - 1) else a.toNat
    (deadline ≤ s.time % 2 ^ 64 → ∃ t, exec (.waitt f) s = .next t ∧ HartOnly s t (base s) 0)
    ∧ (s.time % 2 ^ 64 < deadline → ∃ t, exec (.waitt f) s = .next t ∧ Claims.Waiting s t 0x04B f .waitTime deadline 0))

/-- The lanes of a predicate result, the bits above cleared (02 R25). -/
def Sys2Proof.Claims.lanesOf (s : State) (g : Nat → Bool) (x : Pred) : Prop :=
  ∀ j, j < 256 → x.getLsbD j = (decide (j < lanes (s.ctxOf s.hart)) && g j)

/-- The predicate instructions work on lanes 0 to Lanes()-1 and clear the bits above (05 R103). -/
def Obligations.PredicateResults : Prop :=
  (∀ (i : Instr) (s : State) (f : TFields) (n : BitVec 4) (a b x : Pred), ready i s = true → f.d = .p n →
    predOf s f.a = some a →
    ((predOf s f.b = some b ∧ ((i = .pand f ∧ Claims.lanesOf s (fun j => a.getLsbD j && b.getLsbD j) x)
        ∨ (i = .por f ∧ Claims.lanesOf s (fun j => a.getLsbD j || b.getLsbD j) x)
        ∨ (i = .pxor f ∧ Claims.lanesOf s (fun j => a.getLsbD j != b.getLsbD j) x)))
      ∨ (i = .pnot f ∧ Claims.lanesOf s (fun j => !a.getLsbD j) x)
      ∨ (i = .pmov f ∧ Claims.lanesOf s (fun j => a.getLsbD j) x)) →
    ∃ t, exec i s = .next t ∧ HartOnly s t (setP (base s) n.toNat x) 0)
  ∧ (∀ (s : State) (f : TFields) (n : BitVec 4) (a : Word) (x : Pred), ready (.pset f) s = true → f.d = .p n →
    srcOf s f.a = some a → Claims.lanesOf s (fun j => decide (j < a.toNat)) x →
    ∃ t, exec (.pset f) s = .next t ∧ HartOnly s t (setP (base s) n.toNat x) 0)
  ∧ (∀ (i : Instr) (s : State) (f : TFields) (n : BitVec 6) (a : Pred) (y : Nat), ready i s = true → f.d = .s n →
    predOf s f.a = some a →
    let live := (List.range (lanes (s.ctxOf s.hart))).filter (fun j => a.getLsbD j)
    ((i = .pany f ∧ y = if live = [] then 0 else 1)
      ∨ (i = .pall f ∧ y = if live.length = lanes (s.ctxOf s.hart) then 1 else 0)
      ∨ (i = .pcnt f ∧ y = live.length)
      ∨ (i = .pfirst f ∧ y = live.headD (lanes (s.ctxOf s.hart)))) →
    ∃ t, exec i s = .next t ∧ HartOnly s t (setS (base s) n.toNat (BitVec.ofNat 64 y)) 0)

/-! ### Floating point (03 R40 to R47; 05 R104 to R112) -/

/-- The rational number of a finite value. -/
def Sys2Proof.Claims.ratOf (neg : Bool) (num den : Nat) : ℚ := (if neg then -1 else 1) * (num : ℚ) / den

/-- Rounding to an integer: an exact value is kept, an inexact one becomes the neighbour that the mode names; under SR the
draw d picks the neighbour of larger magnitude where it lies below the fraction in units of 2^-32 (03 R44, R45). -/
def Sys2Proof.Claims.RoundingModes : Prop :=
  ∀ (m : Mode) (neg : Bool) (num den : Nat) (r : Int) (ix : Bool), 0 < num → 0 < den → roundInt m neg num den = (r, ix) →
    let v := Claims.ratOf neg num den
    (∀ z : Int, v = z → r = z) ∧ (ix = true ↔ ¬ ∃ z : Int, v = z) ∧ |v - r| < 1
    ∧ match m with
      | .rne => |v - r| ≤ 1 / 2 ∧ (|v - r| = 1 / 2 → 2 ∣ r)
      | .rtz => |(r : ℚ)| ≤ |v|
      | .rdn => (r : ℚ) ≤ v
      | .rup => v ≤ (r : ℚ)
      | .rna => |v - r| ≤ 1 / 2 ∧ (|v - r| = 1 / 2 → |v| < |(r : ℚ)|)
      | .sr d => |v| < |(r : ℚ)| ↔ (d : Int) < ⌊(|v| - ⌊|v|⌋) * 2 ^ 32⌋

/-- Under RNE a finite result is a nearest member of the format (03 R44). -/
def Sys2Proof.Claims.NearestResult : Prop :=
  ∀ (f : FFmt) (neg : Bool) (num den : Nat), f ∈ [fp32, fp16, bf16, e5m2, e4m3] → 0 < num → 0 < den →
    ∀ (sn : Bool) (n d : Nat), decodeF f (encodeF f .rne (.fin neg num den)).bits = .fin sn n d →
    ∀ (y : Nat) (sm : Bool) (m c : Nat), y < 2 ^ f.width → decodeF f y = .fin sm m c →
      |Claims.ratOf neg num den - Claims.ratOf sn n d| ≤ |Claims.ratOf neg num den - Claims.ratOf sm m c|

/-- The mode of one result and the seed after it: RND overrides %rm; under SR a rounded result draws once (03 R44, R45). -/
def Sys2Proof.Claims.modeOf (c : Ctx) (rnd : Nat) (draws : Bool) : Mode × BitVec 32 :=
  let code := if rnd = 0 then c.rm.toNat else rnd - 1
  if code = 0 then (.rne, c.srseed) else if code = 1 then (.rtz, c.srseed) else if code = 2 then (.rdn, c.srseed)
  else if code = 3 then (.rup, c.srseed) else if code = 4 then (.rna, c.srseed)
  else if draws then
    let x1 := c.srseed ^^^ (c.srseed <<< 13)
    let x2 := x1 ^^^ (x1 >>> 17)
    let x3 := x2 ^^^ (x2 <<< 5)
    (.sr x3.toNat, x3)
  else (.rne, c.srseed)

/-- From s to t the instruction wrote a rounded result to scalar D, raised its flags and took its draw, and did nothing
else. -/
def Sys2Proof.Claims.Rounded (s t : State) (f : TFields) (n : BitVec 6) (draws : Bool) (k : Mode → Rd) : Prop :=
  let m := Claims.modeOf (s.ctxOf s.hart) (mField f.m 13 11) draws
  HartOnly s t (setS (addFlags { base s with srseed := m.2 } (k m.1).fl) n.toNat (BitVec.ofNat 64 (k m.1).bits)) (k m.1).fl

/-- A result that is a number is rounded, so it takes the draw of SR. -/
def Sys2Proof.Claims.numeric (k : Mode → Rd) : Bool := isFin (decodeF fp32 (k .rtz).bits)

/-- The exact result of an arithmetic form, rounded once in a mode (R105). -/
def Sys2Proof.Claims.arithOf (a b d : FV) : Instr → Option (Mode → Rd)
  | .fadd _ => some (fun m => addF fp32 m a b)
  | .fsub _ => some (fun m => addF fp32 m a (negV b))
  | .fmul _ => some (fun m => mulF fp32 m a b)
  | .fdiv _ => some (fun m => divF fp32 m a b)
  | .fsqrt _ => some (fun m => sqrtF fp32 m a)
  | .fma _ => some (fun m => fmaF fp32 m a b d)
  | .fms _ => some (fun m => fmaF fp32 m a b (negV d))
  | .fnma _ => some (fun m => fmaF fp32 m (negV a) b d)
  | .fabd _ => some (fun m => finish fp32 m [a, b] ((addV false a (negV b)).map absV))
  | _ => none

/-- The FP32 bits of a source that the instruction has; a field without one counts as 0. -/
def Sys2Proof.Claims.fpFieldOf (s : State) (o : Operand) : Option Nat := if o = .none then some 0 else fpOf s o

/-- The arithmetic forms on present sources round their exact result once, raise its flags and draw once under SR
(05 R105). -/
def Obligations.FloatArithmetic : Prop :=
  ∀ (i : Instr) (s : State) (op : Nat) (f : TFields) (n : BitVec 6) (a b d : Nat) (k : Mode → Rd), fieldsOf i = some (op, f) →
    ready i s = true → f.d = .s n → Claims.fpFieldOf s f.a = some a → Claims.fpFieldOf s f.b = some b →
    (op = 0x065 ∨ op = 0x066 ∨ op = 0x067 → fpOf s f.d = some d) →
    Claims.arithOf (decodeF fp32 a) (decodeF fp32 b) (decodeF fp32 d) i = some k →
    ∃ t, exec i s = .next t ∧ Claims.Rounded s t f n (Claims.numeric k) k

/-- From s to t the instruction wrote x to scalar D and raised flags, and did nothing else. -/
def Sys2Proof.Claims.Gave (s t : State) (n : BitVec 6) (x : Word) (fl : Flags) : Prop := HartOnly s t (setS (addFlags (base s) fl) n.toNat x) fl

/-- The value of an FP32 element orders before another: -0 below +0, no order with a NaN (R105). -/
def Sys2Proof.Claims.below (a b : FV) : Prop := cmpV a b = some .lt ∨ (cmpV a b = some .eq ∧ signOf a = true ∧ signOf b = false)

/-- FMIN and FMAX: the lesser or greater number, -0 below +0; a NaN yields to a number, two give the canonical NaN, and a
signalling one raises NV. FABS, FNEG and FSGN act on bit 31 alone (05 R105). -/
def Sys2Proof.Claims.FloatSelectAndSign : Prop :=
  (∀ (i : Instr) (s : State) (f : TFields) (n : BitVec 6) (a b y : Nat), ready i s = true → f.d = .s n →
    fpOf s f.a = some a → fpOf s f.b = some b → (i = .fmin f ∨ i = .fmax f) →
    let x := decodeF fp32 a
    let z := decodeF fp32 b
    (isNaN x = true ∧ isNaN z = true ∧ y = fp32.canon ∨ isNaN x = true ∧ isNaN z = false ∧ y = b
      ∨ isNaN x = false ∧ isNaN z = true ∧ y = a
      ∨ isNaN x = false ∧ isNaN z = false ∧ i = .fmin f ∧ (Claims.below x z ∧ y = a ∨ Claims.below z x ∧ y = b ∨ a = b ∧ y = a)
      ∨ isNaN x = false ∧ isNaN z = false ∧ i = .fmax f ∧ (Claims.below x z ∧ y = b ∨ Claims.below z x ∧ y = a ∨ a = b ∧ y = a)) →
    ∃ t, exec i s = .next t
      ∧ Claims.Gave s t n (BitVec.ofNat 64 y) (if x = .nan true ∨ z = .nan true then fNV else 0))
  ∧ (∀ (i : Instr) (s : State) (f : TFields) (n : BitVec 6) (a b : Nat) (y : BitVec 32), ready i s = true → f.d = .s n →
    fpOf s f.a = some a → (i = .fsgn f → fpOf s f.b = some b) →
    let x := BitVec.ofNat 32 a
    (i = .fabs f ∧ y = x &&& 0x7FFFFFFF ∨ i = .fneg f ∧ y = x ^^^ 0x80000000
      ∨ i = .fsgn f ∧ y = (x &&& 0x7FFFFFFF) ||| (BitVec.ofNat 32 b &&& 0x80000000)) →
    ∃ t, exec i s = .next t ∧ Claims.Gave s t n (y.zeroExtend 64) 0)

/-- The outcome of FCMP for an order of the operands, or none for unordered ones (R106). -/
def Sys2Proof.Claims.condOf (cond : Nat) : Option Ordering → Bool
  | some o => match cond with
    | 0 => o == .eq | 1 => o != .eq | 2 => o == .lt | 3 => o != .gt | 4 => o == .gt | 5 => o != .lt | 6 => false | _ => true
  | none => cond == 1 || cond == 6

/-- FCMP compares as the table says, -0 equal to +0, with NV for an ordering comparison of a quiet NaN and for every
signalling NaN; FCLASS writes the one bit of the operand's class (05 R106). -/
def Sys2Proof.Claims.FloatCompareAndClass : Prop :=
  (∀ (s : State) (f : TFields) (p : BitVec 4) (a b : Nat), ready (.fcmp f) s = true → f.d = .p p →
    fpOf s f.a = some a → fpOf s f.b = some b → mField f.m 3 0 ≤ 7 →
    let x := decodeF fp32 a
    let z := decodeF fp32 b
    let fl : Flags := if x = .nan true ∨ z = .nan true ∨ (cmpV x z = none ∧ mField f.m 3 0 ∈ [2, 3, 4, 5]) then fNV else 0
    ∃ t, exec (.fcmp f) s = .next t ∧ HartOnly s t (setP (addFlags (base s) fl) p.toNat
      (if Claims.condOf (mField f.m 3 0) (cmpV x z) then onesBelow (lanes (base s)) else 0)) fl)
  ∧ (∀ (s : State) (f : TFields) (n : BitVec 6) (a j : Nat), ready (.fclass f) s = true → f.d = .s n → fpOf s f.a = some a →
    let sign := a / 2 ^ 31 % 2
    let ex := a / 2 ^ 23 % 2 ^ 8
    let man := a % 2 ^ 23
    (j = 0 ∧ sign = 1 ∧ ex = 255 ∧ man = 0 ∨ j = 1 ∧ sign = 1 ∧ 0 < ex ∧ ex < 255 ∨ j = 2 ∧ sign = 1 ∧ ex = 0 ∧ 0 < man
      ∨ j = 3 ∧ sign = 1 ∧ ex = 0 ∧ man = 0 ∨ j = 4 ∧ sign = 0 ∧ ex = 0 ∧ man = 0 ∨ j = 5 ∧ sign = 0 ∧ ex = 0 ∧ 0 < man
      ∨ j = 6 ∧ sign = 0 ∧ 0 < ex ∧ ex < 255 ∨ j = 7 ∧ sign = 0 ∧ ex = 255 ∧ man = 0
      ∨ j = 8 ∧ ex = 255 ∧ 0 < man ∧ man < 2 ^ 22 ∨ j = 9 ∧ ex = 255 ∧ 2 ^ 22 ≤ man) →
    ∃ t, exec (.fclass f) s = .next t ∧ Claims.Gave s t n (BitVec.ofNat 64 (2 ^ j)) 0)

/-- The formats of FCVT by code (R108). -/
def Sys2Proof.Claims.fcvtFmt : Nat → FFmt
  | 0 => fp32
  | 1 => fp16
  | 2 => bf16
  | 3 => e4m3
  | _ => e5m2

/-- The conversions on present sources: to an integral FP32 value, to and from 64-bit integers, and between formats
(05 R107, R108). A draw is taken where the result is rounded: not for a zero of FRINT, nor where FCVT widens (log entry
58). -/
def Obligations.FloatConversions : Prop :=
  (∀ (i : Instr) (s : State) (f : TFields) (n : BitVec 6) (a : Nat) (draws : Bool) (k : Mode → Rd), ready i s = true →
    f.d = .s n → fpOf s f.a = some a →
    let x := decodeF fp32 a
    (i = .frint f ∧ draws = (isFin x && !isZero x) ∧ k = (fun m => match x with
        | .nan sig => ⟨fp32.canon, if sig then fNV else 0⟩
        | .inf neg => ⟨fp32.inf neg, 0⟩
        | .fin neg num den => ⟨(encodeF fp32 .rne (.fin neg (roundInt m neg num den).1.natAbs 1)).bits,
            if (roundInt m neg num den).2 then fNX else 0⟩)
      ∨ i = .f2i f ∧ draws = isFin x ∧ k = (fun m => toInt (-2 ^ 63) (2 ^ 63 - 1) 64 m x)
      ∨ i = .f2u f ∧ draws = isFin x ∧ k = (fun m => toInt 0 (2 ^ 64 - 1) 64 m x)
      ∨ i = .fcvt f ∧
        (let src := Claims.fcvtFmt (mField f.m 2 0)
         let dst := Claims.fcvtFmt (mField f.m 7 5)
         let v := decodeF src (a % 2 ^ src.width)
         draws = (isFin v && dst.width ≤ src.width) ∧ k = (fun m => encodeF dst m v))) →
    ∃ t, exec i s = .next t ∧ Claims.Rounded s t f n draws k)
  ∧ (∀ (i : Instr) (s : State) (f : TFields) (n : BitVec 6) (a : Word) (x : Int), ready i s = true → f.d = .s n →
    srcOf s f.a = some a → (i = .i2f f ∧ x = a.toInt ∨ i = .u2f f ∧ x = a.toNat) →
    ∃ t, exec i s = .next t ∧ Claims.Rounded s t f n true (fun m => encodeF fp32 m (.fin (x < 0) x.natAbs 1)))

/-- The approximated function of an instruction. -/
def Sys2Proof.Claims.approxOf : Instr → Option Approx
  | .fexp2 _ => some .exp2
  | .flog2 _ => some .log2
  | .frcp _ => some .rcp
  | .frsq _ => some .rsq
  | .ftanh _ => some .tanh
  | .fsigm _ => some .sigm
  | _ => none

/-- FP32 bit patterns of the special values of R109: 1, infinity and its negation, the canonical NaN. -/
def Sys2Proof.Claims.fpOne : Nat := 0x3F800000
def Sys2Proof.Claims.fpInf : Nat := 0x7F800000
def Sys2Proof.Claims.fpNegInf : Nat := 0xFF800000
def Sys2Proof.Claims.fpNegZero : Nat := 0x80000000

/-- The special values of the approximated functions: the result and the flags for an input (R109). -/
def Sys2Proof.Claims.approxSpecial : Approx → List (Nat × Nat × Flags)
  | .exp2 => [(Claims.fpNegInf, 0, 0), (Claims.fpInf, Claims.fpInf, 0), (0, Claims.fpOne, 0), (0x42FE0000, 0x7F000000, 0),
      (0xC3150000, 1, 0), (0x43000000, Claims.fpInf, fOF ||| fNX)]
  | .log2 => [(0, Claims.fpNegInf, fDZ), (Claims.fpNegZero, Claims.fpNegInf, fDZ), (0xBF800000, fp32.canon, fNV),
      (Claims.fpInf, Claims.fpInf, 0), (Claims.fpOne, 0, 0), (0x41000000, 0x40400000, 0)]
  | .rcp => [(0, Claims.fpInf, fDZ), (Claims.fpNegZero, Claims.fpNegInf, fDZ), (Claims.fpInf, 0, 0),
      (Claims.fpNegInf, Claims.fpNegZero, 0), (0x41000000, 0x3E000000, 0)]
  | .rsq => [(0, Claims.fpInf, fDZ), (Claims.fpNegZero, Claims.fpNegInf, fDZ), (0xBF800000, fp32.canon, fNV),
      (Claims.fpInf, 0, 0), (0x41800000, 0x3E800000, 0)]
  | .tanh => [(0, 0, 0), (Claims.fpNegZero, Claims.fpNegZero, 0), (Claims.fpInf, Claims.fpOne, 0),
      (Claims.fpNegInf, 0xBF800000, 0)]
  | .sigm => [(Claims.fpNegInf, 0, 0), (Claims.fpInf, Claims.fpOne, 0), (0, 0x3F000000, 0)]

/-- The approximated functions give one result for each input, whatever the mode and the seed: the special values of
the table, the canonical NaN for a NaN, and a finite input a result of the model's faithful rounding (05 R109; which
neighbour an inexact result takes is open, log entry 6). -/
def Obligations.ApproximatedFunctions : Prop :=
  (∀ (fn : Approx) (e : Nat × Nat × Flags), e ∈ Claims.approxSpecial fn → approxF fn e.1 = ⟨e.2.1, e.2.2⟩)
  ∧ (∀ (fn : Approx) (a : Nat) (sig : Bool), decodeF fp32 a = .nan sig → approxF fn a = ⟨fp32.canon, if sig then fNV else 0⟩)
  ∧ (∀ (i : Instr) (s : State) (op : Nat) (f : TFields) (n : BitVec 6) (a : Nat) (fn : Approx), fieldsOf i = some (op, f) →
    ready i s = true → f.d = .s n → fpOf s f.a = some a → Claims.approxOf i = some fn →
    ∃ t, exec i s = .next t ∧ Claims.Gave s t n (BitVec.ofNat 64 (approxF fn a).bits) (approxF fn a).fl)

/-- FSCALB applies the power exactly before the single rounding; FGETEXP gives the exponent (05 R110). SCENC gives the scale byte of a largest magnitude, SCDEC the scale of a byte (05 R111). -/
def Sys2Proof.Claims.ExponentsAndScales : Prop :=
  (∀ (s : State) (f : TFields) (n : BitVec 6) (a : Nat) (b : Word), ready (.fscalb f) s = true → f.d = .s n →
    fpOf s f.a = some a → srcOf s f.b = some b →
    let x := decodeF fp32 a
    -- a power of 2 beyond 400 either way gives the same result as 400
    let e := Max.max (-400) (Min.min 400 b.toInt)
    let v : FV := match x with
      | .fin neg num den => if 0 ≤ e then .fin neg (num * 2 ^ e.toNat) den else .fin neg num (den * 2 ^ (-e).toNat)
      | y => y
    ∃ t, exec (.fscalb f) s = .next t ∧ Claims.Rounded s t f n (isFin x && !isZero x) (fun m => encodeF fp32 m v))
  ∧ (∀ (s : State) (f : TFields) (n : BitVec 6) (a : Nat) (y : Int) (fl : Flags), ready (.fgetexp f) s = true → f.d = .s n →
    fpOf s f.a = some a →
    (match decodeF fp32 a with
      | .nan _ => y = 0 ∧ fl = fNV
      | .inf _ => y = 2 ^ 63 - 1 ∧ fl = 0
      | .fin _ num den => if num = 0 then y = -2 ^ 63 ∧ fl = fDZ
          else fl = 0 ∧ (2 : ℚ) ^ y ≤ (num : ℚ) / den ∧ (num : ℚ) / den < 2 ^ (y + 1)) →
    ∃ t, exec (.fgetexp f) s = .next t ∧ Claims.Gave s t n (BitVec.ofInt 64 y) fl)
  ∧ (∀ (s : State) (f : TFields) (n : BitVec 6) (a e : Nat) (fl : Flags), ready (.scenc f) s = true → f.d = .s n →
    fpOf s f.a = some a →
    let typ := mField f.m 1 0
    let q : ℚ := if typ = 0 then 7 else if typ = 1 then 6 else if typ = 2 then 64 else 12
    let fits (num den k : Nat) : Prop := (num : ℚ) / den ≤ q * 2 ^ ((k : Int) - 32)
    (match decodeF fp32 a with
      | .nan _ => e = 63 ∧ fl = fNV
      | .inf _ => e = 62 ∧ fl = 0
      | .fin _ num den => fl = 0 ∧ e ≤ 62 ∧ (∀ k, k < e → ¬ fits num den k) ∧ (fits num den e ∨ e = 62)) →
    ∃ t, exec (.scenc f) s = .next t ∧ Claims.Gave s t n (BitVec.ofNat 64 (typ * 64 + e)) fl)
  ∧ (∀ (s : State) (f : TFields) (n : BitVec 6) (a : Nat), ready (.scdec f) s = true → f.d = .s n → fpOf s f.a = some a →
    (a % 64 = 63 → ∃ t, exec (.scdec f) s = .next t ∧ Claims.Gave s t n (BitVec.ofNat 64 fp32.canon) fSAT)
    ∧ (a % 64 ≠ 63 → ∃ t, exec (.scdec f) s = .next t ∧ Claims.Gave s t n (BitVec.ofNat 64 ((a % 64 + 95) * 2 ^ 23)) 0))

/-- FQ8 quantises a quotient to INT8 and FDQ8 dequantises from it (05 R112). -/
def Sys2Proof.Claims.Int8Quantisation : Prop :=
  (∀ (s : State) (f : TFields) (n : BitVec 6) (a b : Nat), ready (.fq8 f) s = true → f.d = .s n →
    fpOf s f.a = some a → fpOf s f.b = some b →
    let x := decodeF fp32 a
    let z := decodeF fp32 b
    let invalid : Bool := isNaN x || isNaN z || isZero z || (!isFin x && !isFin z)
    (invalid = true → ∃ t, exec (.fq8 f) s = .next t ∧ Claims.Gave s t n 0 fNV)
    ∧ (invalid = false → ∃ t, exec (.fq8 f) s = .next t ∧
      match x, z with
      | .fin sa na da, .fin sb nb db =>
        let m := Claims.modeOf (s.ctxOf s.hart) (mField f.m 13 11) true
        let q := roundInt m.1 (sa != sb) (na * db) (da * nb)
        let out : Int × Flags := if 127 < q.1 then (127, fSAT) else if q.1 < -128 then (-128, fSAT) else (q.1, if q.2 then fNX else 0)
        HartOnly s t (setS (addFlags { base s with srseed := m.2 } out.2) n.toNat (BitVec.ofInt 64 out.1)) out.2
      | .inf sa, .fin sb _ _ => Claims.Gave s t n (BitVec.ofInt 64 (if sa != sb then -128 else 127)) fSAT
      | .fin _ _ _, .inf _ => HartOnly s t (setS { base s with
          srseed := (Claims.modeOf (s.ctxOf s.hart) (mField f.m 13 11) true).2 } n.toNat 0) 0
      | _, _ => True))
  ∧ (∀ (s : State) (f : TFields) (n : BitVec 6) (a b : Nat), ready (.fdq8 f) s = true → f.d = .s n →
    fpOf s f.a = some a → fpOf s f.b = some b →
    let x : Int := (BitVec.ofNat 8 a).toInt
    let k := fun m => mulF fp32 m (.fin (x < 0) x.natAbs 1) (decodeF fp32 b)
    ∃ t, exec (.fdq8 f) s = .next t ∧ Claims.Rounded s t f n (Claims.numeric k) k)

/-- Rounding to an integer in the five modes, and the nearest result of a format. -/
def Obligations.Rounding : Prop := Claims.RoundingModes ∧ Claims.NearestResult

/-- The scaling of values: exponents and block scales, and INT8 quantisation. -/
def Obligations.ScalesAndQuantisation : Prop := Claims.ExponentsAndScales ∧ Claims.Int8Quantisation

/-- Floating-point minima, maxima, signs, comparisons and classes. -/
def Obligations.FloatSelectCompareAndClass : Prop := Claims.FloatSelectAndSign ∧ Claims.FloatCompareAndClass

/-! ### Vectors (06 R115 to R139) -/

/-- A computation that raises flags and draws from the seed. -/
abbrev Claims.Rn := StateM (Flags × BitVec 32)

/-- One result, rounded in the mode in force, with its flags and its draw. -/
def Sys2Proof.Claims.round (c : Ctx) (rnd : Nat) (draws : Bool) (k : Mode → Rd) : Claims.Rn Nat := fun p =>
  let m := Claims.modeOf { c with srseed := p.2 } rnd draws
  ((k m.1).bits, (p.1 ||| (k m.1).fl, m.2))

/-- One result of a format that takes a draw where it is a number. -/
def Sys2Proof.Claims.roundIn (c : Ctx) (fmt : FFmt) (rnd : Nat) (k : Mode → Rd) : Claims.Rn Nat :=
  Claims.round c rnd (isFin (decodeF fmt (k .rtz).bits)) k

/-- A result that is not rounded, with its flags. -/
def Sys2Proof.Claims.exact (r : Rd) : Claims.Rn Nat := fun p => (r.bits, (p.1 ||| r.fl, p.2))

/-- The outcome of a computation from the hart's seed: what it gives, the flags, and the registers with both entered. -/
def Sys2Proof.Claims.outcome {α : Type} (s : State) (m : Claims.Rn α) : α × Flags × Ctx :=
  let r := m (0, (s.ctxOf s.hart).srseed)
  (r.1, r.2.1, addFlags { base s with srseed := r.2.2 } r.2.1)

/-- The lanes of a source of an integer instruction: a vector or channel span, or a scalar or immediate in every lane
(06 R115). -/
def Sys2Proof.Claims.intLanes (s : State) (w n : Nat) (o : Operand) : Option (List Nat) :=
  match o with
  | .s k => (scalarOf (s.ctxOf s.hart) k.toNat).map (fun x => List.replicate n (x.toNat % 2 ^ w))
  | .imm v => some (List.replicate n ((v.signExtend 64).toNat % 2 ^ w))
  | o => (spanOf s o).map (elems w n)

/-- The lanes of a source of a floating-point instruction, an immediate converted once under the rounding in force
(06 R115). -/
def Sys2Proof.Claims.fpLanes (s : State) (fmt : FFmt) (rnd n : Nat) (o : Operand) : Option (Claims.Rn (List Nat)) :=
  match o with
  | .imm v => some (do
      let x ← Claims.round (s.ctxOf s.hart) rnd true (fun m => encodeF fmt m (FV.ofInt v.toInt))
      pure (List.replicate n x))
  | .s k => (scalarOf (s.ctxOf s.hart) k.toNat).map (fun x => pure (List.replicate n (x.toNat % 2 ^ fmt.width)))
  | o => (spanOf s o).map (fun x => pure (elems fmt.width n x))

/-- The lanes that the mask selects compute, in ascending order (06 R117). -/
def Sys2Proof.Claims.masked (p : Pred) (xs : List (Claims.Rn Nat)) : Claims.Rn (List (Option Nat)) :=
  (xs.zipIdx).mapM (fun e => if p.getLsbD e.2 then (do
    let r ← e.1
    pure (some r)) else pure none)

/-- The predicate that masks an instruction, and whether inactive lanes keep the destination's (06 R117). -/
def Sys2Proof.Claims.mask (s : State) (f : TFields) : Pred := (s.ctxOf s.hart).getP (mField f.m 8 5)
def Sys2Proof.Claims.keeps (f : TFields) : Bool := mField f.m 8 5 != 0 && !f.m.getLsbD 9

/-- An integer lane's result from the lanes' numbers, by signedness and width: exact, then wrapped or clamped, or bits
(06 R121, R122, R139). -/
def Sys2Proof.Claims.intLane (sg sat : Bool) (w a b d : Nat) : Instr → Option Rd
  | .vadd _ => some (narrow sg sat w (laneInt sg w a + laneInt sg w b))
  | .vsub _ => some (narrow sg sat w (laneInt sg w a - laneInt sg w b))
  | .vmul _ => some (narrow sg sat w (laneInt sg w a * laneInt sg w b))
  | .vmulh _ => some ⟨(laneInt sg w a * laneInt sg w b / 2 ^ w % 2 ^ w).toNat, 0⟩
  | .vmadd _ => some (narrow sg sat w (laneInt sg w d + laneInt sg w a * laneInt sg w b))
  | .vmin _ => some ⟨if laneInt sg w a ≤ laneInt sg w b then a else b, 0⟩
  | .vmax _ => some ⟨if laneInt sg w b ≤ laneInt sg w a then a else b, 0⟩
  | .vabs _ => some (narrow sg sat w |laneInt sg w a|)
  | .vneg _ => some (narrow sg sat w (-laneInt sg w a))
  | .vand _ => some ⟨(a &&& b) % 2 ^ w, 0⟩
  | .vor _ => some ⟨(a ||| b) % 2 ^ w, 0⟩
  | .vxor _ => some ⟨(a ^^^ b) % 2 ^ w, 0⟩
  | .vshl _ => some ⟨a * 2 ^ (b % w) % 2 ^ w, 0⟩
  | .vshr _ => some ⟨a / 2 ^ (b % w) % 2 ^ w, 0⟩
  | .vsra _ => some ⟨(laneInt true w a / 2 ^ (b % w) % 2 ^ w).toNat, 0⟩
  | .vavg _ => some (narrow sg sat w ((laneInt sg w a + laneInt sg w b + 1) / 2))
  | .vclamp _ => some (
      let c : Int := if sg then Min.min |laneInt true w b| (2 ^ (w - 1) - 1) else laneInt false w b
      let lo : Int := if sg then -c else 0
      let x := laneInt sg w a
      ⟨((if x < lo then lo else if c < x then c else x) % 2 ^ w).toNat, if x < lo ∨ c < x then fSAT else 0⟩)
  | _ => none

/-- Narrowing to w bits: wrapped mod 2^w, or under SAT the nearer limit of the range with SAT raised (03 R48). -/
def Obligations.NarrowingRule : Prop :=
  ∀ (sg : Bool) (w : Nat) (x : Int), 0 < w →
    let lo : Int := if sg then -2 ^ (w - 1) else 0
    let hi : Int := if sg then 2 ^ (w - 1) - 1 else 2 ^ w - 1
    ((narrow sg false w x).bits : Int) = x % 2 ^ w ∧ (narrow sg false w x).fl = 0
    ∧ ((narrow sg true w x).bits : Int) = (if x < lo then lo else if hi < x then hi else x) % 2 ^ w
    ∧ (narrow sg true w x).fl = (if x < lo ∨ hi < x then fSAT else 0)

/-- The integer vector instructions work lane by lane under the mask: every active lane has the result of its numbers, an
inactive one keeps what it held or is zero, and flags are raised for the active lanes only (06 R117, R121, R122, R139). -/
def Obligations.VectorIntegerLanes : Prop :=
  ∀ (i : Instr) (s : State) (op : Nat) (f : TFields) (as bs ds : List Nat) (rs : List Rd), fieldsOf i = some (op, f) →
    ready i s = true →
    let c := s.ctxOf s.hart
    let w := laneWidth c
    Claims.intLanes s w (lanes c) f.a = some as → Claims.intLanes s w (lanes c) f.b = some bs →
    (op = 0x0A4 → Claims.intLanes s w (lanes c) f.d = some ds) → (op = 0x0DD ∨ op = 0x0DA → laneFloat c = none) →
    ((as.zip (bs.zip (if op = 0x0A4 then ds else bs))).map
      (fun e => Claims.intLane (laneSigned c) (f.m.getLsbD 10) w e.1 e.2.1 e.2.2 i)) = rs.map some →
    canPut s (Claims.keeps f) f.d = true →
    let out := Claims.outcome s (Claims.masked (Claims.mask s f) (rs.map Claims.exact))
    ∃ t, exec i s = .next t ∧ PutLanes s t out.2.2 out.2.1 w (Claims.keeps f) out.1 f.d

/-- A floating-point lane's result (06 R124, R125, R139). -/
def Sys2Proof.Claims.fpLane (c : Ctx) (fmt : FFmt) (rnd a b d : Nat) : Instr → Option (Claims.Rn Nat)
  | .vfadd _ => some (Claims.roundIn c fmt rnd (fun m => addF fmt m (decodeF fmt a) (decodeF fmt b)))
  | .vfsub _ => some (Claims.roundIn c fmt rnd (fun m => subF fmt m (decodeF fmt a) (decodeF fmt b)))
  | .vfmul _ => some (Claims.roundIn c fmt rnd (fun m => mulF fmt m (decodeF fmt a) (decodeF fmt b)))
  | .vfma _ => some (Claims.roundIn c fmt rnd (fun m => fmaF fmt m (decodeF fmt a) (decodeF fmt b) (decodeF fmt d)))
  | .vfms _ => some (Claims.roundIn c fmt rnd (fun m => fmaF fmt m (decodeF fmt a) (decodeF fmt b) (negV (decodeF fmt d))))
  | .vfmin _ => some (Claims.exact (minMaxF fmt false a b))
  | .vfmax _ => some (Claims.exact (minMaxF fmt true a b))
  | .vfabs _ => some (Claims.exact ⟨a % 2 ^ (fmt.width - 1), 0⟩)
  | .vfneg _ => some (Claims.exact ⟨a ^^^ 2 ^ (fmt.width - 1), 0⟩)
  | .vfexp2 _ => some (Claims.exact (if fmt = fp32 then approxF .exp2 a else approxLane .exp2 fmt a))
  | .vfrcp _ => some (Claims.exact (if fmt = fp32 then approxF .rcp a else approxLane .rcp fmt a))
  | .vfrsq _ => some (Claims.exact (if fmt = fp32 then approxF .rsq a else approxLane .rsq fmt a))
  | .vftanh _ => some (Claims.exact (if fmt = fp32 then approxF .tanh a else approxLane .tanh fmt a))
  | .vfsigm _ => some (Claims.exact (if fmt = fp32 then approxF .sigm a else approxLane .sigm fmt a))
  | .vavg _ => some (Claims.roundIn c fmt rnd (fun m => finish fmt m [decodeF fmt a, decodeF fmt b]
      ((addV (isRdn m) (decodeF fmt a) (decodeF fmt b)).map halfV)))
  | .vclamp _ => some (Claims.exact (clampF fmt a b))
  | _ => none

/-- The floating-point vector instructions work lane by lane in the lane format under the mask, each active lane rounded
on its own, with its flags and its draw in ascending order (06 R118, R124, R125, R139). -/
def Obligations.VectorFloatLanes : Prop :=
  ∀ (i : Instr) (s : State) (op : Nat) (f : TFields) (fmt : FFmt) (as bs : Claims.Rn (List Nat)) (ds : List Nat),
    fieldsOf i = some (op, f) → ready i s = true →
    let c := s.ctxOf s.hart
    laneFloat c = some fmt → Claims.fpLanes s fmt (mField f.m 13 11) (lanes c) f.a = some as →
    Claims.fpLanes s fmt (mField f.m 13 11) (lanes c) f.b = some bs →
    (op = 0x0B4 ∨ op = 0x0B5 → Claims.intLanes s fmt.width (lanes c) f.d = some ds) →
    (Claims.fpLane c fmt 0 0 0 0 i).isSome = true → canPut s (Claims.keeps f) f.d = true →
    let out := Claims.outcome s (do
      let a ← as
      let b ← bs
      let d := if op = 0x0B4 ∨ op = 0x0B5 then ds else List.replicate (lanes c) 0
      Claims.masked (Claims.mask s f) ((a.zip (b.zip d)).map (fun e =>
        (Claims.fpLane c fmt (mField f.m 13 11) e.1 e.2.1 e.2.2 i).getD (pure 0))))
    ∃ t, exec i s = .next t ∧ PutLanes s t out.2.2 out.2.1 fmt.width (Claims.keeps f) out.1 f.d

/-- A predicate written lane by lane: an inactive lane keeps its bit where the mask merges, and the bits above the lanes
are zero (06 R117). -/
def Sys2Proof.Claims.predLanes (old : Pred) (merge : Bool) (rs : List (Option Nat)) : Pred :=
  BitVec.ofNat 256 (packElems 1 ((rs.zipIdx).map (fun e => e.1.getD (if merge && old.getLsbD e.2 then 1 else 0))))

/-- VCMP and VFCMP set each active lane's bit to the outcome of the compare; VSEL picks each lane by a predicate
(06 R121, R122, R124). -/
def Obligations.VectorCompareAndSelect : Prop :=
  (∀ (s : State) (f : TFields) (p : BitVec 4) (as bs : List Nat), ready (.vcmp f) s = true → f.d = .p p →
    let c := s.ctxOf s.hart
    let w := laneWidth c
    Claims.intLanes s w (lanes c) f.a = some as → Claims.intLanes s w (lanes c) f.b = some bs →
    let rs := ((as.zip bs).zipIdx).map (fun e => if (Claims.mask s f).getLsbD e.2 then
      some (if intCond (mField f.m 3 0) (laneInt (laneSigned c) w e.1.1) (laneInt (laneSigned c) w e.1.2) then 1 else 0) else none)
    ∃ t, exec (.vcmp f) s = .next t ∧ HartOnly s t (setP (base s) p.toNat (Claims.predLanes (c.getP p.toNat) (Claims.keeps f) rs)) 0)
  ∧ (∀ (s : State) (f : TFields) (p : BitVec 4) (fmt : FFmt) (as bs : Claims.Rn (List Nat)), ready (.vfcmp f) s = true →
    f.d = .p p → mField f.m 3 0 ≤ 7 →
    let c := s.ctxOf s.hart
    laneFloat c = some fmt → Claims.fpLanes s fmt (mField f.m 13 11) (lanes c) f.a = some as →
    Claims.fpLanes s fmt (mField f.m 13 11) (lanes c) f.b = some bs →
    let out := Claims.outcome s (do
      let a ← as
      let b ← bs
      Claims.masked (Claims.mask s f) ((a.zip b).map (fun e =>
        let x := decodeF fmt e.1
        let z := decodeF fmt e.2
        Claims.exact ⟨if Claims.condOf (mField f.m 3 0) (cmpV x z) then 1 else 0,
          if x = .nan true ∨ z = .nan true ∨ (cmpV x z = none ∧ mField f.m 3 0 ∈ [2, 3, 4, 5]) then fNV else 0⟩)))
    ∃ t, exec (.vfcmp f) s = .next t
      ∧ HartOnly s t (setP out.2.2 p.toNat (Claims.predLanes (c.getP p.toNat) (Claims.keeps f) out.1)) out.2.1)
  ∧ (∀ (s : State) (f : TFields) (as bs : List Nat), ready (.vsel f) s = true →
    let c := s.ctxOf s.hart
    let w := laneWidth c
    Claims.intLanes s w (lanes c) f.a = some as → Claims.intLanes s w (lanes c) f.b = some bs → canPut s false f.d = true →
    ∃ t, exec (.vsel f) s = .next t ∧ PutLanes s t (base s) 0 w false (((as.zip bs).zipIdx).map (fun e =>
      some (if (c.getP (mField f.m 3 0)).getLsbD e.2 != f.m.getLsbD 4 then e.1.1 else e.1.2))) f.d)

/-- The tree of a floating-point reduction: neighbours are added level by level, each sum rounded to FP32 (03 R62). -/
def Sys2Proof.Claims.level (c : Ctx) (rnd : Nat) : List FV → Claims.Rn (List FV)
  | x :: y :: r => do
    let z ← Claims.roundIn c fp32 rnd (fun m => addF fp32 m x y)
    let t ← Claims.level c rnd r
    pure (decodeF fp32 z :: t)
  | l => pure l

def Sys2Proof.Claims.tree (c : Ctx) (rnd : Nat) : Nat → List FV → Claims.Rn FV
  | 0, l => pure (l.headD FV.zero)
  | n + 1, l => do
    let t ← Claims.level c rnd l
    match t with
    | [x] => pure x
    | t => Claims.tree c rnd n t

/-- Lanes of which the inactive ones enter as the neutral value. -/
def Sys2Proof.Claims.active {α : Type} (p : Pred) (e : α) (xs : List α) : List α := (xs.zipIdx).map (fun q => if p.getLsbD q.2 then q.1 else e)

/-- The integer reductions write the sum, the greatest or the least of the active lanes, and VDOT adds the sum of the
active products to D (06 R127, R128). -/
def Sys2Proof.Claims.VectorIntegerReductions : Prop :=
  ∀ (i : Instr) (s : State) (f : TFields) (n : BitVec 6) (a : Nat) (y : Word), ready i s = true → f.d = .s n → spanOf s f.a = some a →
    let c := s.ctxOf s.hart
    let w := laneWidth c
    let xs := (elems w (lanes c) a).map (laneInt (laneSigned c) w)
    let live := ((xs.zipIdx).filter (fun e => (Claims.mask s f).getLsbD e.2)).map (·.1)
    let lo : Int := if laneSigned c then -2 ^ (w - 1) else 0
    let hi : Int := if laneSigned c then 2 ^ (w - 1) - 1 else 2 ^ w - 1
    (i = .vradd f ∧ y = BitVec.ofInt 64 live.sum
      ∨ (∃ x : Int, i = .vrmax f ∧ y = BitVec.ofInt 64 x ∧ (x ∈ live ∨ live = [] ∧ x = lo) ∧ ∀ z ∈ live, z ≤ x)
      ∨ (∃ x : Int, i = .vrmin f ∧ y = BitVec.ofInt 64 x ∧ (x ∈ live ∨ live = [] ∧ x = hi) ∧ ∀ z ∈ live, x ≤ z)
      ∨ (∃ (d : Word) (bs : List Nat), i = .vdot f ∧ srcOf s f.d = some d ∧ Claims.intLanes s w (lanes c) f.b = some bs
        ∧ y = BitVec.ofInt 64 (d.toInt + (Claims.active (Claims.mask s f) 0
            ((xs.zip (bs.map (laneInt (laneSigned c) w))).map (fun e => e.1 * e.2))).sum))) →
    ∃ t, exec i s = .next t ∧ Claims.Gave s t n y 0

/-- The floating-point reductions: the tree of rounded sums, the greatest or least lane, and VFDOT's tree of exact products
added to D (06 R127, R128; 03 R62). -/
def Sys2Proof.Claims.VectorFloatReductions : Prop :=
  ∀ (i : Instr) (s : State) (f : TFields) (n : BitVec 6) (a : Nat) (fmt : FFmt) (m : Claims.Rn Nat), ready i s = true → f.d = .s n →
    spanOf s f.a = some a →
    let c := s.ctxOf s.hart
    let rnd := mField f.m 13 11
    let xs := elems fmt.width (lanes c) a
    laneFloat c = some fmt →
    (i = .vrfadd f ∧ m = (do
        let x ← Claims.tree c rnd 8 (Claims.active (Claims.mask s f) (.fin true 0 1) (xs.map (decodeF fmt)))
        pure (encodeF fp32 .rne x).bits)
      ∨ (∃ big : Bool, (if big then i = .vrfmax f else i = .vrfmin f)
        ∧ m = (let ys := Claims.active (Claims.mask s f) (fp32.inf big) (xs.map (fun x => widen (decodeF fmt x)))
          Claims.exact (ys.tail.foldl (fun (r : Rd) y =>
            ⟨(minMaxF fp32 big r.bits y).bits, r.fl ||| (minMaxF fp32 big r.bits y).fl⟩) ⟨ys.headD 0, 0⟩)))
      ∨ (∃ (bs : Claims.Rn (List Nat)) (d : Nat), i = .vfdot f ∧ fpOf s f.d = some d
        ∧ Claims.fpLanes s fmt rnd (lanes c) f.b = some bs ∧ m = (do
          let ys ← bs
          let x ← Claims.tree c rnd 8 (Claims.active (Claims.mask s f) (.fin true 0 1)
            ((xs.zip ys).map (fun e => leafProduct (decodeF fmt e.1) (decodeF fmt e.2))))
          Claims.roundIn c fp32 rnd (fun r => addF fp32 r (decodeF fp32 d) x)))) →
    let out := Claims.outcome s m
    ∃ t, exec i s = .next t ∧ HartOnly s t (setS out.2.2 n.toNat (BitVec.ofNat 64 out.1)) out.2.1

/-- The lanes of a move (R129 to R132): from the lanes of A, and what B gives. -/
def Sys2Proof.Claims.moved (n : Nat) (as bs : List Nat) (k : Int) (j : Nat) : Instr → Option Nat
  | .vmov _ => some (as.getD j 0)
  | .vperm _ => some (as.getD (bs.getD j 0 % n) 0)
  | .vslide _ => some (if 0 ≤ (j : Int) + k ∧ (j : Int) + k < n then as.getD ((j : Int) + k).toNat 0 else 0)
  | _ => none

/-- The lane of VSHUF's pattern: halves interleaved, even or odd lanes packed, reversed, or pairs swapped (R131). -/
def Sys2Proof.Claims.shuffled (pat n : Nat) (as bs : List Nat) (j : Nat) : Nat :=
  match pat with
  | 0 => if j % 2 = 0 then as.getD (j / 2) 0 else bs.getD (j / 2) 0
  | 1 => if j % 2 = 0 then as.getD (n / 2 + j / 2) 0 else bs.getD (n / 2 + j / 2) 0
  | 2 => if j < n / 2 then as.getD (2 * j) 0 else bs.getD (2 * (j - n / 2)) 0
  | 3 => if j < n / 2 then as.getD (2 * j + 1) 0 else bs.getD (2 * (j - n / 2) + 1) 0
  | 4 => as.getD (n - 1 - j) 0
  | _ => if j % 2 = 0 then as.getD (j + 1) 0 else as.getD (j - 1) 0

/-- The moves of lanes, lane by lane (06 R129 to R132). -/
def Sys2Proof.Claims.VectorMoves : Prop :=
  (∀ (i : Instr) (s : State) (f : TFields) (a b : Nat) (k : Word), ready i s = true →
    let c := s.ctxOf s.hart
    let w := laneWidth c
    spanOf s f.a = some a → canPut s (Claims.keeps f) f.d = true →
    (i = .vmov f ∨ i = .vperm f ∧ spanOf s f.b = some b ∨ i = .vslide f ∧ srcOf s f.b = some k) →
    ∃ t, exec i s = .next t ∧ PutLanes s t (base s) 0 w (Claims.keeps f) ((List.range (lanes c)).map (fun j =>
      if (Claims.mask s f).getLsbD j then Claims.moved (lanes c) (elems w (lanes c) a) (elems w (lanes c) b) k.toInt j i else none)) f.d)
  ∧ (∀ (s : State) (f : TFields) (x : Word), ready (.vbcast f) s = true → srcOf s f.a = some x →
    canPut s (Claims.keeps f) f.d = true →
    let c := s.ctxOf s.hart
    ∃ t, exec (.vbcast f) s = .next t ∧ PutLanes s t (base s) 0 (laneWidth c) (Claims.keeps f) ((List.range (lanes c)).map (fun j =>
      if (Claims.mask s f).getLsbD j then some (x.toNat % 2 ^ laneWidth c) else none)) f.d)
  ∧ (∀ (s : State) (f : TFields) (n : BitVec 6) (a : Nat) (k : Word), ready (.vext f) s = true → f.d = .s n → spanOf s f.a = some a →
    srcOf s f.b = some k →
    let c := s.ctxOf s.hart
    let e := (elems (laneWidth c) (lanes c) a).getD k.toNat 0
    ∃ t, exec (.vext f) s = .next t
      ∧ Claims.Gave s t n (if laneFmt c = 0 then BitVec.ofInt 64 (laneInt true (laneWidth c) e) else BitVec.ofNat 64 e) 0)
  ∧ (∀ (s : State) (f : TFields) (n : BitVec 5) (x k : Word) (d : Vec), ready (.vins f) s = true → f.d = .v n →
    srcOf s f.a = some x → srcOf s f.b = some k → vecOf s f.d = some d →
    let c := s.ctxOf s.hart
    ∃ t, exec (.vins f) s = .next t ∧ PutLanes s t (base s) 0 (laneWidth c) false ((List.range (lanes c)).map (fun j =>
      some (if j = k.toNat then x.toNat % 2 ^ laneWidth c else elemOf d.toNat (laneWidth c) j))) f.d)
  ∧ (∀ (s : State) (f : TFields) (a b : Nat), ready (.vshuf f) s = true → spanOf s f.a = some a → spanOf s f.b = some b →
    mField f.m 3 0 ≤ 5 → canPut s false f.d = true →
    let c := s.ctxOf s.hart
    let w := laneWidth c
    lanes c ∈ [64, 128, 256] →
    ∃ t, exec (.vshuf f) s = .next t ∧ PutLanes s t (base s) 0 w false ((List.range (lanes c)).map (fun j =>
      some (Claims.shuffled (mField f.m 3 0) (lanes c) (elems w (lanes c) a) (elems w (lanes c) b) j))) f.d)
  ∧ (∀ (s : State) (f : TFields) (a : Nat) (p : Pred), ready (.vcompress f) s = true → spanOf s f.a = some a → predOf s f.b = some p →
    canPut s false f.d = true →
    let c := s.ctxOf s.hart
    let w := laneWidth c
    let picked := (List.range (lanes c)).filter (fun j => p.getLsbD j)
    ∃ t, exec (.vcompress f) s = .next t ∧ PutLanes s t (base s) 0 w false ((List.range (lanes c)).map (fun j =>
      some ((picked.map (fun k => elemOf a w k)).getD j 0))) f.d)
  ∧ (∀ (s : State) (f : TFields) (a : Nat) (p : Pred), ready (.vexpand f) s = true → spanOf s f.a = some a → predOf s f.b = some p →
    canPut s false f.d = true →
    let c := s.ctxOf s.hart
    let w := laneWidth c
    ∃ t, exec (.vexpand f) s = .next t ∧ PutLanes s t (base s) 0 w false ((List.range (lanes c)).map (fun j =>
      some (if p.getLsbD j then elemOf a w ((List.range j).filter (fun k => p.getLsbD k)).length else 0))) f.d)
  ∧ (∀ (s : State) (f : TFields), ready (.viota f) s = true → canPut s (Claims.keeps f) f.d = true →
    let c := s.ctxOf s.hart
    let w := laneWidth c
    (f.a = .none ∨ ∃ p, f.a = .p p) →
    ∃ t, exec (.viota f) s = .next t ∧ PutLanes s t (base s) 0 w (Claims.keeps f) ((List.range (lanes c)).map (fun j =>
      if (Claims.mask s f).getLsbD j then some ((match predOf s f.a with
        | some p => ((List.range j).filter (fun k => p.getLsbD k)).length
        | none => j) % 2 ^ w) else none)) f.d)

/-- The whole of a vector or channel destination is written. -/
def Sys2Proof.Claims.PutWhole (s t : State) (c : Ctx) (fl : Flags) (x : Nat) (o : Operand) : Prop := PutLanes s t c fl 32 false ((elems 32 64 x).map some) o

/-- Blocks of l elements. -/
def Sys2Proof.Claims.blocks {α : Type} (l n : Nat) (xs : List α) : List (List α) := (List.range n).map (fun j => (xs.drop (l * j)).take l)

/-- The block-scaled forms: VBSENC encodes each block of lanes as BS4 codes with a scale byte, VBSDEC decodes them, VQ8 and
VDQ8 convert to and from INT8 with one scale, VAMAX gives the greatest magnitude of each block (06 R133 to R136). -/
def Obligations.VectorBlocks : Prop :=
  ∀ (i : Instr) (s : State) (f : TFields) (a : Nat) (m : Claims.Rn Nat), ready i s = true → spanOf s f.a = some a →
    canPut s false f.d = true →
    let c := s.ctxOf s.hart
    let w := laneWidth c
    let rnd := mField f.m 13 11
    let l := 16 * 2 ^ mField f.m 3 2
    let xs := (elems w (lanes c) a).map (laneVal c)
    (i = .vbsenc f ∧ l ≤ lanes c ∧ m = (do
        let bs ← (Claims.blocks l (lanes c / l) xs).mapM (fun b => do
          let modes ← b.mapM (fun _ => fun p => let q := Claims.modeOf { c with srseed := p.2 } rnd true; (q.1, (p.1, q.2)))
          let e := encodeBS4 (mField f.m 1 0) modes b
          let _ ← Claims.exact ⟨0, e.2.2⟩
          pure (e.1, e.2.1))
        pure (packElems 4 (bs.flatMap (·.2)) + packElems 8 (bs.map (·.1)) * 2 ^ 1024))
      ∨ i = .vbsdec f ∧ l ≤ lanes c ∧ m = (do
        let ys ← (List.range (lanes c)).mapM (fun j =>
          match decodeBS4 (elemOf a 4 j) (elemOf a 8 (128 + j / l)), laneFloat c with
          | some v, some fmt => Claims.round c rnd (drawsFor 12 (some fmt)) (fun r => encodeF fmt r v)
          | some v, none => Claims.round c rnd true (fun r => toInt (intLo (laneSigned c) w) (intHi (laneSigned c) w) w r v)
          | none, some fmt => Claims.exact ⟨fmt.canon, fSAT⟩
          | none, none => Claims.exact ⟨0, fSAT⟩)
        pure (packElems w ys))
      ∨ (∃ b, i = .vq8 f ∧ fpOf s f.b = some b ∧ m = (do
        let qs ← xs.mapM (fun x => match quotV x (decodeF fp32 b) with
          | none => Claims.exact ⟨0, fNV⟩
          | some q => Claims.round c rnd (isFin q) (fun r => ⟨((toInt8 r q).1 % 256).toNat, (toInt8 r q).2⟩))
        pure (packElems 8 qs)))
      ∨ (∃ b fmt, i = .vdq8 f ∧ fpOf s f.b = some b ∧ laneFloat c = some fmt ∧ m = (do
        let ys ← (elems 8 (lanes c) a).mapM (fun x =>
          Claims.roundIn c fmt rnd (fun r => mulF fmt r (FV.ofInt (laneInt true 8 x)) (decodeF fp32 b)))
        pure (packElems fmt.width ys)))
      ∨ i = .vamax f ∧ l ≤ lanes c ∧ (laneFloat c).isSome = true ∧ m = (do
        let ys ← (Claims.blocks l (lanes c / l) xs).mapM (fun b => Claims.exact (amaxOf b))
        pure (packElems 32 ys))) →
    let out := Claims.outcome s m
    ∃ t, exec i s = .next t ∧ Claims.PutWhole s t out.2.2 out.2.1 out.1 f.d

/-- VFCVT converts the lanes of one part, VSPLIT halves the selected lanes, VONLINE merges two online-softmax states, VSCAN
gives running sums, VRNG draws 64 random words (06 R126, R137 to R139). -/
def Sys2Proof.Claims.VectorSpecialForms : Prop :=
  (∀ (s : State) (f : TFields) (a d : Nat), ready (.vfcvt f) s = true → spanOf s f.a = some a → spanOf s f.d = some d →
    canPut s false f.d = true →
    let c := s.ctxOf s.hart
    let rnd := mField f.m 13 11
    let src := mField f.m 2 0
    let dst := mField f.m 7 5
    let part := mField f.m 4 3
    let sw := vcvtWidth src
    let dw := vcvtWidth dst
    let elem (x : Nat) : Claims.Rn Nat :=
      let v := if src < 5 then decodeF (cvtFmt src) x else FV.ofInt (laneInt true sw x)
      if dst < 5 then Claims.round c rnd (isFin v && (5 ≤ src || dw ≤ sw)) (fun m => encodeF (cvtFmt dst) m v)
      else if src < 5 then Claims.round c rnd (isFin v) (fun m => toInt (-2 ^ (dw - 1)) (2 ^ (dw - 1) - 1) dw m v)
      else Claims.exact (narrow true (f.m.getLsbD 10) dw (laneInt true sw x))
    let out := Claims.outcome s (do
      let ys ← (if dw < sw then elems sw (2048 / sw) a else ((elems sw (2048 / sw) a).drop (part * (2048 / dw))).take (2048 / dw)).mapM elem
      pure (if dw < sw then
          let lo := part * (2048 / sw * dw)
          d % 2 ^ lo + packElems dw ys * 2 ^ lo + d / 2 ^ (lo + 2048 / sw * dw) * 2 ^ (lo + 2048 / sw * dw)
        else packElems dw ys))
    ∃ t, exec (.vfcvt f) s = .next t ∧ Claims.PutWhole s t out.2.2 out.2.1 out.1 f.d)
  ∧ (∀ (s : State) (f : TFields) (a : Nat) (p : Pred), ready (.vsplit f) s = true → spanOf s f.a = some a → predOf s f.b = some p →
    canPut s false f.d = true →
    let c := s.ctxOf s.hart
    let w := laneWidth c
    let halves := fun j => splitHalves c (elemOf a w j)
    let picked := (List.range (lanes c)).filter (fun j => p.getLsbD j)
    let fl : Flags := picked.foldl (fun g j => g ||| (halves j).2.2) 0
    ∃ t, exec (.vsplit f) s = .next t ∧ PutLanes s t (addFlags (base s) fl) fl w false ((List.range (lanes c)).map (fun j =>
      some (if f.m.getLsbD 0 then (picked.map (fun k => (halves k).2.1)).getD j 0
        else if p.getLsbD j then (halves j).1 else elemOf a w j))) f.d)
  ∧ (∀ (s : State) (f : TFields) (w1 w2 : Word) (n : BitVec 6), ready (.vonline f) s = true → f.d = .s n → pairOf s f.b = some (w1, w2) →
    spanOf s f.a = some 0 →
    let c := s.ctxOf s.hart
    let m1 := w1.toNat % 2 ^ 32
    let m2 := w2.toNat % 2 ^ 32
    let out := Claims.outcome s (match onlineMerge m1 m2 with
      | none => Claims.exact ⟨fp32.canon * 2 ^ 32 + fp32.canon, if sigNaN [decodeF fp32 m1, decodeF fp32 m2] then fNV else 0⟩
      | some (mx, c1, c2, fl) => do
        let _ ← Claims.exact ⟨0, fl⟩
        let x ← Claims.roundIn c fp32 (mField f.m 13 11) (fun r =>
          mergeF r (decodeF fp32 (w1.toNat / 2 ^ 32)) c1 (decodeF fp32 (w2.toNat / 2 ^ 32)) c2)
        pure (x * 2 ^ 32 + mx))
    f.a = .none → ∃ t, exec (.vonline f) s = .next t ∧ HartOnly s t (setS out.2.2 n.toNat (BitVec.ofNat 64 out.1)) out.2.1)
  ∧ (∀ (s : State) (f : TFields) (w1 w2 : Word) (n : BitVec 5) (o1 o2 : Nat), ready (.vonline f) s = true → f.d = .v n →
    pairOf s f.b = some (w1, w2) → spanOf s f.d = some o1 → spanOf s f.a = some o2 →
    let c := s.ctxOf s.hart
    let m1 := w1.toNat % 2 ^ 32
    let m2 := w2.toNat % 2 ^ 32
    let out := Claims.outcome s (match onlineMerge m1 m2 with
      | none => do
        let _ ← Claims.exact ⟨0, if sigNaN [decodeF fp32 m1, decodeF fp32 m2] then fNV else 0⟩
        pure (packElems 32 (List.replicate 64 fp32.canon))
      | some (_, c1, c2, fl) => do
        let _ ← Claims.exact ⟨0, fl⟩
        let ys ← ((elems 32 64 o1).zip (elems 32 64 o2)).mapM (fun e => Claims.roundIn c fp32 (mField f.m 13 11) (fun r =>
          mergeF r (decodeF fp32 e.1) c1 (decodeF fp32 e.2) c2))
        pure (packElems 32 ys))
    ∃ t, exec (.vonline f) s = .next t ∧ Claims.PutWhole s t out.2.2 out.2.1 out.1 f.d)
  ∧ (∀ (s : State) (f : TFields) (a : Nat), ready (.vscan f) s = true → spanOf s f.a = some a → laneFloat (s.ctxOf s.hart) = none →
    canPut s (Claims.keeps f) f.d = true →
    let c := s.ctxOf s.hart
    let w := laneWidth c
    ∃ t, exec (.vscan f) s = .next t ∧ PutLanes s t (base s) 0 w (Claims.keeps f) ((List.range (lanes c)).map (fun j =>
      if (Claims.mask s f).getLsbD j then
        some ((((List.range (if f.m.getLsbD 0 then j else j + 1)).filter (fun k => (Claims.mask s f).getLsbD k)).map
          (fun k => elemOf a w k)).sum % 2 ^ w)
      else none)) f.d)
  ∧ (∀ (s : State) (f : TFields) (a : Nat) (fmt : FFmt), ready (.vscan f) s = true → spanOf s f.a = some a →
    laneFloat (s.ctxOf s.hart) = some fmt → canPut s (Claims.keeps f) f.d = true →
    let c := s.ctxOf s.hart
    let out := Claims.outcome s ((elems fmt.width (lanes c) a).zipIdx.foldlM (fun (r : Nat × List (Option Nat)) e =>
      if (Claims.mask s f).getLsbD e.2 then (do
        let x ← Claims.roundIn c fmt (mField f.m 13 11) (fun m => addF fmt m (decodeF fmt r.1) (decodeF fmt e.1))
        pure (x, r.2 ++ [some (if f.m.getLsbD 0 then r.1 else x)]))
      else pure (r.1, r.2 ++ [none])) (0, []))
    ∃ t, exec (.vscan f) s = .next t ∧ PutLanes s t out.2.2 out.2.1 fmt.width (Claims.keeps f) out.1.2 f.d)
  ∧ (∀ (s : State) (f : TFields), ready (.vrng f) s = true → canPut s false f.d = true →
    let out := Claims.outcome s (do
      let ys ← (List.range 64).mapM (fun _ => fun (p : Flags × BitVec 32) => ((xorshift p.2).toNat, (p.1, xorshift p.2)))
      pure (packElems 32 ys))
    ∃ t, exec (.vrng f) s = .next t ∧ Claims.PutWhole s t out.2.2 out.2.1 out.1 f.d)

/-- Reductions of integer and floating-point vectors. -/
def Obligations.VectorReductions : Prop := Claims.VectorIntegerReductions ∧ Claims.VectorFloatReductions

/-- Vector moves, and the forms of vector instructions with special operands. -/
def Obligations.VectorMovesAndForms : Prop := Claims.VectorMoves ∧ Claims.VectorSpecialForms

/-! ### Memory (07 R142 to R154) -/

/-- The virtual address that a memory operand gives (07 R142). -/
def Sys2Proof.Claims.addrOf (s : State) (f : TFields) : Option Nat :=
  match srcOf s f.a, srcOf s f.b with
  | some a, some b => some (a + b).toNat
  | _, _ => none

/-- The bytes of a scalar access, 8, 4, 2 or 1 by SZ (07 R145). -/
def Sys2Proof.Claims.size (f : TFields) : Nat := 8 / 2 ^ mField f.m 1 0

/-- A scalar load that makes its access here, with its path (07 R146). -/
def Sys2Proof.Claims.loads (i : Instr) (f : TFields) (path : Path) : Prop :=
  (i = .ld f ∧ path = if f.h.toNat % 4 = 3 then .once else .l1) ∨ (i = .ldb f ∧ path = .home)

/-- A scalar store whose operand d is present; STWT writes through to the home (07 R146). -/
def Sys2Proof.Claims.stores (s : State) (i : Instr) (f : TFields) (through : Bool) (d : Word) : Prop :=
  ((i = .st f ∧ through = false) ∨ (i = .stwt f ∧ through = true)) ∧ srcOf s f.d = some d

/-- The trap of an instruction, which has no other effect (04 R83, 09 R210). -/
def Sys2Proof.Claims.trapOf (s : State) (op : Nat) (f : TFields) (cause val : Nat) : State :=
  s.takeTrap s.hart cause val .plain (ignorableOf op cause) (destsOf op f)

/-- The checks of a scalar access in their order: alignment, a valid page, then those of its place; the first that fails
traps with the address, and so does poisoned data of a load, or a store through an aperture to a line with CODE 11
or to one that needs a granule where the pool has none. A write of a node that a job holds waits (07 R142;
08 R172; 13 R266, R267). -/
def Obligations.AccessChecks : Prop :=
  ∀ (i : Instr) (s : State) (op : Nat) (f : TFields) (va : Nat) (acc : Access), fieldsOf i = some (op, f) → ready i s = true →
    Claims.addrOf s f = some va →
    ((∃ path, Claims.loads i f path) ∧ acc = .read ∨ (∃ th d, Claims.stores s i f th d) ∧ acc = .write) →
    (va % Claims.size f ≠ 0 → exec i s = .next (Claims.trapOf s op f cMISALIGNED va))
    ∧ (va % Claims.size f = 0 → placeOf s va = none →
        exec i s = .next (s.pageStop s.hart (some (op, f)) va acc (ignorableOf op cPAGE_FAULT) (destsOf op f)))
    ∧ (∀ loc pg, va % Claims.size f = 0 → placeOf s va = some (loc, pg) →
        (∀ k, failsWith s acc anyPage loc pg = some k → exec i s = .next (Claims.trapOf s op f k va))
        ∧ (∀ n off, failsWith s acc anyPage loc pg = none → loc = .ln n off → heldByJob s acc loc = true →
            exec i s = .next (s.setWait s.hart op f .waitJob n 0))
        ∧ (∀ path, failsWith s acc anyPage loc pg = none → Claims.loads i f path →
            (¬ ∃ bs, Found s loc pg (Claims.size f) path bs) → exec i s = .next (Claims.trapOf s op f cPOISON va))
        ∧ (∀ th d n off, failsWith s acc anyPage loc pg = none → Claims.stores s i f th d → loc = .ln n off → heldByJob s acc loc = false →
            (s.deadLine (s.tenOf s.hart) n off (Claims.size f) = true → exec i s = .next (Claims.trapOf s op f cPOISON va))
            ∧ (s.deadLine (s.tenOf s.hart) n off (Claims.size f) = false →
                s.nodeStore (s.tenOf s.hart) n off (bytesOf (Claims.size f) d.toNat) (Claims.size f + 1) = none →
                exec i s = .next (Claims.trapOf s op f cNODE_EXHAUSTED va))))

/-- The number that a load of n bytes gives, sign-extended under SGN. -/
def Sys2Proof.Claims.loaded (f : TFields) (n x : Nat) : Word :=
  if f.m.getLsbD 2 = true ∧ 2 ^ (8 * n - 1) ≤ x then BitVec.ofInt 64 ((x : Int) - 2 ^ (8 * n)) else BitVec.ofNat 64 x

/-- The scale byte that a read of an element at va finds: of its block's shadow, or of the node, within its lines (03 R55,
13 R265). -/
def Sys2Proof.Claims.Scale (s : State) (va : Nat) (loc : Loc) (pg : Page) (path : Path) (sb : Nat) : Prop :=
  if pg.fmt ≠ 12 then sb = 0
  else match loc with
    | .ln n off =>
      let k := nodeScale s (s.tenOf s.hart) n pg.geom off
      k < 256 * (s.node (s.tenOf s.hart) n).lines ∧ ∃ bs, Found s (.ln n k) pg 1 path bs ∧ sb = ofBytes bs
    | _ => ∃ l p bs, allowed s ((s.ssb (s.tenOf s.hart) + va / 2 ^ shadowShift pg.geom) % 2 ^ 64) .read rawPage = some (l, p)
        ∧ Found s l p 1 path bs ∧ sb = ofBytes bs

/-- The element at va, of a page that the access does not refuse, and its scale byte; nib picks the nibble of a 4-bit one. -/
def Sys2Proof.Claims.Element (s : State) (refuse : Refuse) (va nib : Nat) (path : Path) (fmt bits x sb : Nat) : Prop :=
  ∃ loc pg bs, allowed s va .read refuse = some (loc, pg) ∧ pg.fmt = fmt ∧ Found s loc pg (Max.max 1 (bits / 8)) path bs
    ∧ x = (if bits = 4 then ofBytes bs / 16 ^ nib % 16 else ofBytes bs) ∧ Claims.Scale s va loc pg path sb

/-- An element of a formatted page as a value of the lane format, rounded once with its flags and its draw; a block whose
scale is not a number gives the canonical NaN or zero with SAT (03 R49, R53). -/
def Sys2Proof.Claims.converted (c : Ctx) (lf : Option FFmt) (rnd : Nat) (sat : Bool) (fmt sb x : Nat) : Claims.Rn Nat :=
  match (if fmt = 12 then decodeBS4 x sb else some (decodeElem fmt x)), lf with
  | none, some g => Claims.exact ⟨g.canon, fSAT⟩
  | none, none => Claims.exact ⟨0, fSAT⟩
  | some v, some g => Claims.round c rnd (drawsFor fmt (some g) && isFin v) (fun m => encodeF g m v)
  | some v, none =>
    match v, fmt != 12 && (fmtFloat fmt).isNone with
    | .fin neg num den, true => Claims.exact (narrow (laneSigned c) sat (laneWidth c) (if neg then -((num / den : Nat) : Int) else (num / den : Nat)))
    | _, _ => Claims.round c rnd (drawsFor fmt none && isFin v)
        (fun m => toInt (intLo (laneSigned c) (laneWidth c)) (intHi (laneSigned c) (laneWidth c)) (laneWidth c) m v)

/-- The page of a DEC form is formatted (07 R146). -/
def Sys2Proof.Claims.decPage : Refuse := fun _ pg => pg.fmt == 0 || pg.fmt == 13

/-- No cached translation of the hart's caches overtakes another: wherever the hart has translated some addresses, every
address still leads where it leads now, also after a change g. Software that changes a valid PTE invalidates it before it
relies on the page, so only a table under change breaks this (14 R289, R291). -/
def Sys2Proof.Claims.settled (s : State) (g : State → State := id) : Prop :=
  ∀ (vas : List Nat) (b : Nat),
    ((g (vas.foldl (fun u va => (u.locate s.hart (s.tenOf s.hart) va).1) s)).locate s.hart (s.tenOf s.hart) b).2
      = (s.locate s.hart (s.tenOf s.hart) b).2

/-- LD and LDB give the little-endian number of the bytes at their address, as their path finds them, extended; LD.DEC
gives the FP32 value of the element there. No byte of memory and nothing that a core sees changes (07 R146). -/
def Sys2Proof.Claims.ScalarLoads : Prop :=
  (∀ (i : Instr) (s : State) (f : TFields) (path : Path) (va : Nat) (n : BitVec 6) (loc : Loc) (pg : Page), ready i s = true →
    f.d = .s n → Claims.loads i f path → Claims.addrOf s f = some va → va % Claims.size f = 0 →
    allowed s va .read anyPage = some (loc, pg) → (∃ bs, Found s loc pg (Claims.size f) path bs) →
    ∃ t bs, Found s loc pg (Claims.size f) path bs ∧ exec i s = .next t
      ∧ Accessed s t (setS (base s) n.toNat (Claims.loaded f (Claims.size f) (ofBytes bs))) 0 ∧ Untouched s t)
  ∧ (∀ (s : State) (f : TFields) (va fmt : Nat) (n : BitVec 6), ready (.ldDec f) s = true → f.d = .s n →
    Claims.addrOf s f = some va → va % (Max.max 1 (fmtBits fmt / 8)) = 0 →
    let path : Path := if f.h.toNat % 4 = 3 then .once else .l1
    let nib := if f.m.getLsbD 2 then 1 else 0
    (fmt = 12 → Claims.settled s) → (∃ x sb, Claims.Element s Claims.decPage va nib path fmt (fmtBits fmt) x sb) →
    ∃ t x sb, Claims.Element s Claims.decPage va nib path fmt (fmtBits fmt) x sb ∧ exec (.ldDec f) s = .next t
      ∧ (let out := Claims.outcome s (Claims.converted (s.ctxOf s.hart) (some fp32) 0 false fmt sb x)
        Accessed s t (setS out.2.2 n.toNat (BitVec.ofNat 64 out.1)) out.2.1 ∧ Untouched s t))

/-- From s to t the bytes of a list were stored at their virtual addresses: no other byte changed, at its home, in a
scratchpad or as a core sees it; and the last byte for an address that no other address of the list shares is in the
L1 of the storing core, or at the home, or in the scratchpad, as its page says. A store to the PCIe region goes to a
device (log entry 2). -/
structure Sys2Proof.Claims.Stored (s t : State) (through : Bool) (wr : List (Nat × Byte)) : Prop where
  frame   : ∀ a, a < 2 ^ 52 → (∀ e ∈ wr, ∀ pg, placeOf s e.1 ≠ some (.dev a, pg)) →
              t.homeByte a = s.homeByte a ∧ ∀ d, seenByte t d a = seenByte s d a
  local_  : ∀ key off, off < 2 ^ 18 → (∀ e ∈ wr, ∀ pg, placeOf s e.1 ≠ some (.scr key off, pg)) →
              t.scratch.get 0 (scrKey key off) = s.scratch.get 0 (scrKey key off)
  owners  : ∀ w, t.owner.get 2047 w = s.owner.get 2047 w ∨ t.owner.get 2047 w = agentOf s.hart
  poison  : ∀ w, t.poison.get false w = s.poison.get false w ∨ t.poison.get false w = false
  lpoison : ∀ w, t.spoison.get false w = s.spoison.get false w ∨ t.spoison.get false w = false
  peers   : ∃ l, t.peerStores = s.peerStores ++ l
              ∧ ((∀ e ∈ wr, ∀ a pg p, placeOf s e.1 = some (.dev a, pg) → s.regionOf a ≠ .peer p) → l = [])
  values  : ∀ pre va b post, wr = pre ++ (va, b) :: post → (∀ e ∈ post, e.1 ≠ va) →
              (∀ e ∈ wr, e.1 ≠ va → (placeOf s e.1).map (·.1) ≠ (placeOf s va).map (·.1)) →
              match placeOf s va with
              | some (.dev a, pg) =>
                if s.regionOf a = .pcie then t.homeByte a = s.homeByte a
                else if s.cached s.hart a pg = true then
                  seenByte t (coreOf s.hart) a = b ∧ t.homeByte a = if through then b else s.homeByte a
                else t.homeByte a = b
                  ∧ (isCore s.hart = true → (s.regionOf a = .hbm ∨ s.regionOf a = .cxl) → seenByte t (coreOf s.hart) a = b)
              | some (.scr key off, _) => t.scratch.get 0 (scrKey key off) = b
              | _ => True

/-- ST stores the low bytes of D: they are what this core sees at the address, and the home keeps what it held; STWT
stores at the home too; an uncached page is stored at the home, and a copy of it that the core holds by another mapping
follows; a window is stored in the scratchpad. A store through an aperture to a line without CODE 11 writes the node and
bumps its version once. No register changes (07 R146; 08 R172; 10 R216). -/
def Sys2Proof.Claims.ScalarStores : Prop :=
  ∀ (i : Instr) (s : State) (f : TFields) (through : Bool) (d : Word) (va : Nat) (loc : Loc) (pg : Page), ready i s = true →
    Claims.stores s i f through d → Claims.addrOf s f = some va → va % Claims.size f = 0 →
    allowed s va .write anyPage = some (loc, pg) →
    match loc with
    | .ln n off => ∀ u, s.deadLine (s.tenOf s.hart) n off (Claims.size f) = false → s.nodeStore (s.tenOf s.hart) n off (bytesOf (Claims.size f) d.toNat) (Claims.size f + 1) = some u →
        ∃ t, exec i s = .next t ∧ t.ctxOf s.hart = base s ∧ t.mem = (u.bump (s.tenOf s.hart) n).mem
          ∧ t.scratch = s.scratch ∧ t.peerStores = s.peerStores
    | _ => ∃ t, exec i s = .next t ∧ Accessed s t (base s) 0
        ∧ Claims.Stored s t through ((bytesOf (Claims.size f) d.toNat).zipIdx.map (fun e => (va + e.2, e.1)))

/-- The form of a vector access, and whether it loads, with its path (07 R147). -/
def Sys2Proof.Claims.vecForm (f : TFields) (i : Instr) : Option (VForm × Bool × Path) :=
  let path : Path := if f.h.toNat % 4 = 3 then .once else .l1
  if i = .vld f then some (.flat, true, path) else if i = .vldb f then some (.flat, true, .home)
  else if i = .vlds f then some (.strided, true, path) else if i = .vldx f then some (.indexed, true, path)
  else if i = .vst f then some (.flat, false, path) else if i = .vsts f then some (.strided, false, path)
  else if i = .vstx f then some (.indexed, false, path) else none

/-- The address of the memory operand of a vector access. -/
def Sys2Proof.Claims.vecBase (s : State) (f : TFields) (form : VForm) : Option Nat :=
  if form = .flat then Claims.addrOf s f else (srcOf s f.a).map (fun x => x.toNat)

/-- The address of each element, and its nibble: a + i·z, a + i·S(b), or a + U(b[i])·z (07 R147). -/
def Sys2Proof.Claims.elemPlaces (s : State) (f : TFields) (form : VForm) (a bits : Nat) : Option (List (Nat × Nat)) :=
  let c := s.ctxOf s.hart
  let n := lanes c
  let z := Max.max 1 (bits / 8)
  match form with
  | .flat => some ((List.range n).map (fun i => if bits = 4 then (a + i / 2, i % 2) else (a + i * z, 0)))
  | .strided => match srcOf s f.b with
    | some b => if b.toNat % z = 0 then some ((List.range n).map (fun i => ((((a : Int) + i * b.toInt) % 2 ^ 64).toNat, 0))) else none
    | none => none
  | .indexed => (vecOf s f.b).map (fun b => (elems (laneWidth c) n b.toNat).map (fun k => ((a + k * z) % 2 ^ 64, 0)))

/-- The formats that the head of a vector access refuses: KV4, 4-bit elements out of order, and a BS4 store that is not of
whole unmasked blocks (07 R147). -/
def Sys2Proof.Claims.headRefuses (s : State) (f : TFields) (form : VForm) (load : Bool) (a : Nat) : Refuse := fun _ pg =>
  pg.fmt == 13 || (form != .flat && fmtBits pg.fmt == 4)
    || (!load && pg.fmt == 12 && !(a % (8 * 2 ^ (pg.geom % 4)) == 0 && decide (16 * 2 ^ (pg.geom % 4) ≤ lanes (s.ctxOf s.hart))
          && mField f.m 8 5 == 0))

/-- The element width of a page of format fmt: the lane width where it is RAW. -/
def Sys2Proof.Claims.elemBits (s : State) (fmt : Nat) : Nat := if fmt = 0 then laneWidth (s.ctxOf s.hart) else fmtBits fmt

/-- Elements have the format and geometry of the head's page. -/
def Sys2Proof.Claims.sameKind (pg : Page) : Refuse := fun _ q => q.fmt != pg.fmt || q.geom != pg.geom

/-- The vector loads: each lane that the mask selects gets its element, raw or converted in ascending order; a lane that
it does not keeps what D held or becomes zero. Nothing in memory changes (07 R147). -/
def Sys2Proof.Claims.VectorLoads : Prop :=
  ∀ (i : Instr) (s : State) (f : TFields) (form : VForm) (path : Path) (a : Nat) (n : BitVec 5) (loc : Loc) (pg : Page)
    (places : List (Nat × Nat)), ready i s = true → Claims.settled s → f.d = .v n → Claims.vecForm f i = some (form, true, path) →
    Claims.vecBase s f form = some a → allowed s a .read (Claims.headRefuses s f form true a) = some (loc, pg) →
    let c := s.ctxOf s.hart
    let bits := Claims.elemBits s pg.fmt
    let at_ := fun (j : Nat) (x : Nat × Nat) => Claims.Element s (Claims.sameKind pg) (places.getD j (0, 0)).1 (places.getD j (0, 0)).2
      path pg.fmt bits x.1 x.2
    a % (Max.max 1 (bits / 8)) = 0 → Claims.elemPlaces s f form a bits = some places →
    (∀ j < lanes c, (Claims.mask s f).getLsbD j = true → ∃ x, at_ j x) →
    (Claims.keeps f = true → (vecOf s f.d).isSome = true) →
    ∃ (t : State) (data : Nat → Nat × Nat), (∀ j < lanes c, (Claims.mask s f).getLsbD j = true → at_ j (data j)) ∧ exec i s = .next t
      ∧ (let out := Claims.outcome s (Claims.masked (Claims.mask s f) ((List.range (lanes c)).map (fun j =>
            if pg.fmt = 0 then pure (data j).1
            else Claims.converted c (laneFloat c) (mField f.m 13 11) (f.m.getLsbD 10) pg.fmt (data j).2 (data j).1)))
        let old := elems (laneWidth c) (lanes c) (c.v.get 0 n.toNat).toNat
        Accessed s t (setV out.2.2 n.toNat (BitVec.ofNat 2048 (packElems (laneWidth c)
          ((out.1.zip old).map (fun e => e.1.getD (if Claims.keeps f then e.2 else 0)))))) out.2.1 ∧ Untouched s t)

/-- A lane as an element of a format, with its flags and its draw (03 R45, R49). -/
def Sys2Proof.Claims.encoded (c : Ctx) (rnd : Nat) (sat : Bool) (fmt x : Nat) : Claims.Rn Nat :=
  if fmt = 0 then pure x
  else
    let v := laneVal c x
    let rounds := match fmtFloat fmt, laneFloat c with
      | some g, some l => g.width ≤ l.width
      | some _, none => true
      | none, some _ => true
      | none, none => false
    Claims.round c rnd (rounds && isFin v) (fun m => encodeElem fmt m sat (laneFloat c).isNone v)

/-- The byte at a place that a store of one nibble joins. -/
def Sys2Proof.Claims.before (s : State) (va : Nat) : Nat :=
  match placeOf s va with
  | some (.dev a, pg) => (if s.cached s.hart a pg then seenByte s (coreOf s.hart) a else s.homeByte a).toNat
  | _ => 0

/-- The bytes that the lanes of a vector store write, in lane order; xs gives a result for each lane that the mask selects.
The nibbles of one byte join. -/
def Sys2Proof.Claims.laneBytes (s : State) (bits : Nat) (places : List (Nat × Nat)) (xs : List (Option Nat)) : List (Nat × Byte) :=
  if bits = 4 then
    (List.range (xs.length / 2)).filterMap (fun k =>
      let va := (places.getD (2 * k) (0, 0)).1
      match xs.getD (2 * k) none, xs.getD (2 * k + 1) none with
      | none, none => none
      | lo, hi => some (va, BitVec.ofNat 8 (lo.getD (Claims.before s va % 16) + 16 * hi.getD (Claims.before s va / 16))))
  else (places.zip xs).flatMap (fun e => match e.2 with
    | some x => (bytesOf (bits / 8) x).zipIdx.map (fun b => (e.1.1 + b.2, b.1))
    | none => [])

/-- The blocks of a BS4 store: the codes of each, and its scale byte, which keeps the type that the old one names
(03 R54, 07 R147). -/
def Sys2Proof.Claims.blockBytes (c : Ctx) (rnd l a ssb shift : Nat) (old : Nat → Nat) (xs : List FV) : Claims.Rn (List (Nat × Byte)) := do
  let bs ← ((Claims.blocks l (lanes c / l) xs).zipIdx).mapM (fun b => do
    let modes ← b.1.mapM (fun _ => fun p => let q := Claims.modeOf { c with srseed := p.2 } rnd true; (q.1, (p.1, q.2)))
    let e := encodeBS4 (old b.2 / 64) modes b.1
    let _ ← Claims.exact ⟨0, e.2.2⟩
    let va := a + b.2 * (l / 2)
    pure ((bytesOf (l / 2) (packElems 4 e.2.1)).zipIdx.map (fun x => (va + x.2, x.1)),
      ((ssb + va / 2 ^ shift) % 2 ^ 64, BitVec.ofNat 8 e.1)))
  pure (bs.flatMap (·.1) ++ bs.map (·.2))

/-- The vector stores to memory and scratchpads: each lane that the mask selects is stored as its element, the higher lane's
value remaining where two name one; a store to a BS4 page stores whole blocks with new scales. No register but the flags
and the seed changes (07 R147). -/
def Sys2Proof.Claims.VectorStores : Prop :=
  ∀ (i : Instr) (s : State) (f : TFields) (form : VForm) (path : Path) (a : Nat) (d : Vec) (loc : Loc) (pg : Page)
    (places : List (Nat × Nat)), ready i s = true → Claims.settled s → vecOf s f.d = some d → Claims.vecForm f i = some (form, false, path) →
    Claims.vecBase s f form = some a → allowed s a .write (Claims.headRefuses s f form false a) = some (loc, pg) →
    let c := s.ctxOf s.hart
    let w := laneWidth c
    let bits := Claims.elemBits s pg.fmt
    let rnd := mField f.m 13 11
    let on := fun j => pg.fmt == 12 || (Claims.mask s f).getLsbD j
    a % (Max.max 1 (bits / 8)) = 0 → Claims.elemPlaces s f form a bits = some places →
    (∀ j < lanes c, on j = true → ∃ l p, allowed s (places.getD j (0, 0)).1 .write (Claims.sameKind pg) = some (l, p) ∧ ∀ n off, l ≠ .ln n off) →
    (pg.fmt ≠ 12 → ∃ t, exec i s = .next t
      ∧ (let out := Claims.outcome s (Claims.masked (Claims.mask s f) ((elems w (lanes c) d.toNat).map
            (Claims.encoded c rnd (f.m.getLsbD 10) pg.fmt)))
        Accessed s t out.2.2 out.2.1 ∧ Claims.Stored s t false (Claims.laneBytes s bits places out.1)))
    ∧ (pg.fmt = 12 →
      let l := 16 * 2 ^ (pg.geom % 4)
      let ssb := s.ssb (s.tenOf s.hart)
      let scaleVa := fun k => (ssb + (a + k * (l / 2)) / 2 ^ shadowShift pg.geom) % 2 ^ 64
      (∀ k < lanes c / l, ∃ q p bs, allowed s (scaleVa k) .write rawPage = some (q, p) ∧ Found s q p 1 .l1 bs ∧ ∀ n off, q ≠ .ln n off) →
      ∃ (t : State) (old : Nat → Nat), (∀ k < lanes c / l, ∃ q p bs, allowed s (scaleVa k) .write rawPage = some (q, p) ∧ Found s q p 1 .l1 bs ∧ old k = ofBytes bs)
        ∧ exec i s = .next t
        ∧ (let out := Claims.outcome s (Claims.blockBytes c rnd l a ssb (shadowShift pg.geom) old ((elems w (lanes c) d.toNat).map (laneVal c)))
          Accessed s t out.2.2 out.2.1 ∧ Claims.Stored s t false out.1))

/-- Scalar loads and scalar stores (07 R146). -/
def Obligations.ScalarAccesses : Prop := Claims.ScalarLoads ∧ Claims.ScalarStores

/-- Vector loads and vector stores (07 R147). -/
def Obligations.VectorAccesses : Prop := Claims.VectorLoads ∧ Claims.VectorStores

/-- The symbols that an allocation may take: free entries of the core's table, none where the thread's quota, which counts
as at least `least`, is used (11 R233, R234). -/
def Sys2Proof.Claims.freeSyms (s : State) (least : Nat) : List Nat :=
  match s.hart with
  | .core k _ => if Max.max (s.ctxOf s.hart).quota.toNat least ≤ (s.ctxOf s.hart).symRefs.length then []
      else (List.range 256).filter (fun i => (s.sym k i).isNone)
  | _ => []

/-- From s to t a free symbol of the core was allocated, pending, and the register of a key became late with (1, 0); a late
s0 is discarded with its symbol (07 R155, 11 R233). -/
def Sys2Proof.Claims.LateBy (s t : State) (i : Nat) (vec : Bool) (key : Nat) (src : Source) (least : Nat) : Prop :=
  ∃ k n, i ∈ Claims.freeSyms s least ∧ s.hart = .core k n
    ∧ t.sym k i = (if key = 0 ∧ (s.ctxOf s.hart).symRefs.contains i = false then none
        else some { ten := s.tenOf s.hart, thread := n, vec := vec, state := .pending, src := src })
    ∧ Accessed s { t with syms := t.syms.set none (k * 256 + i) none }
        (if key = 0 then base s else { base s with late := (s.ctxOf s.hart).late.set none key (some ⟨i, 1, 0, [], false⟩) }) 0

/-- The same, for some free symbol. -/
def Sys2Proof.Claims.BecameLate (s t : State) (vec : Bool) (key : Nat) (src : Source) (least : Nat) : Prop :=
  ∃ i, Claims.LateBy s t i vec key src least

/-- The bytes at a place are valid in the L1 of the hart's core. -/
def Sys2Proof.Claims.hitAt (s : State) (loc : Loc) (pg : Page) (n : Nat) : Bool :=
  match s.hart, loc with
  | .core c _, .dev pa => s.cached s.hart pa pg && (wordsOf pa n).all (fun w => (s.l1Get c w).isSome)
  | _, _ => false

/-- The place of an element is a hit. -/
def Sys2Proof.Claims.hitElem (s : State) (va n : Nat) : Bool :=
  match placeOf s va with
  | some (loc, pg) => Claims.hitAt s loc pg n
  | none => false

/-- What a late load found at its program point: whether it hit, the data, their conversion, and what D receives with the
flags and the registers. -/
structure Sys2Proof.Claims.LateRead where
  hit : Bool
  x   : Nat
  cv  : Conv
  out : Nat × Flags × Ctx

/-- LDL reads a number or, in its DEC form, an element; VLDL reads every element (07 R155). -/
def Sys2Proof.Claims.LateData (s : State) (i : Instr) (f : TFields) (r : Claims.LateRead) : Prop :=
  let c := s.ctxOf s.hart
  let path : Path := if f.h.toNat % 4 = 3 then .once else .l1
  (i = .ldl f ∧ f.m.getLsbD 3 = false ∧ ∃ va loc pg bs, Claims.addrOf s f = some va ∧ va % Claims.size f = 0
      ∧ allowed s va .read anyPage = some (loc, pg) ∧ Found s loc pg (Claims.size f) path bs
      ∧ r = ⟨Claims.hitAt s loc pg (Claims.size f), (Claims.loaded f (Claims.size f) (ofBytes bs)).toNat, .raw,
          ((Claims.loaded f (Claims.size f) (ofBytes bs)).toNat, 0, base s)⟩)
  ∨ (i = .ldl f ∧ f.m.getLsbD 3 = true ∧ ∃ va fmt x sb, Claims.addrOf s f = some va ∧ va % Max.max 1 (fmtBits fmt / 8) = 0
      ∧ Claims.Element s Claims.decPage va (if f.m.getLsbD 2 then 1 else 0) path fmt (fmtBits fmt) x sb
      ∧ r = ⟨Claims.hitElem s va (Max.max 1 (fmtBits fmt / 8)), if fmt = 12 then sb * 16 + x else x, .scalar fmt c.rm.toNat,
          Claims.outcome s (Claims.converted c (some fp32) 0 false fmt sb x)⟩)
  ∨ (i = .vldl f ∧ ∃ (a : Nat) (loc : Loc) (pg : Page) (data : Nat → Nat × Nat), Claims.addrOf s f = some a
      ∧ allowed s a .read (Claims.headRefuses s f .flat true a) = some (loc, pg)
      ∧ (let bits := Claims.elemBits s pg.fmt
        let z := Max.max 1 (bits / 8)
        let at_ := fun (j : Nat) => if bits = 4 then (a + j / 2, j % 2) else (a + j * z, 0)
        a % z = 0 ∧ (∀ j < lanes c, Claims.Element s (Claims.sameKind pg) (at_ j).1 (at_ j).2 path pg.fmt bits (data j).1 (data j).2)
        ∧ (let xs := (List.range (lanes c)).map (fun j => ((data j).1 : Nat))
          let sbs := (List.range (lanes c)).map (fun j => ((data j).2 : Nat))
          r = ⟨(List.range (lanes c)).all (fun j => Claims.hitElem s (at_ j).1 z), packElems bits xs,
            .vector pg.fmt c.fmt (if mField f.m 13 11 = 0 then c.rm.toNat else mField f.m 13 11 - 1) (f.m.getLsbD 10) sbs,
            Claims.outcome s (if pg.fmt = 0 then pure (packElems bits xs) else do
              let ys ← (xs.zip sbs).mapM (fun e => Claims.converted c (laneFloat c) (mField f.m 13 11) (f.m.getLsbD 10) pg.fmt e.2 e.1)
              pure (packElems (laneWidth c) ys))⟩)))

/-- LDL and VLDL write D at once where the access hits; where it misses, a symbol that holds what the access read at its
program point makes D late; without a free symbol the instruction waits, and its data then arrive first (07 R155; an
arrival without a symbol is log entry 9). -/
def Obligations.LateLoads : Prop :=
  ∀ (i : Instr) (s : State) (op : Nat) (f : TFields) (vec : Bool) (n : Nat), fieldsOf i = some (op, f) → readyCore i s = true →
    ((∃ d : BitVec 6, i = .ldl f ∧ vec = false ∧ f.d = .s d ∧ n = d.toNat) ∨ (∃ d : BitVec 5, i = .vldl f ∧ vec = true ∧ f.d = .v d ∧ n = d.toNat)) →
    (f.m.getLsbD 3 = false ∧ i = .ldl f ∨ Claims.settled s) → (∃ r, Claims.LateData s i f r) →
    ∃ r, Claims.LateData s i f r
      ∧ (let key := if vec then 64 + n else n
        let present : Prop := ∃ t, exec i s = .next t ∧ Untouched s t
          ∧ Accessed s t (if vec then setV r.out.2.2 n (BitVec.ofNat 2048 r.out.1) else setS r.out.2.2 n (BitVec.ofNat 64 r.out.1)) r.out.2.1
        (r.hit = true → present)
        ∧ (r.hit = false → Claims.freeSyms s 0 ≠ [] → ∃ t, exec i s = .next t ∧ Untouched s t
            ∧ Claims.BecameLate s t vec key (.load r.x r.cv 0) 0)
        ∧ (r.hit = false → Claims.freeSyms s 0 = [] → s.resumes s.hart op f = true → present)
        ∧ (r.hit = false → Claims.freeSyms s 0 = [] → s.resumes s.hart op f = false →
            exec i s = .next (s.setWait s.hart op f .waitLate 256 0)))

/-- What a byte at its home becomes when core c writes its copy back, if that is dirty. -/
def Sys2Proof.Claims.homeAfter (s : State) (c a : Nat) : Byte :=
  match s.l1Get c (a / 8) with
  | some x => if x.dirty then byteAt x.value a else s.homeByte a
  | none => s.homeByte a

/-- A word that was written back. -/
def Sys2Proof.Claims.cleaned (x : L1Word) : L1Word := if x.dirty then { x with dirty := false, own := true } else x

/-- PREF never traps: where the address passes its checks and its line may be cached, every word of the line is valid in the
L1 afterwards, and nothing that a core sees changes. FLUSHL writes the line's dirty words back and keeps the line; INVL
writes them back and drops it. What the core sees stays (07 R148). -/
def Obligations.CacheControl : Prop :=
  (∀ (s : State) (f : TFields) (va : Nat), ready (.pref f) s = true → Claims.addrOf s f = some va →
    ∃ t, exec (.pref f) s = .next t ∧ Accessed s t (base s) 0 ∧ Untouched s t
      ∧ ∀ c n pa pg, s.hart = .core c n → allowed s va .read anyPage = some (.dev pa, pg) → s.cached s.hart pa pg = true →
          f.h.toNat % 4 ≠ 3 → s.homePoisoned (pa / 256 * 256) 256 = false → ∀ w, w / 32 = pa / 256 → (t.l1Get c w).isSome = true)
  ∧ (∀ (i : Instr) (s : State) (f : TFields) (va : Nat) (loc : Loc) (pg : Page) (drop : Bool), ready i s = true →
    (i = .flushl f ∧ drop = false ∨ i = .invl f ∧ drop = true) → Claims.addrOf s f = some va →
    allowed s va .read anyPage = some (loc, pg) →
    ∃ t, exec i s = .next t ∧ Accessed s t (base s) 0 ∧ t.scratch = s.scratch ∧ t.spoison = s.spoison ∧ t.peerStores = s.peerStores
      ∧ (match s.hart, loc with
        | .core c _, .dev pa =>
          (∀ a < 2 ^ 52, t.homeByte a = if a / 256 = pa / 256 then Claims.homeAfter s c a else s.homeByte a)
          ∧ (∀ a < 2 ^ 52, seenByte t c a = seenByte s c a)
          ∧ (∀ w < 2 ^ 49, w / 32 = pa / 256 → t.l1Get c w = if drop then none else (s.l1Get c w).map Claims.cleaned)
          ∧ (∀ d w, w < 2 ^ 49 → w / 32 ≠ pa / 256 → t.l1Get d w = s.l1Get d w)
        | _, _ => Untouched s t))

/-- The old word of n bytes at the home of a place once the hart's dirty copy of it has been written back (07 R149). -/
def Sys2Proof.Claims.HomeOld (s : State) (loc : Loc) (n old : Nat) : Prop :=
  match loc with
  | .dev pa =>
    if s.regionOf pa = .pcie then ∃ k, s.freeCtr ≤ k ∧ old = ofBytes (bytesOf n (Config.freeNat k))
    else match s.hart with
      | .core c _ => (match s.l1Get c (pa / 8) with
          | some x => if x.dirty then x.poison = false else s.poison.get false (pa / 8) = false
          | none => s.poison.get false (pa / 8) = false)
        ∧ old = ofBytes ((List.range n).map (fun i => Claims.homeAfter s c (pa + i)))
      | _ => s.homePoisoned pa n = false ∧ old = s.homeNat pa n
  | .scr key off => s.scrPoisoned key off n = false ∧ old = ofBytes (s.scrBytes key off n)
  | .ln _ _ => False

/-- A byte at its home is as it was, or was written back from a dirty word of an L1. -/
def Sys2Proof.Claims.backed (s t : State) (a : Nat) : Prop :=
  t.homeByte a = s.homeByte a
    ∨ ∃ l x, s.l1.get none (l1Key l (a / 8)) = some x ∧ x.dirty = true ∧ t.homeByte a = byteAt x.value a

/-- No other L1 of a fused cluster holds the word: where it is held, it is held in the L1 that its line selects. -/
def Sys2Proof.Claims.alone (s : State) (c w : Nat) : Prop :=
  ∀ l ∈ s.l1Members c, l ≠ s.l1Of c w → s.l1.get none (l1Key l w) = none

/-- From s to t the n bytes x were written at the home of a place: there the bytes read x, and every other byte is as it
was or was written back; nothing but the object's own word is written back where `only` holds. -/
def Sys2Proof.Claims.HomeStored (s t : State) (loc : Loc) (n x : Nat) (only : Bool) : Prop :=
  match loc with
  | .dev pa =>
    t.scratch = s.scratch
    ∧ (∀ a < 2 ^ 52, ¬ (pa ≤ a ∧ a < pa + n) → Claims.backed s t a ∧ (only = true → a / 8 ≠ pa / 8 → t.homeByte a = s.homeByte a))
    ∧ (if s.regionOf pa = .pcie then ∀ a < 2 ^ 52, Claims.backed s t a
      else t.homeBytes pa n = bytesOf n x ∧ t.owner.get 2047 (pa / 8) = agentOf s.hart
        ∧ ∀ c k, s.hart = .core c k → t.l1Get c (pa / 8) = none)
  | .scr key off =>
    (∀ a < 2 ^ 52, Claims.backed s t a ∧ (only = true → t.homeByte a = s.homeByte a))
    ∧ t.scrBytes key off n = bytesOf n x
    ∧ ∀ k o, o < 2 ^ 18 → ¬ (k = key ∧ off ≤ o ∧ o < off + n) → t.scratch.get 0 (scrKey k o) = s.scratch.get 0 (scrKey k o)
  | .ln _ _ => False

/-- A word of device memory is the one at a place. -/
def Sys2Proof.Claims.wordAt (loc : Loc) (w : Nat) : Bool :=
  match loc with
  | .dev pa => w == pa / 8
  | _ => false

/-- The regions that the thread binds to an object, as memory stands in s, and as the translations lead that t has cached. -/
def Sys2Proof.Claims.bound (s t : State) (va : Nat) : List (Nat × Nat) :=
  ({ s with tlb := t.tlb } : State).boundRanges s.hart (s.tenOf s.hart) va

/-- What becomes of the words of a core's L1 but those of the object from s to t: a dirty one that `back` selects is written back, and
stays, owned and clean; a clean one that is not owned and that `drop` selects is dropped; every other, and its bytes at the
home, are as they were (07 R143, 10 R219). -/
def Sys2Proof.Claims.Ordered (s t : State) (object : Nat → Bool) (back : Nat → L1Word → Bool) (drop : Nat → Bool) : Prop :=
  ∀ c k, s.hart = .core c k → ∀ w < 2 ^ 49, Claims.alone s c w → object w = false →
    t.l1Get c w = (match s.l1Get c w with
      | some x => if x.dirty && back w x then some (Claims.cleaned x) else if drop w && !x.dirty && !x.own then none else some x
      | none => none)
    ∧ ∀ a, a / 8 = w → t.homeByte a = match s.l1Get c w with
      | some x => if x.dirty && back w x then byteAt x.value a else s.homeByte a
      | none => s.homeByte a

/-- The orders that an atomic on an object keeps: `.rel` writes back every dirty word of the thread's tenant and of the regions
bound to the object, `.acq` drops the clean words of the bound lines that the core does not own (07 R149, 10 R225). -/
def Sys2Proof.Claims.OrderedBy (s t : State) (f : TFields) (va : Nat) (loc : Loc) : Prop :=
  Claims.Ordered s t (Claims.wordAt loc)
    (fun w x => f.m.getLsbD 9 && (x.ten == s.tenOf s.hart || inRanges (Claims.bound s t va) w))
    (fun w => f.m.getLsbD 8 && lineInRanges (Claims.bound t t va) w)

/-- The new word of an atomic from the old one and the operand, n bytes each; AMIN and AMAX are signed without UNS (07 R149). -/
def Sys2Proof.Claims.atomicOf (f : TFields) (n old d : Nat) : Instr → Option Nat
  | .aadd _ => some (old + d)
  | .amin _ => some (if (if f.m.getLsbD 2 then decide (old ≤ d) else decide ((BitVec.ofNat (8 * n) old).toInt ≤ (BitVec.ofNat (8 * n) d).toInt)) then old else d)
  | .amax _ => some (if (if f.m.getLsbD 2 then decide (old ≤ d) else decide ((BitVec.ofNat (8 * n) old).toInt ≤ (BitVec.ofNat (8 * n) d).toInt)) then d else old)
  | .aand _ => some (old &&& d)
  | .aor _ => some (old ||| d)
  | .axor _ => some (old ^^^ d)
  | .aswap _ => some d
  | .ainc _ => some (old + 1)
  | _ => none

/-- The atomics act at the home: the word becomes the new value mod 2^(8n), D receives the old one, the home registers this
agent, and the core's own copy is dropped. ACAS leaves sE+1; AFADD rounds once. Under `.rel` the dirty words of the thread's
tenant and of the bound regions are written back, and under `.acq` the bound lines are self-invalidated (07 R149; 10 R225). -/
def Obligations.Atomics : Prop :=
  ∀ (i : Instr) (s : State) (f : TFields) (va : Nat) (loc : Loc) (pg : Page) (n : Nat), ready i s = true →
    Claims.addrOf s f = some va → n = (if i = .afadd f then 4 else Claims.size f) → 4 ≤ n → va % n = 0 →
    allowed s va .atomic homePage = some (loc, pg) →
    (∀ c k pa, s.hart = .core c k → loc = .dev pa → f.m.getLsbD 9 = true → Claims.alone s c (pa / 8)) →
    (∃ old, Claims.HomeOld s loc n old) →
    (∀ (e : BitVec 6) (d : Word), f.d = .s e → (i = .ainc f ∨ srcOf s f.d = some d) →
      (∀ old, (Claims.atomicOf f n old (d.toNat % 2 ^ (8 * n)) i).isSome = true) →
      ∃ t old x, Claims.HomeOld s loc n old ∧ Claims.atomicOf f n old (d.toNat % 2 ^ (8 * n)) i = some x ∧ exec i s = .next t
        ∧ Accessed s t (setS (base s) e.toNat (BitVec.ofNat 64 old)) 0 ∧ Claims.HomeStored s t loc n x (!f.m.getLsbD 9)
        ∧ Claims.OrderedBy s t f va loc)
    ∧ (∀ (e : BitVec 5) (x y : Word), i = .acas f → f.d = .w e → pairOf s f.d = some (x, y) →
      ∃ t old, Claims.HomeOld s loc n old ∧ exec i s = .next t
        ∧ Accessed s t (setS (base s) (2 * e.toNat) (BitVec.ofNat 64 old)) 0
        ∧ Claims.HomeStored s t loc n (if old = x.toNat % 2 ^ (8 * n) then y.toNat else old) (!f.m.getLsbD 9)
        ∧ Claims.OrderedBy s t f va loc)
    ∧ (∀ (e : BitVec 6) (d : Nat), i = .afadd f → f.d = .s e → fpOf s f.d = some d →
      ∃ t old, Claims.HomeOld s loc n old ∧ exec i s = .next t
        ∧ (let k := fun m => addF fp32 m (decodeF fp32 old) (decodeF fp32 d)
          let m := Claims.modeOf (s.ctxOf s.hart) (mField f.m 13 11) (Claims.numeric k)
          Accessed s t (setS (addFlags { base s with srseed := m.2 } (k m.1).fl) e.toNat (BitVec.ofNat 64 old)) (k m.1).fl
          ∧ Claims.HomeStored s t loc n (k m.1).bits (!f.m.getLsbD 9) ∧ Claims.OrderedBy s t f va loc))

/-- The home word of a place without any write-back. -/
def Sys2Proof.Claims.HomeNow (s : State) (loc : Loc) (pg : Page) (n v : Nat) : Prop := ∃ bs, Found s loc pg n .home bs ∧ v = ofBytes bs

/-- A condition of ACQ on unsigned numbers (05 R97, 07 R151). -/
def Sys2Proof.Claims.holds (cond v d : Nat) : Prop :=
  (cond = 0 ∧ v = d) ∨ (cond = 1 ∧ v ≠ d) ∨ (cond = 2 ∧ v < d) ∨ (cond = 3 ∧ v ≤ d) ∨ (cond = 4 ∧ d < v) ∨ (cond = 5 ∧ d ≤ v)

/-- The state after the port writes in the ingress of the hart's die have been performed, which an acquire at DIE and wider
waits for (10 R228). -/
def Sys2Proof.Claims.ported (s : State) (scope : Nat) : State := if scope < 3 then s else s.drainIngress (dieOf s.hart)

/-- An acquire of this scope self-invalidates every word: at CLUSTER unless the L1 is fused, at DIE and wider always
(07 R152). -/
def Sys2Proof.Claims.acquiresAll (s : State) (scope : Nat) : Bool :=
  decide (3 ≤ scope) || (decide (scope = 2) && !s.fused.get false (clusterOf s.hart))

/-- Every home, scratchpad and poison bit is as it was. -/
def Sys2Proof.Claims.homesKept (s t : State) : Prop :=
  t.mem = s.mem ∧ t.poison = s.poison ∧ t.owner = s.owner ∧ t.scratch = s.scratch ∧ t.spoison = s.spoison ∧ t.peerStores = s.peerStores

/-- A report through the guard predicate: it reads false afterwards (07 R144). -/
def Sys2Proof.Claims.guardOff (s : State) (f : TFields) (c : Ctx) : Ctx :=
  setP c f.g.p.toNat (if f.g.neg then onesBelow (lanes (s.ctxOf s.hart)) else 0)

/-- REL writes back the dirty words of the regions that the thread binds to the object and then adds to its word; ACQ writes
the word to D and self-invalidates the bound lines once its condition holds, reports under NB, and else waits. LDA is a home
read, with the acquire of its object and scope, and STR a home write after the release of both: at CORE and wider the
dirty words of the tenant, at any scope those of the bound regions. A FENCE writes back and self-invalidates by its scope.
An acquire at DIE and wider first performs the die's port writes, and a DOMAIN release waits while a store of the thread
to another package is not acknowledged (07 R151, R152; 10 R228). -/
def Obligations.AcquireAndRelease : Prop :=
  (∀ (s : State) (f : TFields) (va : Nat) (loc : Loc) (pg : Page) (d : Word), ready (.rel f) s = true →
    Claims.addrOf s f = some va → va % 8 = 0 → allowed s va .atomic homePage = some (loc, pg) →
    (f.d = .none ∧ d = 1 ∨ srcOf s f.d = some d ∧ f.d ≠ .none) →
    (∀ c k pa, s.hart = .core c k → loc = .dev pa → Claims.alone s c (pa / 8)) → (∃ old, Claims.HomeOld s loc 8 old) →
    ∃ t old, Claims.HomeOld s loc 8 old ∧ exec (.rel f) s = .next t ∧ Accessed s t (base s) 0
      ∧ Claims.HomeStored s t loc 8 (old + d.toNat) false
      ∧ Claims.Ordered s t (Claims.wordAt loc) (fun w _ => inRanges (Claims.bound s t va) w) (fun _ => false))
  ∧ (∀ (s : State) (f : TFields) (va : Nat) (loc : Loc) (pg : Page) (d : Word), ready (.acq f) s = true →
    Claims.addrOf s f = some va → va % 8 = 0 → allowed s va .read homePage = some (loc, pg) → mField f.m 3 0 ≤ 5 →
    (f.d = .none ∧ d = 0 ∨ ∃ e, f.d = .s e ∧ srcOf s f.d = some d) → (∃ v, Claims.HomeNow s loc pg 8 v) →
    ∃ v, Claims.HomeNow s loc pg 8 v
      ∧ (let put := fun (c : Ctx) => match f.d with | .s e => setS c e.toNat (BitVec.ofNat 64 v) | _ => c
        ((f.d = .none ∨ Claims.holds (mField f.m 3 0) v d.toNat) → ∃ t, exec (.acq f) s = .next t ∧ Accessed s t (put (base s)) 0
          ∧ Claims.homesKept s t
          ∧ Claims.Ordered s t (fun _ => false) (fun _ _ => false) (lineInRanges (Claims.bound s t va)))
        ∧ (f.d ≠ .none → ¬ Claims.holds (mField f.m 3 0) v d.toNat →
          (f.m.getLsbD 4 = true → ∃ t, exec (.acq f) s = .next t ∧ Accessed s t (put (Claims.guardOff s f (base s))) 0 ∧ Untouched s t)
          ∧ (f.m.getLsbD 4 = false → exec (.acq f) s = .next (s.setWait s.hart 0x11C f .waitAcq va 0)))))
  ∧ (∀ (s : State) (f : TFields) (va : Nat) (loc : Loc) (pg : Page) (e : BitVec 6), ready (.lda f) s = true → f.d = .s e →
    Claims.addrOf s f = some va → va % Claims.size f = 0 → allowed s va .read anyPage = some (loc, pg) →
    (∃ v, Claims.HomeNow s loc pg (Claims.size f) v) →
    let u := Claims.ported s (mField f.m 7 5)
    ∃ t v, Claims.HomeNow s loc pg (Claims.size f) v ∧ exec (.lda f) s = .next t
      ∧ Accessed u t (setS (base s) e.toNat (BitVec.ofNat 64 v)) 0 ∧ Claims.homesKept u t
      ∧ Claims.Ordered u t (fun _ => false) (fun _ _ => false)
          (fun w => Claims.acquiresAll s (mField f.m 7 5) || lineInRanges (Claims.bound s t va) w))
  ∧ (∀ (s : State) (f : TFields) (va : Nat) (loc : Loc) (pg : Page) (d : Word), ready (.str f) s = true → srcOf s f.d = some d →
    Claims.addrOf s f = some va → va % Claims.size f = 0 → allowed s va .atomic homePage = some (loc, pg) →
    let late := fun (p : Nat × Nat) => mField f.m 7 5 == 5 && (match s.hart with | .core c k => p.1 == c * 16 + k | _ => false)
    (s.peerStores.find? late = none → (∀ c k pa, s.hart = .core c k → loc = .dev pa → Claims.alone s c (pa / 8)) →
      ∃ t, exec (.str f) s = .next t ∧ Accessed s t (base s) 0 ∧ Claims.HomeStored s t loc (Claims.size f) d.toNat false
        ∧ Claims.Ordered s t (Claims.wordAt loc)
            (fun w x => (decide (1 ≤ mField f.m 7 5) && x.ten == s.tenOf s.hart) || inRanges (Claims.bound s t va) w) (fun _ => false))
    ∧ (∀ p, s.peerStores.find? late = some p → exec (.str f) s = .next (s.setWait s.hart 0x120 f .waitAcq p.2 1)))
  ∧ (∀ (s : State) (f : TFields) (c k : Nat), ready (.fence f) s = true → s.hart = .core c k →
    let scope := mField f.m 7 5
    let back := fun (_ : Nat) (x : L1Word) => f.m.getLsbD 9 && decide (1 ≤ scope) && x.ten == s.tenOf s.hart
    let late := fun (p : Nat × Nat) => f.m.getLsbD 9 && scope == 5 && p.1 == c * 16 + k
    (s.peerStores.find? late = none → ∃ t u, exec (.fence f) s = .next t
      ∧ Accessed s u (base s) 0 ∧ u.scratch = s.scratch ∧ u.spoison = s.spoison ∧ u.peerStores = s.peerStores
      ∧ Claims.Ordered s u (fun _ => false) back (fun _ => false)
      ∧ (let v := if f.m.getLsbD 8 then Claims.ported u scope else u
        Accessed v t (base s) 0 ∧ Claims.homesKept v t
        ∧ Claims.Ordered v t (fun _ => false) (fun _ _ => false) (fun _ => f.m.getLsbD 8 && Claims.acquiresAll s scope)))
    ∧ (∀ p, s.peerStores.find? late = some p → exec (.fence f) s = .next (s.setWait s.hart 0x11E f .waitAcq p.2 1)))
  ∧ (∀ (s : State) (f : TFields), ready (.fence f) s = true → isCore s.hart = false →
    let u := if f.m.getLsbD 8 then Claims.ported s (mField f.m 7 5) else s
    ∃ t, exec (.fence f) s = .next t ∧ Accessed u t (base s) 0 ∧ Untouched u t)

/-- A byte of the state word, the wait object or the wait count in the saved image of some thread that is out (02 R36). -/
def Sys2Proof.Claims.inImage (s : State) (a : Nat) : Prop :=
  ∃ j, (s.threads.get Thread.zero j).saved = true
    ∧ s.imageAt (j / 16384) (j / 16 % 1024) (j % 16) + 0x2408 ≤ a ∧ a < s.imageAt (j / 16384) (j / 16 % 1024) (j % 16) + 0x2420

/-- WAITW gives the word once it differs from D and else waits on its address; WAITW.WAKE makes every thread that waits so on
the word, whether or not its context is out, ready to return its value, and writes nothing but the state words of the
saved images of threads that are out (07 R153). -/
def Obligations.WordWaits : Prop :=
  (∀ (s : State) (f : TFields) (va : Nat) (loc : Loc) (pg : Page) (e : BitVec 6) (d : Word), ready (.waitw f) s = true → f.d = .s e →
    Claims.addrOf s f = some va → srcOf s f.d = some d → va % Claims.size f = 0 → allowed s va .read homePage = some (loc, pg) →
    (s.resumes s.hart 0x121 f = true → (s.ctxOf s.hart).waitCnt ≠ 1) → (∃ v, Claims.HomeNow s loc pg (Claims.size f) v) →
    ∃ v, Claims.HomeNow s loc pg (Claims.size f) v
      ∧ (v ≠ d.toNat % 2 ^ (8 * Claims.size f) → ∃ t, exec (.waitw f) s = .next t
          ∧ Accessed s t (setS (base s) e.toNat (BitVec.ofNat 64 v)) 0 ∧ Untouched s t)
      ∧ (v = d.toNat % 2 ^ (8 * Claims.size f) → exec (.waitw f) s = .next (s.setWait s.hart 0x121 f .waitAcq va 0)))
  ∧ (∀ (s : State) (f : TFields) (va : Nat) (e : BitVec 6) (d : Word), ready (.waitw f) s = true → f.d = .s e →
    Claims.addrOf s f = some va → srcOf s f.d = some d → s.resumes s.hart 0x121 f = true → (s.ctxOf s.hart).waitCnt = 1 →
    ∃ t, exec (.waitw f) s = .next t ∧ Untouched s t
      ∧ Accessed s t (setS (base s) e.toNat (BitVec.ofNat 64 ((s.ctxOf s.hart).waitObj.toNat % 2 ^ (8 * Claims.size f)))) 0)
  ∧ (∀ (s : State) (f : TFields) (va : Nat) (loc : Loc) (pg : Page), ready (.waitwWake f) s = true →
    Claims.addrOf s f = some va → va % Claims.size f = 0 → allowed s va .read homePage = some (loc, pg) →
    ∃ t, exec (.waitwWake f) s = .next t ∧ t.ctxOf s.hart = base s ∧ t.scratch = s.scratch ∧ t.peerStores = s.peerStores
      ∧ (∀ a < 2 ^ 52, ¬ Claims.inImage s a → t.homeByte a = s.homeByte a ∧ ∀ d, seenByte t d a = seenByte s d a)
      ∧ ∀ j w, let x := s.threads.get Thread.zero j
          let y := t.threads.get Thread.zero j
          let h : HartId := .core (j / 16 % 1024) (j % 16)
          (∀ c k, s.hart = .core c k → j ≠ thKey (s.core c).tenant c k) → x.waiting = some (0x121, w) →
          x.ctx.run = .waitAcq → x.ctx.waitCnt = 0 →
          (({ s with tlb := t.tlb } : State).locate h (j / 16384) x.ctx.waitObj.toNat).2.map (·.1) = some loc →
          y.ctx.run = .ready ∧ y.ctx.waitCnt = 1 ∧ y.stamp = s.now (j / 16 % 1024)
          ∧ y.ctx.waitObj = BitVec.ofNat 64 (match loc with
            | .dev pa => s.homeNat pa (Claims.size w)
            | .scr key off => ofBytes (s.scrBytes key off (Claims.size w))
            | .ln _ _ => 0))

/-! ### Bindings, pins, tasks, packets, channels (07 R150 to R162) -/

/-- The key of the scratchpad page that an address in a window of the issuing core's cluster names (07 R154). -/
def Sys2Proof.Claims.pinKey (s : State) (va : Nat) : Option Nat :=
  let base := s.windowBase (s.tenOf s.hart)
  if base ≤ va ∧ va < base + 48 * 0x40000 then
    some (tcKey (s.tenOf s.hart) (clusterOf s.hart * 48 + (va - base) / 0x40000) * 64 + (va - base) % 0x40000 / 4096)
  else none

/-- The pinned pages of the core of a page. -/
def Sys2Proof.Claims.pinned (s : State) (key : Nat) : Nat :=
  (s.pins.filter (fun e => e.1 / 64 % 1024 == key / 64 % 1024 && e.2 != 0)).length

/-- BIND adds an entry to the binding table, or traps on an ill-formed value or a full table; UNBIND removes the thread's
entries with the object, and base where A is given; PINSP raises the pin count of a page and brings it into a frame; it
reports or traps where every frame is pinned; UNPINSP lowers the count; an address outside the cluster's windows raises
PAGE_FAULT (07 R150, R154). -/
def Obligations.BindingsAndPins : Prop :=
  (∀ (s : State) (f : TFields) (c k : Nat) (obj base_ len : Word), ready (.bind f) s = true → s.hart = .core c k →
    srcOf s f.d = some obj → srcOf s f.a = some base_ → srcOf s f.b = some len →
    let bad : Option Nat := if obj.toNat % 8 ≠ 0 then some obj.toNat else if base_.toNat % 256 ≠ 0 then some base_.toNat
      else if len.toNat % 256 = 0 ∧ 256 ≤ len.toNat ∧ len.toNat ≤ 2 ^ 40 then none else some len.toNat
    (∀ v, bad = some v → exec (.bind f) s = .next (Claims.trapOf s 0x11A f cILLEGAL_OPERAND v))
    ∧ (bad = none → 64 ≤ (s.bindingsOf c).length → exec (.bind f) s = .next (Claims.trapOf s 0x11A f cBINDING obj.toNat))
    ∧ (bad = none → (s.bindingsOf c).length < 64 → ∃ t, exec (.bind f) s = .next t
        ∧ HartOnly s { t with bindings := s.bindings } (base s) 0
        ∧ (∀ j ≠ tcKey (s.core c).tenant c, t.bindings.get [] j = s.bindings.get [] j)
        ∧ t.bindingsOf c = s.bindingsOf c ++ [{ thread := k, obj := obj.toNat, base := base_.toNat, len := len.toNat, suspended := false }]))
  ∧ (∀ (s : State) (f : TFields) (c k : Nat) (obj base_ : Word), ready (.unbind f) s = true → s.hart = .core c k →
    srcOf s f.d = some obj → (f.a = .none ∧ base_ = 0 ∨ srcOf s f.a = some base_) →
    ∃ t, exec (.unbind f) s = .next t ∧ HartOnly s { t with bindings := s.bindings } (base s) 0
      ∧ (∀ j ≠ tcKey (s.core c).tenant c, t.bindings.get [] j = s.bindings.get [] j)
      ∧ t.bindingsOf c = (s.bindingsOf c).filter (fun b => !(b.thread == k && b.obj == obj.toNat && !b.suspended
          && (f.a == .none || b.base == base_.toNat))))
  ∧ (∀ (s : State) (f : TFields) (va key : Nat), readyCore (.pinsp f) s = true → Claims.addrOf s f = some va →
    Claims.pinKey s va = some key → (f.d = .none ∨ ∃ p, f.d = .p p) →
    let room := s.resident.get false key || decide (Claims.pinned s key < 64)
    (room = true → ∃ t, exec (.pinsp f) s = .next t
      ∧ Accessed s { t with pins := s.pins, resident := s.resident }
          (match f.d with | .p p => setP (base s) p.toNat (onesBelow (lanes (base s))) | _ => base s) 0 ∧ Untouched s t
      ∧ t.pins.get 0 key = Min.min 255 (s.pins.get 0 key + 1) ∧ t.resident.get false key = true
      ∧ (∀ j ≠ key, t.pins.get 0 j = s.pins.get 0 j)
      ∧ (s.resident.get false key = true → ∀ j, t.resident.get false j = s.resident.get false j))
    ∧ (room = false → f.m.getLsbD 4 = true → ∃ t, exec (.pinsp f) s = .next t ∧ HartOnly s t (Claims.guardOff s f (base s)) 0)
    ∧ (room = false → f.m.getLsbD 4 = false → exec (.pinsp f) s = .next (Claims.trapOf s 0x122 f cPIN_LIMIT va)))
  ∧ (∀ (s : State) (f : TFields) (va key : Nat), readyCore (.unpinsp f) s = true → Claims.addrOf s f = some va →
    Claims.pinKey s va = some key →
    ∃ t, exec (.unpinsp f) s = .next t ∧ HartOnly s { t with pins := s.pins } (base s) 0
      ∧ t.pins.get 0 key = s.pins.get 0 key - 1 ∧ ∀ j ≠ key, t.pins.get 0 j = s.pins.get 0 j)
  ∧ (∀ (i : Instr) (s : State) (op : Nat) (f : TFields) (va : Nat), fieldsOf i = some (op, f) → readyCore i s = true →
    (i = .pinsp f ∨ i = .unpinsp f) → Claims.addrOf s f = some va → Claims.pinKey s va = none →
    exec i s = .next (s.pageStop s.hart (some (op, f)) va .read (ignorableOf op cPAGE_FAULT) (destsOf op f)))

/-- The registers of a unit at its start: those of a hart that has run nothing, but for the seed, the handles and the
launch (02 R32). -/
def Sys2Proof.Claims.fresh (s : State) (c n : Nat) (l : Option Nat) : Ctx :=
  { Ctx.zero with
    srseed := 0x9E3779B9 ^^^ BitVec.ofNat 32 (s.cidOf c * 16 + n)
    handles := match s.launchOf l with | some x => handlesOf x.hmap | none => []
    launch := match s.launchOf l with | some x => x.desc | none => 0
    run := .ready }

/-- EXIT ends the unit: the thread's symbols and bindings go, and the parent of an inline child resumes with its registers,
or the thread is FREE and takes the core's next work. A record that a free thread takes from the bottom of its deque starts
with the registers of 02 R32; of a range record without a join block it takes one grain, and the rest stays (05 R101;
07 R150, R156; 09 R197, R201, R202; 11 R233). -/
def Obligations.UnitsEndAndStart : Prop :=
  (∀ (s : State) (f : TFields) (c n : Nat), ready (.exit f) s = true → s.hart = .core c n →
    ∃ t, exec (.exit f) s = .next t ∧ t = (entered s).exitUnit c n 0 (s.ctxOf s.hart).pc.toNat)
  ∧ (∀ (s : State) (c n how pc : Nat), c < 1024 → n < 16 → s.msgsOf c = [] → s.dequeOf c = [] → s.spillOf c = [] →
    (s.thread c n).inl = none →
    let t := s.exitUnit c n how pc
    t.thread c n = { Thread.zero with stamp := (s.thread c n).stamp }
    ∧ (∀ i, (s.thread c n).ctx.symRefs.contains i = true → t.sym c i = none)
    ∧ t.bindingsOf c = (s.bindingsOf c).filter (fun b => b.thread != n || b.suspended)
    ∧ ∀ d k, d < 1024 → k < 16 → (d, k) ≠ (c, n) → t.thread d k = s.thread d k)
  ∧ (∀ (s : State) (c n how pc : Nat) (p : Inline), c < 1024 → n < 16 → (s.thread c n).inl = some p →
    (∀ i ∈ p.ctx.symRefs, (s.thread c n).ctx.symRefs.contains i = false ∧ ∃ y, s.sym c i = some y ∧ y.state = .pending) →
    let t := s.exitUnit c n how pc
    (t.thread c n).ctx = { p.ctx with run := .ready } ∧ (t.thread c n).inl = none ∧ (t.thread c n).start = p.start
    ∧ (t.thread c n).ctr = p.ctr ∧ (t.thread c n).launch = (s.thread c n).launch)
  ∧ (∀ (s : State) (c n : Nat) (r : Record) (rest : List Record), c < 1024 → n < 16 → s.canTake c n = true → s.msgsOf c = [] →
    s.dequeHeld (s.core c).tenant c = false → s.dequeOf c = r :: rest → r.fault = none →
    let m := Min.min (r.lo.toNat + r.grain.toNat) r.hi.toNat
    let t := s.takeWork c n
    let starts := fun (lo hi : Word) => (t.thread c n).start = .record r lo hi ∧ (t.thread c n).launch = r.launch
      ∧ (t.thread c n).ctx = { Claims.fresh s c n r.launch with
          frame := r.frame, joinc := r.joinc, policy := BitVec.ofNat 4 (r.pol % 4 + 4 * (r.bud % 4)), lo := lo, hi := hi, low := r.low,
          pc := r.code }
      ∧ ∀ d k, d < 1024 → k < 16 → (d, k) ≠ (c, n) → t.thread d k = s.thread d k
    (r.range = false → starts 0 0 ∧ (rest ≠ [] ∨ s.spillOf c = [] → t.dequeOf c = rest))
    ∧ (r.range = true → m = r.hi.toNat → starts r.lo (BitVec.ofNat 64 m) ∧ (rest ≠ [] ∨ s.spillOf c = [] → t.dequeOf c = rest))
    ∧ (r.range = true → m ≠ r.hi.toNat → r.joinc = 0 →
        starts r.lo (BitVec.ofNat 64 m) ∧ t.dequeOf c = { r with lo := BitVec.ofNat 64 m, addr := 0 } :: rest))

/-- The record of a SPAWN or SPAWNR: its domain, policy, budget and class as selected or inherited (07 R156). -/
def Sys2Proof.Claims.child (s : State) (f : LFields) (c k : Nat) (a b : Word) (range : Bool) : Record :=
  let x := s.ctxOf s.hart
  let l := (s.thread c k).launch
  let plc := mField f.m 2 0
  { code := Claims.target s f.imm
    frame := if range then x.frame else a
    joinc := if range then x.joinc else b
    lo := if range then a else 0
    hi := if range then b else 0
    grain := if range then BitVec.ofNat 64 (2 ^ mField f.m 13 10) else 0
    parent := x.frame
    dom := if mField f.m 9 7 = 0 then s.launchDom l else mField f.m 9 7
    low := if mField f.m 6 5 = 0 then x.low else mField f.m 6 5 == 2
    range := range
    bud := if plc = 0 then x.policy.toNat / 4 else mField f.m 4 3
    pol := if plc = 0 then x.policy.toNat % 4 else plc - 1
    launch := l
    addr := 0 }

/-- From s to u the release part of a scope was made, apart from the words of an object: the dirty words of the tenant are
written back at CORE and wider, and the registers are those of the next instruction (07 R152). -/
def Sys2Proof.Claims.released (s u : State) (scope : Nat) (object : Nat → Bool) : Prop :=
  Accessed s u (base s) 0 ∧ (∀ a < 2 ^ 52, Claims.backed s u a) ∧ u.scratch = s.scratch ∧ u.peerStores = s.peerStores
  ∧ Claims.Ordered s u object (fun _ x => decide (1 ≤ scope) && x.ten == s.tenOf s.hart) (fun _ => false)

/-- A store of a thread to another package that is not acknowledged, where a release at DOMAIN waits for it (07 R152). -/
def Sys2Proof.Claims.unacked (s : State) (scope c k : Nat) : Option (Nat × Nat) := s.peerStores.find? (fun p => scope == 5 && p.1 == c * 16 + k)

/-- SPAWN and SPAWNR push one record, a full deque first moving its top to the spill area, or run it inline where there is
no room at all, and wait where the inline slot is taken or a page fault holds the deque; a domain beyond the launch's
traps, and an empty range pushes nothing. JOIN makes its release and lowers COUNT: the last arrival makes its acquire and
continues, every other ends the unit; an address that fails its checks, a poisoned block and a COUNT of 0 trap; without a
block the unit ends (07 R156, R157; 09 R199, R201). -/
def Obligations.Continuations : Prop :=
  (∀ (i : Instr) (s : State) (op : Nat) (f : LFields) (c k : Nat) (a b : Word) (range : Bool), ready i s = true → s.hart = .core c k →
    (i = .spawn f ∧ range = false ∧ op = 0x140 ∨ i = .spawnr f ∧ range = true ∧ op = 0x141) → pairOf s f.d = some (a, b) →
    let fits : Prop := mField f.m 9 7 ≤ s.launchDom (s.thread c k).launch
    let full : Prop := (range = true → a.toNat < b.toNat) ∧ s.dequeHeld (s.core c).tenant c = false ∧ s.dequeFull c = true
    let r := Claims.child s f c k a b range
    (¬ fits → exec i s = .next (Claims.trapOf s op (headFields f) cILLEGAL_OPERAND 0))
    ∧ (fits → range = true → b.toNat ≤ a.toNat → ∃ t, exec i s = .next t ∧ HartOnly s t (base s) 0)
    ∧ (fits → (range = true → a.toNat < b.toNat) → s.dequeHeld (s.core c).tenant c = false → s.dequeFull c = false →
        ∃ t, exec i s = .next t ∧ t = (((entered s).pushBottom c r).countThread c k 14 1).feed c)
    ∧ (fits → full → (s.thread c k).inl = none → ∃ t, exec i s = .next t ∧ t = (entered s).runInline c k r)
    ∧ (fits → (range = true → a.toNat < b.toNat) →
        (s.dequeHeld (s.core c).tenant c = true ∨ s.dequeFull c = true ∧ (s.thread c k).inl ≠ none) →
        exec i s = .next (s.setWait s.hart op (headFields f) .waitChannel 256 0)))
  ∧ (∀ (s : State) (c : Nat) (r : Record),
    (s.pushBottom c r).dequeOf c = r :: (if 64 ≤ (s.dequeOf c).length then (s.dequeOf c).dropLast else s.dequeOf c)
    ∧ ((s.dequeOf c).length < 64 → (s.pushBottom c r).spillOf c = s.spillOf c)
    ∧ (∀ top, 64 ≤ (s.dequeOf c).length → (s.dequeOf c).getLast? = some top →
        ∃ a, (s.pushBottom c r).spillOf c = { top with addr := a } :: s.spillOf c
          ∧ (a ≠ 0 → (s.pushBottom c r).homeBytes a 64 = top.bytes)))
  ∧ (∀ (s : State) (c k : Nat) (r : Record), c < 1024 → k < 16 → r.fault = none → Claims.untraced s →
    let x := s.thread c k
    let t := s.runInline c k r
    (t.thread c k).ctx = { Claims.fresh s c k r.launch with
      frame := r.frame, joinc := r.joinc, policy := BitVec.ofNat 4 (r.pol % 4 + 4 * (r.bud % 4)), lo := r.lo, hi := r.hi, low := r.low,
      pc := r.code }
    ∧ (t.thread c k).inl = some { ctx := x.ctx, start := x.start, ctr := x.ctr }
    ∧ t.bindingsOf c = (s.bindingsOf c).map (fun b => if b.thread = k then { b with suspended := true } else b)
    ∧ ((s.core c).tenant ≠ 16 → t.homeBytes (s.inlineAt (s.core c).tenant c k) x.ctx.image.length = x.ctx.image))
  ∧ (∀ (s : State) (f : TFields) (c k : Nat), ready (.join f) s = true → s.hart = .core c k →
    (f.a = .none ∧ (s.ctxOf s.hart).joinc = 0 ∨ f.a ≠ .none ∧ srcOf s f.a = some 0) →
    (Claims.unacked s (mField f.m 7 5) c k = none →
      ∃ t u, exec (.join f) s = .next t ∧ Claims.released s u (mField f.m 7 5) (fun _ => false)
        ∧ t = u.exitUnit c k 2 (s.ctxOf s.hart).pc.toNat)
    ∧ (∀ p, Claims.unacked s (mField f.m 7 5) c k = some p → exec (.join f) s = .next (s.setWait s.hart 0x142 f .waitAcq p.2 1)))
  ∧ (∀ (s : State) (f : TFields) (c k : Nat) (va : Word), ready (.join f) s = true → s.hart = .core c k →
    (f.a = .none ∧ (s.ctxOf s.hart).joinc = va ∨ f.a ≠ .none ∧ srcOf s f.a = some va) → va ≠ 0 →
    let checked := (s.joinCheck s.hart (s.core c).tenant va.toNat).2
    let pc := (s.ctxOf s.hart).pc
    (∀ cause, checked = .bad cause → exec (.join f) s = .next (Claims.trapOf s 0x142 f cause va.toNat))
    ∧ (checked = .post → exec (.join f) s = .next (s.pageStop s.hart (some (0x142, f)) va.toNat .atomic (ignorableOf 0x142 cPAGE_FAULT)
        (destsOf 0x142 f)))
    ∧ (∀ pa p, checked = .ok pa → Claims.unacked s (mField f.m 7 5) c k = some p →
        exec (.join f) s = .next (s.setWait s.hart 0x142 f .waitAcq p.2 1))
    ∧ (∀ pa, checked = .ok pa → Claims.unacked s (mField f.m 7 5) c k = none → (∀ w ∈ wordsOf pa 32, Claims.alone s c w) →
      ∃ u, Claims.released s u (mField f.m 7 5) (fun w => (wordsOf pa 32).contains w)
        ∧ (∀ j < 32, u.homeByte (pa + j) = Claims.homeAfter s c (pa + j))
        ∧ (let b := u.joinBlock pa
          let v := u.homeWriteNat (coreAgent c) pa 4 (b.count - 1)
          let traps := fun cause => (u.setPc s.hart pc).takeTrap s.hart cause va.toNat .plain (ignorableOf 0x142 cause) (destsOf 0x142 f)
          (u.joinPoisoned pa = true → exec (.join f) s = .next (traps cPOISON))
          ∧ (u.joinPoisoned pa = false → b.count = 0 → exec (.join f) s = .next (traps cJOIN_COUNT))
          ∧ (u.joinPoisoned pa = false → 1 < b.count → ∃ t, exec (.join f) s = .next t ∧ t = v.exitUnit c k 2 pc.toNat)
          ∧ (u.joinPoisoned pa = false → b.count = 1 →
              ∃ t, exec (.join f) s = .next t ∧ t = (v.acquirePart s.hart (mField f.m 7 5)).continueJoin c k b pc.toNat))))
  ∧ (∀ (s : State) (c k : Nat) (b : JoinBlock) (pc : Nat), c < 1024 → k < 16 → Claims.wellFormedPc (BitVec.ofNat 64 b.pc) →
    let t := s.continueJoin c k b pc
    (t.thread c k).ctx = { Claims.fresh s c k (s.thread c k).launch with
      frame := BitVec.ofNat 64 b.frame, joinc := BitVec.ofNat 64 b.joinc, policy := BitVec.ofNat 4 (b.pol % 4 + 4 * (b.bud % 4)),
      low := (s.thread c k).ctx.low, pc := BitVec.ofNat 64 b.pc }
    ∧ (t.thread c k).launch = (s.thread c k).launch)

/-- The payload of a packet: the bytes of a scalar, of a pair, or the first B bytes of a vector (07 R158). -/
def Sys2Proof.Claims.payload (s : State) (i : Instr) (f : TFields) : Option (List Byte) :=
  if i = .send f then
    match f.a with
    | .w _ => (pairOf s f.a).map (fun p => bytesOf 8 p.1.toNat ++ bytesOf 8 p.2.toNat)
    | _ => (srcOf s f.a).map (fun x => bytesOf 8 x.toNat)
  else match spanOf s f.a, srcOf s f.b with
    | some x, some n => if 1 ≤ n.toNat ∧ n.toNat ≤ 256 then some (bytesOf n.toNat x) else none
    | _, _ => none

/-- A destination word without set zero fields, for a logical core or, under PHYS, any position (07 R158). -/
def Sys2Proof.Claims.destFine (d : Nat) (multi phys : Bool) : Prop :=
  d < 2 ^ 54 ∧ bitsOf d 47 42 = 0 ∧ bitsOf d 31 22 = 0 ∧ bitsOf d 15 10 = 0 ∧ (phys = true ∨ bitsOf d 9 0 < 960)
    ∧ (if multi then bitsOf d 9 0 ≤ bitsOf d 41 32 else bitsOf d 41 32 = 0)

/-- SEND and SENDV put one packet into the network, MCAST one for each core of its range, each with its source, tag and
payload, and count them. A packet for a position that cannot take it is discarded and counted as undelivered. PHYS is
privileged; a destination word that is ill-formed, logical before a map is committed, or of another package in an MCAST
traps. A packet for another package leaves the model's network, or raises HW_ERROR where that package cannot be reached
(log entry 81). Under `.rel` the release part of the scope is made first; without credit at a destination the instruction
reports or waits. BINDTAG and UNBINDTAG write an entry of the tag table, and trap on a tag above 63 and on an unbound
handle (07 R158, R159). -/
def Sys2Proof.Claims.PacketsAndTags : Prop :=
  (∀ (i : Instr) (s : State) (op : Nat) (f : TFields) (c k : Nat) (d : Word) (bs : List Byte) (multi : Bool), fieldsOf i = some (op, f) →
    ready i s = true → s.hart = .core c k → (i = .send f ∨ i = .sendv f ∧ (∃ v, f.a = .v v) ∨ i = .mcast f ∧ (∃ v, f.a = .v v)) →
    (multi = true ↔ i = .mcast f) → srcOf s f.d = some d → Claims.payload s i f = some bs →
    let phys := f.m.getLsbD 0
    let lo := bitsOf d.toNat 9 0
    let hi := if multi then bitsOf d.toNat 41 32 else lo
    let away : Prop := bitsOf d.toNat 53 48 ≠ s.pkg
    let bars : Prop := phys = true ∧ s.tenantMode s.hart = true
    let fine : Prop := Claims.destFine d.toNat multi phys ∧ (phys = true ∨ s.mapped = true) ∧ (away → multi = false)
    let sent := ((s.thread c k).ctr.get 0 15).toNat
    let dsts := ((List.range 1024).filter (fun j => decide (lo ≤ j) && decide (j ≤ hi) && (phys || decide (j < 960))))
    let pks := dsts.zipIdx.map (fun j => (Packet.mk (s.core c).tenant (s.cidOf c) k j.1 (bitsOf d.toNat 21 16) phys bs
      (s.thread c k).launch false (sent + 1 + j.2) : Packet))
    let credit : Prop := ∀ p ∈ pks, ∀ q, s.destCore p = some q → s.credit p.ten q = true
    let lost := pks.filter (fun p => (s.destCore p).isNone)
    let rel := f.m.getLsbD 9
    let scope := mField f.m 7 5
    let pending := if rel then Claims.unacked s scope c k else none
    let leaves := fun (n : Nat) (t u : State) => exec i s = .next t
      ∧ (if rel then Claims.released s u scope (fun _ => false) else HartOnly s u (base s) 0)
      ∧ (t.core c).sent = (s.core c).sent + BitVec.ofNat 32 n
      ∧ (t.thread c k).ctr.get 0 15 = (s.thread c k).ctr.get 0 15 + BitVec.ofNat 64 n
      ∧ Accessed u { t with net := s.net, undeliv := s.undeliv, cores := t.cores.set Core.zero c { t.core c with sent := (s.core c).sent } } (base s) 0
      ∧ t.mem = u.mem ∧ t.l1 = u.l1 ∧ t.scratch = u.scratch ∧ t.poison = u.poison ∧ t.owner = u.owner ∧ t.peerStores = u.peerStores
    (bars → exec i s = .next (Claims.trapOf s op f cPRIVILEGE 0))
    ∧ (¬ bars → ¬ fine → exec i s = .next (Claims.trapOf s op f cILLEGAL_OPERAND d.toNat))
    ∧ (¬ bars → fine → away → s.unreachable (bitsOf d.toNat 53 48) = true → exec i s = .next (Claims.trapOf s op f cHW_ERROR 0))
    ∧ (¬ bars → fine → away → s.unreachable (bitsOf d.toNat 53 48) = false → pending = none →
        ∃ t u, leaves 1 t u ∧ t.net = s.net ∧ t.undeliv = s.undeliv)
    ∧ (¬ bars → fine → ¬ away → credit → pending = none →
        ∃ t u, leaves pks.length t u ∧ t.net = s.net ++ pks.filter (fun p => (s.destCore p).isSome)
          ∧ ∀ j, t.undeliv.get 0 j = s.undeliv.get 0 j + (if j = tcKey (s.core c).tenant c then BitVec.ofNat 32 lost.length else 0))
    ∧ (∀ p, ¬ bars → fine → (away ∧ s.unreachable (bitsOf d.toNat 53 48) = false ∨ ¬ away ∧ credit) → pending = some p →
        exec i s = .next (s.setWait s.hart op f .waitAcq p.2 1))
    ∧ (¬ bars → fine → ¬ away → ¬ credit →
      (f.m.getLsbD 4 = true → ∃ t, exec i s = .next t ∧ HartOnly s t (Claims.guardOff s f (base s)) 0)
      ∧ (f.m.getLsbD 4 = false → exec i s = .next (s.setWait s.hart op f .waitChannel 256 0))))
  ∧ (∀ (i : Instr) (s : State) (op : Nat) (f : TFields) (c k : Nat) (a : Word), fieldsOf i = some (op, f) → ready i s = true →
    s.hart = .core c k → (i = .bindtag f ∨ i = .unbindtag f) → srcOf s f.a = some a →
    (64 ≤ a.toNat → exec i s = .next (Claims.trapOf s op f cILLEGAL_OPERAND a.toNat))
    ∧ (∀ n cnt, a.toNat < 64 → i = .bindtag f → f.m.getLsbD 0 = true → f.d = .h n cnt → (s.ctxOf s.hart).handles.get none n.toNat = none →
        exec i s = .next (Claims.trapOf s op f cHANDLE n.toNat)))
  ∧ (∀ (s : State) (f : TFields) (c k : Nat) (a : Word), s.hart = .core c k → srcOf s f.a = some a → a.toNat < 64 →
    (ready (.unbindtag f) s = true → ∃ t, exec (.unbindtag f) s = .next t ∧ t = ((entered s).setTag c a.toNat Tag.zero).feed c)
    ∧ (∀ n e cnt, ready (.bindtag f) s = true → f.m.getLsbD 0 = true → f.d = .h n cnt → (s.ctxOf s.hart).handles.get none n.toNat = some e →
      ∃ t, exec (.bindtag f) s = .next t
        ∧ t = ((entered s).setTag c a.toNat { Tag.zero with v := true, deposit := true, target := BitVec.ofNat 64 e }).feed c)
    ∧ (∀ pc, ready (.bindtag f) s = true → f.m.getLsbD 0 = false → srcOf s f.b = some pc →
      let plc := mField f.m 3 1
      let parent := s.rootPolicy (s.thread c k).launch
      ∃ t, exec (.bindtag f) s = .next t
        ∧ t = ((entered s).setTag c a.toNat
          { v := true, deposit := false, pol := if plc = 0 then parent % 4 else plc - 1,
            bud := if plc = 0 then parent / 4 else mField f.m 5 4,
            low := if mField f.m 7 6 = 0 then (s.ctxOf s.hart).low else mField f.m 7 6 == 2,
            target := BitVec.ofNat 64 (pc.toNat % 2 ^ 48) }).feed c))

/-- Registers with a handle of the thread set or cleared. -/
def Sys2Proof.Claims.withHandle (c : Ctx) (n : Nat) (e : Option Nat) : Ctx := { c with handles := c.handles.set none n e }

/-- The size exponents and base of a geometry word are those of a channel (09 R206). -/
def Sys2Proof.Claims.geometry (g : Nat) : Prop :=
  g < 2 ^ 12 ∧ bitsOf g 7 4 = 0 ∧ 4 ≤ g % 16 ∧ g % 16 ≤ 12 ∧ 1 ≤ bitsOf g 11 8 ∧ bitsOf g 11 8 ≤ 12 ∧ g % 16 + bitsOf g 11 8 ≤ 17

/-- HCFG binds a handle to an entry of this tenant, creates a channel in a free entry, unbinds, or frees one; HADVW and HADV
move a pointer once there is room or there are filled slots, and else report or wait; HQ gives the fill, the room and the
shape. An unbound handle traps; a freed entry is empty, and no handle of the core names it (07 R160, R161; 09 R206). -/
def Sys2Proof.Claims.Channels : Prop :=
  (∀ (s : State) (f : TFields) (c k : Nat) (n : BitVec 4) (cnt : BitVec 12) (e : Word), ready (.hcfgBind f) s = true → s.hart = .core c k →
    f.d = .h n cnt → srcOf s f.a = some e →
    let fine := e.toNat < 64 ∧ (s.chan c e.toNat).v = true ∧ (s.chan c e.toNat).ten = (s.core c).tenant % 16
    (fine → ∃ t, exec (.hcfgBind f) s = .next t ∧ HartOnly s t (Claims.withHandle (base s) n.toNat (some e.toNat)) 0)
    ∧ (¬ fine → exec (.hcfgBind f) s = .next (Claims.trapOf s 0x148 f cILLEGAL_OPERAND e.toNat)))
  ∧ (∀ (s : State) (f : TFields) (c k : Nat) (n : BitVec 4) (cnt : BitVec 12) (b g : Word), ready (.hcfgNew f) s = true → s.hart = .core c k →
    f.d = .h n cnt → srcOf s f.a = some b → srcOf s f.b = some g →
    let w := s.windowBase (s.core c).tenant + c % 48 * 0x40000
    let size := 2 ^ (g.toNat % 16 + bitsOf g.toNat 11 8)
    let free := (List.range 64).filter (fun e => !(s.chan c e).v)
    w ≤ b.toNat → b.toNat + size ≤ w + 0x40000 → Claims.geometry g.toNat → b.toNat % size = 0 →
    (free ≠ [] → ∃ t, ∃ e ∈ free, exec (.hcfgNew f) s = .next t
      ∧ t.chan c e = { v := true, ten := (s.core c).tenant % 16, lcnt := bitsOf g.toNat 11 8, lsz := g.toNat % 16, base := b.toNat - w, wp := 0, rp := 0, clm := 0 }
      ∧ (∀ j ≠ tcKey (s.core c).tenant c * 64 + e, t.chans.get Chan.zero j = s.chans.get Chan.zero j)
      ∧ HartOnly s { t with chans := s.chans, freeCtr := s.freeCtr } (Claims.withHandle (base s) n.toNat (some e)) 0)
    ∧ (free = [] → exec (.hcfgNew f) s = .next (Claims.trapOf s 0x148 f cQUEUE_FULL n.toNat)))
  ∧ (∀ (s : State) (f : TFields) (n : BitVec 4) (cnt : BitVec 12), readyCore (.hcfgUnbind f) s = true → f.d = .h n cnt →
    ∃ t, exec (.hcfgUnbind f) s = .next t ∧ HartOnly s t (Claims.withHandle (base s) n.toNat none) 0)
  ∧ (∀ (s : State) (f : TFields) (c k : Nat) (n : BitVec 4) (cnt : BitVec 12), ready (.hcfgFree f) s = true → s.hart = .core c k → f.d = .h n cnt →
    ((s.ctxOf s.hart).handles.get none n.toNat = none → ∃ t, exec (.hcfgFree f) s = .next t ∧ HartOnly s t (base s) 0)
    ∧ (∀ e, (s.ctxOf s.hart).handles.get none n.toNat = some e → ∃ t, exec (.hcfgFree f) s = .next t ∧ t = (entered s).freeChan c e))
  ∧ (∀ (s : State) (c e : Nat), c < 1024 → s.claimsOf c e = [] → s.msgsOf c = [] → s.dequeOf c = [] → s.spillOf c = [] →
    (∀ k < 16, (s.thread c k).ctx.run ≠ .waitChannel) →
    let t := s.freeChan c e
    t.chan c e = Chan.zero ∧ (∀ j ≠ tcKey (s.core c).tenant c * 64 + e, t.chans.get Chan.zero j = s.chans.get Chan.zero j)
    ∧ ∀ k < 16, (t.thread c k).ctx = { (s.thread c k).ctx with handles := (s.thread c k).ctx.handles.filter (fun m => m.2 != some e) })
  ∧ (∀ (s : State) (f : TFields) (n : BitVec 4) (cnt : BitVec 12), readyCore (.hq f) s = true → f.a = .h n cnt →
    (s.ctxOf s.hart).handles.get none n.toNat = none → exec (.hq f) s = .next (Claims.trapOf s 0x14B f cHANDLE n.toNat))
  ∧ (∀ (i : Instr) (s : State) (op : Nat) (f : TFields) (c k e : Nat) (n : BitVec 4) (cnt : BitVec 12) (a : Word), fieldsOf i = some (op, f) →
    ready i s = true → s.hart = .core c k → (i = .hadv f ∨ i = .hadvw f) → f.d = .h n cnt →
    ((s.ctxOf s.hart).handles.get none n.toNat = none → exec i s = .next (Claims.trapOf s op f cHANDLE n.toNat))
    ∧ ((s.ctxOf s.hart).handles.get none n.toNat = some e → srcOf s f.a = some a →
      let x := s.chan c e
      let there := if i = .hadv f then decide (a.toNat ≤ (x.wp - x.rp).toNat) && (s.claimsOf c e).isEmpty
        else decide (a.toNat ≤ 2 ^ x.lcnt - (x.wp - x.rp).toNat)
      (2 ^ x.lcnt < a.toNat → exec i s = .next (Claims.trapOf s op f cILLEGAL_OPERAND a.toNat))
      ∧ (a = 0 → ∃ t, exec i s = .next t ∧ HartOnly s t (base s) 0)
      ∧ (a ≠ 0 → a.toNat ≤ 2 ^ x.lcnt → there = true → ∃ t, exec i s = .next t
        ∧ t = (((if i = .hadv f then (entered s).setChan c e { x with rp := x.rp + a.truncate 32, clm := x.rp + a.truncate 32 }
            else ((entered s).setChan c e { x with wp := x.wp + a.truncate 32 }).resolveClaims c e ((s.claimsOf c e).length + 1)).wakeChan c e).feed c))
      ∧ (a ≠ 0 → a.toNat ≤ 2 ^ x.lcnt → there = false →
        (f.m.getLsbD 4 = true → ∃ t, exec i s = .next t ∧ HartOnly s t (Claims.guardOff s f (base s)) 0)
        ∧ (f.m.getLsbD 4 = false → exec i s = .next (s.setWait s.hart op f .waitChannel n.toNat a.toNat)))))
  ∧ (∀ (s : State) (f : TFields) (c k e : Nat) (n : BitVec 4) (cnt : BitVec 12) (d : BitVec 6), ready (.hq f) s = true → s.hart = .core c k →
    f.a = .h n cnt → f.d = .s d → (s.ctxOf s.hart).handles.get none n.toNat = some e →
    let x := s.chan c e
    let filled := (x.wp - x.rp).toNat
    ∃ t, exec (.hq f) s = .next t ∧ HartOnly s t (setS (base s) d.toNat (BitVec.ofNat 64
      (filled + (2 ^ x.lcnt - filled) * 2 ^ 16 + e * 2 ^ 32 + x.lsz * 2 ^ 40 + x.lcnt * 2 ^ 48))) 0)

/-- The status word of a job: its id, its cause, and its state, 3 where the core has no record of it (07 R162). -/
def Sys2Proof.Claims.status (s : State) (c id : Nat) : Word :=
  match (s.core c).jobs.find? (fun r => r.id == id) with
  | some r => BitVec.ofNat 64 (id * 2 ^ 16 + r.cause * 2 ^ 8 + r.state)
  | none => BitVec.ofNat 64 (id * 2 ^ 16 + 3)

/-- The state of a job that the core holds. -/
def Sys2Proof.Claims.jobState (s : State) (c id : Nat) : Nat :=
  match (s.core c).jobs.find? (fun r => r.id == id) with
  | some r => r.state
  | none => 3

/-- From s to t an instruction observed the end of a job or packet, with an acquire at DIE where `acq` says so: the die's port
writes are performed and every clean word that the core does not own is dropped; the registers became c (10 R226, R228). -/
def Sys2Proof.Claims.Observed (s t : State) (acq : Bool) (c : Ctx) : Prop :=
  let u := if acq then Claims.ported s 3 else s
  Accessed u t c 0 ∧ Claims.homesKept u t ∧ Claims.Ordered u t (fun _ => false) (fun _ _ => false) (fun _ => acq)
  ∧ (acq = false → Untouched s t)

/-- POLICY sets %policy; RAISE raises SOFTWARE with its value; WAITJ waits while the job has not ended, and with JOBQ gives its
status word, WAITJ of a job that is done after an acquire at DIE; SLEEP ends by a WAKE, which it consumes, or by its deadline; WAKE sets the wake bit of a thread that runs a unit,
and a sleeping one of a tenant that runs is ready; the state word of a saved image follows (07 R162; 14 R294). -/
def Obligations.PolicyJobsAndSleep : Prop :=
  (∀ (s : State) (f : TFields) (a : Word), readyCore (.policy f) s = true → srcOf s f.a = some a →
    (a.toNat < 16 → ∃ t, exec (.policy f) s = .next t ∧ HartOnly s t { base s with policy := a.truncate 4 } 0)
    ∧ (16 ≤ a.toNat → exec (.policy f) s = .next (Claims.trapOf s 0x14C f cILLEGAL_OPERAND a.toNat)))
  ∧ (∀ (s : State) (f : TFields) (a : Word), ready (.raise f) s = true → srcOf s f.a = some a →
    exec (.raise f) s = .next (s.takeTrap s.hart cSOFTWARE a.toNat .raise true (destsOf 0x14D f)))
  ∧ (∀ (i : Instr) (s : State) (f : TFields) (c k : Nat) (d : BitVec 6) (a : Word), ready i s = true → s.hart = .core c k →
    (i = .waitj f ∨ i = .jobq f) → f.d = .s d → srcOf s f.a = some a →
    let id := a.toNat % 2 ^ 16
    (i = .waitj f → Claims.jobState s c id < 2 → exec i s = .next (s.setWait s.hart 0x14E f .waitJob id 0))
    ∧ ((i = .waitj f → 2 ≤ Claims.jobState s c id) → ∃ t, exec i s = .next t
        ∧ Claims.Observed s t (decide (i = .waitj f ∧ Claims.jobState s c id = 2)) (setS (base s) d.toNat (Claims.status s c id))))
  ∧ (∀ (s : State) (f : TFields) (a : Word) (p : BitVec 4), readyCore (.sleep f) s = true → f.d = .p p → srcOf s f.a = some a →
    let ones := onesBelow (lanes (base s))
    ((s.ctxOf s.hart).wake = true → ∃ t, exec (.sleep f) s = .next t ∧ HartOnly s t (setP { base s with wake := false } p.toNat ones) 0)
    ∧ ((s.ctxOf s.hart).wake = false →
      let again := s.resumes s.hart 0x150 f
      let due := if again then (s.ctxOf s.hart).waitObj.toNat else if a = 0 then 2 ^ 64 - 1
        else Min.min (s.time % 2 ^ 64 + a.toNat) (2 ^ 64 - 1)
      (due < 2 ^ 64 - 1 → due ≤ s.time % 2 ^ 64 → ∃ t, exec (.sleep f) s = .next t ∧ HartOnly s t (setP (base s) p.toNat 0) 0)
      ∧ ((due = 2 ^ 64 - 1 ∨ s.time % 2 ^ 64 < due) → exec (.sleep f) s = .next (s.setWait s.hart 0x150 f .waitTime due 1))))
  ∧ (∀ (s : State) (f : TFields) (a : Word), readyCore (.wake f) s = true → srcOf s f.a = some a →
    let c := a.toNat % 1024
    let n := a.toNat / 2 ^ 16
    let fine := a.toNat < 2 ^ 20 ∧ bitsOf a.toNat 15 10 = 0 ∧ c < 960
    (¬ fine → exec (.wake f) s = .next (Claims.trapOf s 0x151 f cILLEGAL_OPERAND a.toNat))
    ∧ (fine → ∃ t, exec (.wake f) s = .next t ∧ t.scratch = s.scratch ∧ t.peerStores = s.peerStores
      ∧ (let image := s.imageAt (s.tenOf s.hart) c n + 0x2408
        ∀ b < 2 ^ 52, ((s.threads.get Thread.zero (thKey (s.tenOf s.hart) c n)).saved = true → ¬ (image ≤ b ∧ b < image + 24)) →
          t.homeByte b = s.homeByte b ∧ ∀ d, seenByte t d b = seenByte s d b)
      ∧ (let x := (entered s).threads.get Thread.zero (thKey (s.tenOf s.hart) c n)
        let y := t.threads.get Thread.zero (thKey (s.tenOf s.hart) c n)
        (x.ctx.run = .free → y = x)
        ∧ (x.ctx.run ≠ .free →
          let sleeps : Prop := x.ctx.run = .waitTime ∧ x.ctx.waitCnt = 1 ∧ (s.core c).tenant = s.tenOf s.hart
          (sleeps → y = { x with ctx := { x.ctx with wake := true, run := .ready }, stamp := s.now c })
          ∧ (¬ sleeps → y = { x with ctx := { x.ctx with wake := true } }))
        ∧ ∀ j ≠ thKey (s.tenOf s.hart) c n, t.threads.get Thread.zero j = (entered s).threads.get Thread.zero j)))

/-- The late entry of a scalar or vector source. -/
def Sys2Proof.Claims.lateOf (s : State) : Operand → Option Late
  | .s n => if n = 0 then none else (s.ctxOf s.hart).late.get none n.toNat
  | .v n => (s.ctxOf s.hart).late.get none (64 + n.toNat)
  | _ => none

/-- Registers with a scalar made late. -/
def Sys2Proof.Claims.makeLate (c : Ctx) (n : Nat) (l : Late) : Ctx := if n = 0 then c else { c with late := c.late.set none n (some l) }

/-- The cause of a late register's poisoned symbol. -/
def Sys2Proof.Claims.poisoned (s : State) (l : Late) : Option Nat :=
  match s.hart with
  | .core c _ => match s.sym c l.sym with
    | some y => match y.state with | .poison k => some k | _ => none
    | none => none
  | _ => none

/-- The pair that an integer instruction makes of (a, b), with late A or B and known operand k (11 R235). -/
def Sys2Proof.Claims.affineOf (a b k : Word) (lateA : Bool) : Instr → Option (Word × Word)
  | .add _ => some (a, b + k)
  | .sub _ => if lateA then some (a, b - k) else some (-a, k - b)
  | .mul _ => some (a * k, b * k)
  | .shl _ => if lateA then some (BitVec.ofNat 64 (a.toNat * 2 ^ (k.toNat % 64)), BitVec.ofNat 64 (b.toNat * 2 ^ (k.toNat % 64))) else none
  | .neg _ => if lateA then some (-a, -b) else none
  | _ => none

/-- The step that a floating-point instruction records (11 R236). -/
def Sys2Proof.Claims.stepOf (lateA : Bool) : Instr → Option Nat
  | .fadd _ => some 0
  | .fsub _ => some (if lateA then 1 else 2)
  | .fmul _ => some 3
  | _ => none

/-- A late operand that is not poisoned composes: ADD, SUB, MUL, SHL and NEG make a new pair while K is 0; FADD, FSUB, FMUL and
FNEG record a step, the first on the pair (1, 0), which makes K 1, no more than three, and only FNEG where the mode is SR; D
becomes late with the same symbol, and MOV copies the entry. SAT, K = 1, two late operands and a late shift count make such
an integer instruction wait, and every other integer use of a late A waits; a poisoned A traps. The pair resolves to the
eager result (11 R235, R236, R239, R240). -/
def Obligations.LateComposition : Prop :=
  (∀ (i : Instr) (s : State) (op : Nat) (f : TFields) (n : BitVec 6) (l : Late) (k a b : Word) (lateA : Bool), fieldsOf i = some (op, f) →
    ready i s = true → f.d = .s n → Claims.saturates i = false →
    (lateA = true ∧ Claims.lateOf s f.a = some l ∧ (srcOf s f.b = some k ∨ i = .neg f) ∨ lateA = false ∧ Claims.lateOf s f.b = some l ∧ srcOf s f.a = some k) →
    (∀ j, f.a ≠ .v j) → (∀ j, f.b ≠ .v j) →
    Claims.poisoned s l = none → l.k = false → Claims.affineOf l.a l.b k lateA i = some (a, b) →
    ∃ t, exec i s = .next t ∧ Accessed s t (Claims.makeLate (base s) n.toNat { l with a := a, b := b }) 0 ∧ Untouched s t)
  ∧ (∀ (i : Instr) (s : State) (op : Nat) (f : TFields) (n : BitVec 6) (l : Late) (x o mode : Nat) (lateA : Bool), fieldsOf i = some (op, f) →
    ready i s = true → f.d = .s n → (∀ j, f.a ≠ .v j) → (∀ j, f.b ≠ .v j) →
    ((lateA = true ∧ Claims.lateOf s f.a = some l ∧ fpOf s f.b = some x ∨ lateA = false ∧ Claims.lateOf s f.b = some l ∧ fpOf s f.a = some x)
        ∧ Claims.stepOf lateA i = some o ∧ mode = (if mField f.m 13 11 = 0 then (s.ctxOf s.hart).rm.toNat else mField f.m 13 11 - 1) ∧ mode ≠ 5
      ∨ i = .fneg f ∧ Claims.lateOf s f.a = some l ∧ x = 0 ∧ o = 4 ∧ mode = 0) →
    Claims.poisoned s l = none → (l.k = false ∧ l.a = 1 ∧ l.b = 0 ∨ l.k = true ∧ l.steps.length < 3) →
    ∃ t, exec i s = .next t ∧ Untouched s t
      ∧ Accessed s t (Claims.makeLate (base s) n.toNat
          { l with steps := (if l.k then l.steps else []) ++ [⟨o, mode, f.m, BitVec.ofNat 64 x⟩], k := true }) 0)
  ∧ (∀ (s : State) (f : TFields) (n m : BitVec 6) (l : Late), ready (.mov f) s = true → f.d = .s n → f.a = .s m → Claims.lateOf s f.a = some l →
    ∃ t, exec (.mov f) s = .next t ∧ Accessed s t (Claims.makeLate (base s) n.toNat l) 0 ∧ Untouched s t)
  ∧ (∀ (i : Instr) (s : State) (op : Nat) (f : TFields) (n : BitVec 6) (l : Late), fieldsOf i = some (op, f) → ready i s = true →
    f.a = .s n → Claims.lateOf s f.a = some l →
    let composes : Prop := i = .add f ∨ i = .sub f ∨ i = .mul f ∨ i = .shl f ∨ i = .neg f
    ((∃ x, Claims.plainOf 0 0 i = some x) ∧ ¬ composes
      ∨ composes ∧ ((Claims.poisoned s l).isSome = true ∨ Claims.saturates i = true ∨ l.k = true ∧ (i = .neg f ∨ (srcOf s f.b).isSome = true)
          ∨ i ≠ .neg f ∧ ∃ m r, f.b = .s m ∧ Claims.lateOf s f.b = some r ∧ Claims.poisoned s r = none)) →
    exec i s = .next (match Claims.poisoned s l with
      | some k => Claims.trapOf s op f cSYMBOL_LOST (l.sym + 256 * k)
      | none => s.setWait s.hart op f .waitLate l.sym 0))
  ∧ (∀ (s : State) (f : TFields) (n : BitVec 6) (l : Late), ready (.shl f) s = true → (srcOf s f.a).isSome = true → f.b = .s n →
    Claims.lateOf s f.b = some l →
    exec (.shl f) s = .next (match Claims.poisoned s l with
      | some k => Claims.trapOf s 0x00D f cSYMBOL_LOST (l.sym + 256 * k)
      | none => s.setWait s.hart 0x00D f .waitLate l.sym 0))
  ∧ (∀ (l : Late) (x : Nat) (k : Word) (lateA : Bool) (f : TFields), l.k = false →
    let v : Word := BitVec.ofNat 64 (l.resolveS x).1
    let after := fun i => (Claims.affineOf l.a l.b k lateA i).map (fun p => (({ l with a := p.1, b := p.2 } : Late).resolveS x).1)
    after (.add f) = some (v + k).toNat ∧ after (.mul f) = some (v * k).toNat
    ∧ after (.sub f) = some (if lateA then v - k else k - v).toNat
    ∧ (lateA = true → after (.neg f) = some (-v).toNat
      ∧ after (.shl f) = some (BitVec.ofNat 64 (v.toNat * 2 ^ (k.toNat % 64))).toNat))

/-- SYMQ and SYMID tell whether a register is late and by which symbol; SYMWAIT waits until it is present; or, without an operand, until every register is; SYMDROP makes it
zero; SYMPEEK gives a present value and reports a late one; SYMLIM sets the quota; JOBL makes D late while
its job has not ended, RCVL while its slots are not filled (07 R163; 11 R234, R240). -/
def Obligations.LateValues : Prop :=
  (∀ (s : State) (f : TFields) (p : BitVec 4), readyCore (.symq f) s = true → f.d = .p p → (∃ n, f.a = .s n ∨ ∃ m, f.a = .v m) →
    ∃ t, exec (.symq f) s = .next t
      ∧ HartOnly s t (setP (base s) p.toNat (if (Claims.lateOf s f.a).isSome then onesBelow (lanes (base s)) else 0)) 0)
  ∧ (∀ (s : State) (f : TFields) (n : BitVec 6), readyCore (.symid f) s = true → f.d = .s n →
    ∃ t, exec (.symid f) s = .next t ∧ HartOnly s t (setS (base s) n.toNat (match Claims.lateOf s f.a with
      | some l => BitVec.ofNat 64 l.sym
      | none => BitVec.allOnes 64)) 0)
  ∧ (∀ (s : State) (f : TFields), readyCore (.symwait f) s = true →
    ((f.a = .none ∧ (∀ e ∈ (s.ctxOf s.hart).late, e.2 = none) ∨ f.a ≠ .none ∧ (f.a ≠ .s 0) ∧ Claims.lateOf s f.a = none ∧ (∃ n, f.a = .s n ∨ ∃ m, f.a = .v m)) →
      ∃ t, exec (.symwait f) s = .next t ∧ HartOnly s t (base s) 0)
    ∧ (∀ l, f.a ≠ .none → Claims.lateOf s f.a = some l → exec (.symwait f) s = .next (match Claims.poisoned s l with
      | some k => Claims.trapOf s 0x161 f cSYMBOL_LOST (l.sym + 256 * k)
      | none => s.setWait s.hart 0x161 f .waitLate l.sym 0))
    ∧ (∀ e l, f.a = .none → (s.ctxOf s.hart).late.find? (fun e => e.2.isSome) = some e → (s.ctxOf s.hart).late.get none e.1 = some l →
      exec (.symwait f) s = .next (match Claims.poisoned s l with
        | some k => Claims.trapOf s 0x161 f cSYMBOL_LOST (l.sym + 256 * k)
        | none => s.setWait s.hart 0x161 f .waitLate l.sym 0)))
  ∧ (∀ (s : State) (f : TFields), readyCore (.symdrop f) s = true →
    (∀ n, f.a = .s n → ∃ t, exec (.symdrop f) s = .next t ∧ HartOnly s t (setS (base s) n.toNat 0) 0)
    ∧ (∀ n, f.a = .v n → ∃ t, exec (.symdrop f) s = .next t ∧ HartOnly s t (setV (base s) n.toNat 0) 0))
  ∧ (∀ (s : State) (f : TFields) (d : BitVec 6), readyCore (.sympeek f) s = true → f.d = .s d →
    (∀ n x, f.a = .s n → srcOf s f.a = some x → ∃ t, exec (.sympeek f) s = .next t ∧ HartOnly s t (setS (base s) d.toNat x) 0)
    ∧ (∀ n x, f.a = .v n → vecOf s f.a = some x → ∃ t, exec (.sympeek f) s = .next t
        ∧ HartOnly s t (setS (base s) d.toNat (x.truncate 64)) 0)
    ∧ (∀ l, Claims.lateOf s f.a = some l → Claims.poisoned s l = none → ∃ t, exec (.sympeek f) s = .next t
        ∧ HartOnly s t (Claims.guardOff s f (base s)) 0)
    ∧ (∀ l k, Claims.lateOf s f.a = some l → Claims.poisoned s l = some k →
        exec (.sympeek f) s = .next (Claims.trapOf s 0x167 f cSYMBOL_LOST (l.sym + 256 * k))))
  ∧ (∀ (s : State) (f : TFields) (a : Word), readyCore (.symlim f) s = true → srcOf s f.a = some a →
    (a.toNat < 256 → ∃ t, exec (.symlim f) s = .next t ∧ HartOnly s t { base s with quota := a.truncate 8 } 0)
    ∧ (256 ≤ a.toNat → exec (.symlim f) s = .next (Claims.trapOf s 0x166 f cILLEGAL_OPERAND a.toNat)))
  ∧ (∀ (s : State) (f : TFields) (c k : Nat) (d : BitVec 6) (a : Word), ready (.jobl f) s = true → s.hart = .core c k → f.d = .s d →
    srcOf s f.a = some a →
    let id := a.toNat % 2 ^ 16
    (2 ≤ Claims.jobState s c id → ∃ t, exec (.jobl f) s = .next t
      ∧ Claims.Observed s t (decide (Claims.jobState s c id = 2)) (setS (base s) d.toNat (Claims.status s c id)))
    ∧ (Claims.jobState s c id < 2 → Claims.freeSyms s 0 ≠ [] → ∃ t, exec (.jobl f) s = .next t ∧ Untouched s t
      ∧ Claims.BecameLate s t false d.toNat (.job id) 0)
    ∧ (Claims.jobState s c id < 2 → Claims.freeSyms s 0 = [] → exec (.jobl f) s = .next (s.setWait s.hart 0x164 f .waitLate 256 0)))
  ∧ (∀ (s : State) (f : TFields) (c k e : Nat) (n : BitVec 4) (cnt : BitVec 12), ready (.rcvl f) s = true → s.hart = .core c k → f.a = .h n cnt →
    (s.ctxOf s.hart).handles.get none n.toNat = some e →
    let x := s.chan c e
    let first := if (s.claimsOf c e).isEmpty then x.rp else x.clm
    let key := match f.d with | .s d => d.toNat | .v d => 64 + d.toNat | _ => 0
    let now := (s.claimsOf c e).isEmpty && decide (x.spanSlots ≤ (x.wp - x.rp).toNat)
    ((∃ d, f.d = .s d) ∨ ∃ d, f.d = .v d) →
    (now = true → ∃ t u, exec (.rcvl f) s = .next t
      ∧ (let bs := s.slotBytes c e x.spanSlots
        HartOnly s u (match f.d with
          | .v d => setV (base s) d.toNat (BitVec.ofNat 2048 (ofBytes bs))
          | _ => setS (base s) key (BitVec.ofNat 64 (ofBytes (bs.take 8)))) 0)
      ∧ t = ((u.setChan c e { x with rp := x.rp + BitVec.ofNat 32 x.spanSlots, clm := x.rp + BitVec.ofNat 32 x.spanSlots }).wakeChan c e).drainDeposits c)
    ∧ (now = false → Claims.freeSyms s 0 = [] → exec (.rcvl f) s = .next (s.setWait s.hart 0x165 f .waitLate 256 0))
    ∧ (now = false → Claims.freeSyms s 0 ≠ [] → ∃ t u i, exec (.rcvl f) s = .next t
      ∧ Claims.LateBy s u i (decide (64 ≤ key)) key (.slots e first.toNat x.spanSlots) 0
      ∧ t = (u.setChan c e { x with clm := first + BitVec.ofNat 32 x.spanSlots }).setClaims c e (s.claimsOf c e ++ [(i, x.spanSlots)])))

/-- Packets, bound tags and channels (08 R186 to R193). -/
def Obligations.PacketsTagsAndChannels : Prop := Claims.PacketsAndTags ∧ Claims.Channels

/-! ### Lineage (08 R166 to R172; 13) -/

/-- Node x of the hart's tenant has a descriptor that no lineage job holds (08 R167, 13 R271). -/
def Sys2Proof.Claims.usable (s : State) (x : Word) : Prop :=
  x.toNat < 2 ^ 24 ∧ s.nodeInvalid (s.tenOf s.hart) x.toNat = false ∧ (s.node (s.tenOf s.hart) x.toNat).job = 0

/-- A parent that is 0 or that no lineage job holds. -/
def Sys2Proof.Claims.unheld (s : State) (n : Nat) : Prop := n = 0 ∨ (s.node (s.tenOf s.hart) n).job = 0

/-- A state but for what lineage storage changes: memory with its owners, poison and loss notices, the take directories, the
jobs, the tiles and the count of open values. -/
def Sys2Proof.Claims.besides (s t : State) : State :=
  { t with mem := s.mem, poison := s.poison, owner := s.owner, l1 := s.l1, freeCtr := s.freeCtr, octets := s.octets, takes := s.takes,
           lnJobs := s.lnJobs }

/-- From s to t the registers became c, and lineage storage, with what its versions tag, changed to that of u. -/
def Sys2Proof.Claims.LineageAs (s t u : State) (c : Ctx) (fl : Flags) : Prop :=
  HartOnly s (Claims.besides s t) c fl
  ∧ t.mem = u.mem ∧ t.poison = u.poison ∧ t.owner = u.owner ∧ t.l1 = u.l1 ∧ t.takes = u.takes ∧ t.lnJobs = u.lnJobs
  ∧ ∀ o, (t.octet o).tiles = (u.octet o).tiles ∧ { t.octet o with tiles := (s.octet o).tiles } = s.octet o

/-- The fields of a descriptor fit their places (13 R262). -/
def Sys2Proof.Claims.nodeFits (x : Node) : Prop :=
  x.state < 4 ∧ x.depth < 8 ∧ x.geom < 8 ∧ x.fmt < 32 ∧ x.parent < 2 ^ 24 ∧ x.kids < 2 ^ 32 ∧ x.version < 2 ^ 32 ∧ x.count < 2 ^ 40
    ∧ x.lines < 2 ^ 32 ∧ x.mapg < 2 ^ 32 ∧ x.owned < 2 ^ 32 ∧ x.job < 256

/-- A job of a copy unit was issued: its record is listed, its nodes are held, and the thread waits for it with no other
effect (13 R271). -/
def Sys2Proof.Claims.Issued (s t : State) (op : Nat) (f : TFields) (c k kind node other : Nat) (held : List Nat) : Prop :=
  ∃ j, t.lnJobs = s.lnJobs ++ [j] ∧ j.kind = kind ∧ j.ten = s.tenOf s.hart ∧ j.node = node ∧ j.other = other ∧ j.core = c ∧ j.thread = k
    ∧ j.held = held ∧ j.ended = none ∧ t.mem = (s.holdNodes (s.tenOf s.hart) kind held).mem
    ∧ HartOnly s (Claims.besides s t)
        { s.ctxOf s.hart with run := .waitJob, waitObj := BitVec.ofNat 64 node, waitCnt := BitVec.ofNat 64 (j.serial + 1) } 0
    ∧ t.octets = s.octets ∧ t.takes = s.takes ∧ (t.thread c k).waiting = some (op, f)

/-- The node operand of an instruction, whose other operands are present. -/
def Sys2Proof.Claims.names (s : State) (i : Instr) (f : TFields) (x : Word) : Prop :=
  let has := fun (o : Operand) => (srcOf s o).isSome = true
  (i = .lnfork f ∨ i = .lndrop f ∨ i = .lninfo f ∨ i = .lnres f ∧ has f.b) ∧ srcOf s f.a = some x
  ∨ (i = .lnforkAf f ∧ s.resumes s.hart 0x171 f = false ∨ i = .lnflat f ∧ s.resumes s.hart 0x175 f = false
      ∨ i = .lndropFold f ∧ s.resumes s.hart 0x177 f = false) ∧ srcOf s f.a = some x
  ∨ i = .lnpatch f ∧ srcOf s f.d = some x ∧ has f.a ∧ has f.b

/-- A descriptor that is written reads back, and no other byte changes (13 R262). A node id that is not valid traps, and a node
that a lineage job holds makes the instruction wait. LNFORK, and LNFORK.AF above depth 7, create a child and freeze its
parent, as `createNode` and `adopt` write them. LNPATCH changes the line as `patchElem` does, an element of a full line or a
pair of a sparse record, and bumps the version, or traps on a node that is retired or frozen, an index beyond the node,
poison and a pool without room. LNREBASE moves a child, as `rebase` writes it; LNDROP retires a node with children and
frees another; LNINFO and LNRES give a descriptor's word and an element, which traps where it is poisoned (08 R167 to R171;
13 R271; 19 R355). -/
def Obligations.LineageInstructions : Prop :=
  (∀ (s : State) (ten n : Nat) (x : Node), Claims.nodeFits x →
    (∀ t, s.tenants.get none ten = some t → t.desc + 128 ≤ s.nodeAddr ten n ∨ s.nodeAddr ten n + 40 ≤ t.desc) →
    (s.setNode ten n x).node ten n = x ∧ (∀ m ≠ n, (s.setNode ten n x).node ten m = s.node ten m)
    ∧ ∀ a, ¬ (s.nodeAddr ten n ≤ a ∧ a < s.nodeAddr ten n + 40) → (s.setNode ten n x).homeByte a = s.homeByte a)
  ∧ (∀ (i : Instr) (s : State) (op : Nat) (f : TFields) (x : Word), fieldsOf i = some (op, f) → readyCore i s = true → Claims.names s i f x →
    let bad := decide (2 ^ 24 ≤ x.toNat) || s.nodeInvalid (s.tenOf s.hart) x.toNat
    (bad = true → exec i s = .next (Claims.trapOf s op f cNODE_INVALID x.toNat))
    ∧ (bad = false → (s.node (s.tenOf s.hart) x.toNat).job ≠ 0 → exec i s = .next (s.setWait s.hart op f .waitJob x.toNat 0)))
  ∧ (∀ (i : Instr) (s u : State) (f : TFields) (d : BitVec 6) (x : Word) (c : Nat) (gs : List Nat), readyCore i s = true → f.d = .s d →
    (i = .lnfork f ∨ i = .lnforkAf f ∧ s.resumes s.hart 0x171 f = false) → srcOf s f.a = some x → Claims.usable s x →
    let ten := s.tenOf s.hart
    let p := s.node ten x.toNat
    p.state ≠ 3 → p.depth < 7 → s.freeId ten = some c →
    s.reserve ten [(mapGranules p.lines, 1)] (s.usedGranules ten) = some (u, gs) →
    ∃ t, exec i s = .next t
      ∧ Claims.LineageAs s t ((u.createNode ten c x.toNat (p.depth + 1) (gs.headD 0) p).adopt ten x.toNat) (setS (base s) d.toNat (BitVec.ofNat 64 c)) 0)
  ∧ (∀ (s u : State) (f : TFields) (x i b : Word), readyCore (.lnpatch f) s = true → srcOf s f.d = some x → srcOf s f.a = some i →
    srcOf s f.b = some b → Claims.usable s x →
    let ten := s.tenOf s.hart
    let d := s.node ten x.toNat
    let e := fmtBits d.fmt
    let l := i.toNat / (2048 / e)
    let traps := fun (cause val : Nat) => exec (.lnpatch f) s = .next (Claims.trapOf s 0x172 f cause val)
    let patched := s.patchElem ten x.toNat l e (i.toNat % (2048 / e)) (b.toNat % 2 ^ e)
    (d.state = 3 → traps cNODE_RETIRED x.toNat) ∧ (d.state = 2 → traps cNODE_FROZEN x.toNat)
    ∧ (d.state ≠ 3 → d.state ≠ 2 → d.count ≤ i.toNat → traps cILLEGAL_OPERAND i.toNat)
    ∧ (d.state ≠ 3 → d.state ≠ 2 → i.toNat < d.count → s.patchPoisoned ten x.toNat l = true → traps cPOISON x.toNat)
    ∧ (d.state ≠ 3 → d.state ≠ 2 → i.toNat < d.count → s.patchPoisoned ten x.toNat l = false →
      (patched = none → traps cNODE_EXHAUSTED x.toNat)
      ∧ (patched = some u → ∃ t, exec (.lnpatch f) s = .next t ∧ Claims.LineageAs s t (u.bump ten x.toNat) (base s) 0)))
  ∧ (∀ (s : State) (ten n l e q v : Nat), (e = 4 ∨ e = 8 ∨ e = 16 ∨ e = 32 ∨ e = 64) → v < 2 ^ e →
    let entry := s.lineEntry ten (s.node ten n) l
    let a := s.granAddr ten entry.2
    let ps := s.recPairs ten entry.2
    (entry.1 = 2 → ∃ u, s.patchElem ten n l e q v = some u
      ∧ (if e = 4 then elemOf (u.homeNat (a + q / 2) 1) 4 (q % 2) = v ∧ elemOf (u.homeNat (a + q / 2) 1) 4 (1 - q % 2) = elemOf (s.homeNat (a + q / 2) 1) 4 (1 - q % 2)
          ∧ ∀ x ≠ a + q / 2, u.homeByte x = s.homeByte x
        else u.homeNat (a + q * (e / 8)) (e / 8) = v
          ∧ ∀ x, ¬ (a + q * (e / 8) ≤ x ∧ x < a + q * (e / 8) + e / 8) → u.homeByte x = s.homeByte x))
    ∧ (entry.1 = 1 → (∀ p ∈ ps, p.1 ≠ q) → ps.length < 30 → q < 2 ^ 16 → ∃ u, s.patchElem ten n l e q v = some u
      ∧ u.homeNat a 1 = ps.length + 1 ∧ u.homeNat (a + 4 + 2 * ps.length) 2 = q ∧ u.homeNat (a + 64 + 8 * ps.length) 8 = v
      ∧ ∀ x, x ≠ a → ¬ (a + 4 + 2 * ps.length ≤ x ∧ x < a + 6 + 2 * ps.length) → ¬ (a + 64 + 8 * ps.length ≤ x ∧ x < a + 72 + 8 * ps.length) →
          u.homeByte x = s.homeByte x)
    ∧ (∀ j, entry.1 = 1 → (ps.map (·.1))[j]? = some q → (∀ k < j, (ps.map (·.1))[k]? ≠ some q) → ∃ u, s.patchElem ten n l e q v = some u
      ∧ u.homeNat (a + 64 + 8 * j) 8 = v ∧ ∀ x, ¬ (a + 64 + 8 * j ≤ x ∧ x < a + 72 + 8 * j) → u.homeByte x = s.homeByte x))
  ∧ (∀ (s : State) (f : TFields) (x y : Word), readyCore (.lnrebase f) s = true → srcOf s f.a = some x → srcOf s f.b = some y →
    Claims.usable s x → Claims.usable s y → x ≠ y →
    let ten := s.tenOf s.hart
    let c := s.node ten x.toNat
    let q := s.node ten y.toNat
    c.state ≠ 3 → q.state ≠ 3 → c.kids = 0 → q.depth ≠ 7 → c.fmt = q.fmt → c.geom = q.geom → c.count = q.count → Claims.unheld s c.parent →
    ∃ t, exec (.lnrebase f) s = .next t ∧ Claims.LineageAs s t (s.rebase ten x.toNat y.toNat) (base s) 0)
  ∧ (∀ (i : Instr) (s : State) (f : TFields) (x : Word), readyCore i s = true →
    (i = .lndrop f ∨ i = .lndropFold f ∧ s.resumes s.hart 0x177 f = false ∧ (s.node (s.tenOf s.hart) x.toNat).kids = 0) →
    srcOf s f.a = some x → Claims.usable s x →
    let ten := s.tenOf s.hart
    let d := s.node ten x.toNat
    (0 < d.kids ∨ d.state = 3 ∨ Claims.unheld s d.parent) →
    ∃ t, exec i s = .next t ∧ Claims.LineageAs s t
      (if d.state = 3 then s else if 0 < d.kids then s.setNode ten x.toNat { d with state := 3 }
        else (s.freeNode ten x.toNat).releaseParent ten 8 d.parent) (base s) 0)
  ∧ (∀ (s : State) (f : TFields) (d : BitVec 6) (x : Word), readyCore (.lninfo f) s = true → f.d = .s d → srcOf s f.a = some x →
    Claims.usable s x →
    let n := s.node (s.tenOf s.hart) x.toNat
    ∃ t, exec (.lninfo f) s = .next t ∧ HartOnly s t (setS (base s) d.toNat (BitVec.ofNat 64 (if f.m.getLsbD 0 then n.version
      else n.geom * 2 ^ 60 + n.fmt * 2 ^ 55 + Min.min n.kids 65535 * 2 ^ 32 + n.state * 2 ^ 28 + n.depth * 2 ^ 24 + n.parent))) 0)
  ∧ (∀ (s : State) (f : TFields) (d : BitVec 6) (x i : Word) (v sb : Nat), readyCore (.lnres f) s = true → f.d = .s d →
    srcOf s f.a = some x → srcOf s f.b = some i → Claims.usable s x →
    let n := s.node (s.tenOf s.hart) x.toNat
    n.state ≠ 3 → i.toNat < n.count →
    ((n.fmt ≠ 0 ∨ f.m.getLsbD 0 = false) → s.nodeElem (s.tenOf s.hart) x.toNat i.toNat = none →
      exec (.lnres f) s = .next (Claims.trapOf s 0x179 f cPOISON x.toNat))
    ∧ (s.nodeElem (s.tenOf s.hart) x.toNat i.toNat = some (v, sb) →
    (f.m.getLsbD 0 = true → n.fmt = 0 → exec (.lnres f) s = .next (Claims.trapOf s 0x179 f cFORMAT x.toNat))
    ∧ (f.m.getLsbD 0 = true → n.fmt ≠ 0 → ∃ t, exec (.lnres f) s = .next t
      ∧ (let out := Claims.outcome s (Claims.converted (s.ctxOf s.hart) (some fp32) 0 false n.fmt sb v)
        HartOnly s t (setS out.2.2 d.toNat (BitVec.ofNat 64 out.1)) out.2.1))
    ∧ (f.m.getLsbD 0 = false → ∃ t, exec (.lnres f) s = .next t ∧ HartOnly s t (setS (base s) d.toNat (BitVec.ofNat 64 v)) 0)))

/-- The four instructions that a copy unit's lineage job carries out: the instruction issues its job, which holds its nodes,
and waits while the job runs; once the job has ended it returns the result and the job's record goes, or raises the job's
cause (08 R168 to R170, 13 R271). -/
def Obligations.LineageJobs : Prop :=
  (∀ (i : Instr) (s : State) (op : Nat) (f : TFields) (c k : Nat) (x : Word), fieldsOf i = some (op, f) → ready i s = true → s.hart = .core c k →
    srcOf s f.a = some x → Claims.usable s x → s.resumes s.hart op f = false →
    let ten := s.tenOf s.hart
    let d := s.node ten x.toNat
    let root := s.rootOf ten 8 x.toNat
    ((∀ id, i = .lnforkAf f → d.depth = 7 → (s.node ten root).state ≠ 3 → Claims.unheld s root → s.freeId ten = some id →
        (({ s with freeCtr := s.freeCtr + 1 } : State).reserve ten ((mapGranules d.lines, 1) :: List.replicate d.lines (1, 1)) (s.usedGranules ten)).isSome = true →
        ∃ t, exec i s = .next t ∧ Claims.Issued s t op f c k 1 x.toNat id [x.toNat])
    ∧ (i = .lnflat f → d.kids = 0 → Claims.unheld s d.parent →
        (s.reserve ten (((List.range d.lines).filter (fun l => (s.lineEntry ten d l).1 == 0)).map (fun _ => (1, 1))) (s.usedGranules ten)).isSome = true →
        ∃ t, exec i s = .next t ∧ Claims.Issued s t op f c k 2 x.toNat d.parent [x.toNat, d.parent])
    ∧ (i = .lndropFold f → 0 < d.kids → Claims.unheld s d.parent → (∀ n ∈ s.kidsOf ten x.toNat, Claims.unheld s n) →
        (s.reserve ten ((s.kidsOf ten x.toNat).flatMap (fun n => (s.linesOf ten n).flatMap (fun l => s.foldNeed ten x.toNat n l)))
          (s.usedGranules ten)).isSome = true →
        ∃ t, exec i s = .next t ∧ Claims.Issued s t op f c k 3 x.toNat d.parent (x.toNat :: d.parent :: s.kidsOf ten x.toNat))
    ∧ (∀ y th, i = .lnrebaseChk f → srcOf s f.b = some y → srcOf s f.d = some th → Claims.usable s y → x ≠ y →
        let q := s.node ten y.toNat
        let t32 := decodeF fp32 (th.toNat % 2 ^ 32)
        d.state ≠ 3 → q.state ≠ 3 → d.kids = 0 → q.depth ≠ 7 → d.fmt = q.fmt → d.geom = q.geom → d.count = q.count → Claims.unheld s d.parent →
        isNaN t32 = false → (signOf t32 = false ∨ isZero t32 = true) →
        ∃ t, exec i s = .next t ∧ Claims.Issued s t op f c k 4 x.toNat y.toNat [x.toNat, d.parent, y.toNat])))
  ∧ (∀ (i : Instr) (s : State) (op : Nat) (f : TFields) (x : Word) (j : LnJob), fieldsOf i = some (op, f) → readyCore i s = true →
    srcOf s f.a = some x → (i = .lnforkAf f ∨ i = .lnflat f ∨ i = .lndropFold f ∨ i = .lnrebaseChk f ∧ (srcOf s f.b).isSome = true ∧ (srcOf s f.d).isSome = true) →
    s.resumes s.hart op f = true → s.lnJobs.find? (fun j => j.serial + 1 == (s.ctxOf s.hart).waitCnt.toNat) = some j → j.ended = none →
    exec i s = .next (s.setWait s.hart op f .waitJob j.node (j.serial + 1)))
  ∧ (∀ (i : Instr) (s : State) (op : Nat) (f : TFields) (x : Word) (j : LnJob) (cause r : Nat), fieldsOf i = some (op, f) → readyCore i s = true →
    srcOf s f.a = some x → (i = .lnforkAf f ∨ i = .lnflat f ∨ i = .lndropFold f ∨ i = .lnrebaseChk f ∧ (srcOf s f.b).isSome = true ∧ (srcOf s f.d).isSome = true) →
    s.resumes s.hart op f = true → s.lnJobs.find? (fun j => j.serial + 1 == (s.ctxOf s.hart).waitCnt.toNat) = some j → j.ended = some (cause, r) →
    let jobs := s.lnJobs.filter (fun k => k.serial != j.serial)
    (cause = 0 → (i = .lnflat f ∨ i = .lndropFold f) → ∃ t, exec i s = .next t ∧ t.lnJobs = jobs
        ∧ HartOnly s { t with lnJobs := s.lnJobs } (base s) 0)
    ∧ (∀ d, cause = 0 → (i = .lnforkAf f ∨ i = .lnrebaseChk f) → f.d = .s d → ∃ t, exec i s = .next t ∧ t.lnJobs = jobs
        ∧ HartOnly s { t with lnJobs := s.lnJobs } (setS (base s) d.toNat (BitVec.ofNat 64 r)) 0)
    ∧ (cause ≠ 0 → ∃ u : State, exec i s = .next (u.takeTrap s.hart cause 0 .plain (ignorableOf op cause) (destsOf op f))
        ∧ u.lnJobs = jobs ∧ u.mem = s.mem ∧ (u.ctxOf s.hart).pc = (s.ctxOf s.hart).pc))

/-! ### Engines, copies, KV and prefixes (08 R173 to R186; 16) -/

/-- The KIND of a kick (08 R175, R176). -/
def Sys2Proof.Claims.kindOf (f : TFields) (i : Instr) : Option Nat :=
  if i = .meload f then some 1 else if i = .memm f then some 2 else if i = .melin f then some 3 else if i = .medl f then some 4 else none

/-- The 64 bytes that an operand gives: the low bytes of a vector register, or those at an address by the load path. -/
def Sys2Proof.Claims.Block (s : State) (o : Operand) (bs : List Byte) : Prop :=
  (∃ n x, o = .v n ∧ vecOf s o = some x ∧ bs = bytesOf 64 x.toNat)
  ∨ (∃ a loc pg, (∀ n, o ≠ .v n) ∧ srcOf s o = some a ∧ a.toNat % 64 = 0 ∧ allowed s a.toNat .read anyPage = some (loc, pg)
      ∧ Found s loc pg 64 .l1 bs)

/-- The state with the core's own copy of a place's first word written back and dropped (07 R149). -/
def Sys2Proof.Claims.dropCopy (s : State) (loc : Loc) : State :=
  match s.hart, loc with
  | .core c _, .dev pa =>
    let u := s.writeBackKey (l1Key (s.l1Of c (pa / 8)) (pa / 8))
    { u with l1 := u.l1.set none (l1Key (s.l1Of c (pa / 8)) (pa / 8)) none }
  | _, _ => s

/-- A copy queue's descriptor, as it is read at the home of device memory (08 R178, R179). -/
structure Sys2Proof.Claims.QueueAt (s : State) (dva pa d : Nat) : Prop where
  lines : dva % 64 = 0 ∧ ∃ pg, allowed s dva .atomic homePage = some (.dev pa, pg)
  plain : s.regionOf pa = .hbm ∨ s.regionOf pa = .cxl
  clean : (Claims.dropCopy s (.dev pa)).homePoisoned pa 64 = false
  words : d = (Claims.dropCopy s (.dev pa)).homeNat pa 64

/-- It can take a packet: its slot count is in range, it has room, and its next slot lies in device memory apart from the
descriptor (08 R178, R179). -/
structure Sys2Proof.Claims.QueueOpen (s : State) (scope dva pa wi spa : Nat) (spg : Page) : Prop where
  still : Claims.settled s ∧ Claims.settled s (fun u => Claims.dropCopy u (.dev pa))
  room  : ∃ d, Claims.QueueAt s dva pa d ∧ 1 ≤ bitsOf d 199 192 ∧ bitsOf d 199 192 ≤ 12
          ∧ wi = bitsOf d 31 0 ∧ (wi + 2 ^ 32 - bitsOf d 95 64) % 2 ^ 32 < 2 ^ bitsOf d 195 192
            ∧ (let slot := bitsOf d 191 128 + 64 * (wi % 2 ^ bitsOf d 195 192)
              slot % 64 = 0 ∧ allowed (Claims.dropCopy s (.dev pa)) slot .write anyPage = some (.dev spa, spg))
  slot  : (s.regionOf spa = .hbm ∨ s.regionOf spa = .cxl) ∧ (spa + 64 ≤ pa ∨ pa + 64 ≤ spa)
  acks  : scope = 5 → ∀ c k, s.hart = .core c k → ∀ p ∈ s.peerStores, p.1 ≠ c * 16 + k

/-- From s to t a packet was appended to a copy queue: WI is one more, its slot holds the packet with its sequence in bytes 4
to 7, D and the registers are c; every other byte is as it was or was written back from an L1. -/
def Sys2Proof.Claims.Appended (s t : State) (c : Ctx) (pa wi spa : Nat) (p : List Byte) : Prop :=
  t.ctxOf s.hart = c ∧ (∀ g, validHart g = true → g ≠ s.hart → t.ctxOf g = s.ctxOf g)
  ∧ t.homeNat pa 4 = (wi + 1) % 2 ^ 32
  ∧ t.homeBytes spa 64 = p.take 4 ++ bytesOf 4 wi ++ p.drop 8
  ∧ (∀ a < 2 ^ 52, ¬ (pa ≤ a ∧ a < pa + 4) → ¬ (spa ≤ a ∧ a < spa + 64) → Claims.backed s t a)
  ∧ t.posted = s.posted ++ (match s.hart with
      | .core k n => match (s.thread k n).launch with | some l => [(pa, wi, l)] | none => []
      | _ => [])
  ∧ t.scratch = s.scratch ∧ t.octets = s.octets

/-- Field i of a 64-byte descriptor, as a word. -/
def Sys2Proof.Claims.word (d : List Byte) (i : Nat) : Nat := ofBytes ((d.drop (8 * i)).take 8)

/-- A report, or a wait for a job, of an instruction that cannot proceed (07 R144, R162). -/
def Sys2Proof.Claims.holdsBack (i : Instr) (s : State) (op : Nat) (f : TFields) (obj : Nat) : Prop :=
  (f.m.getLsbD 4 = true → ∃ t, exec i s = .next t ∧ HartOnly s t (Claims.guardOff s f (base s)) 0)
  ∧ (f.m.getLsbD 4 = false → exec i s = .next (s.setWait s.hart op f .waitJob obj 0))

/-- A kick makes its release and enqueues one job with its packet under the core's next job id, which D receives; a full queue
reports or waits. MEDROP drops the takes of a layer that no running job holds BUSY, and no other; MEBURST declares the ramp
of a burst. CUQ, COLL and GATHER append a packet and give its sequence; a slot count out of range traps, and a full queue
reports or waits. CUWP gives a channel's write pointer, and under `.acq` drops the clean words of what the channel reports;
CUCQ and CUWAIT acquire at DIE and wider what has completed, and report or wait for what has not (08 R173 to R181; 10 R226;
12 R253, R254). -/
def Obligations.KicksAndCopies : Prop :=
  (∀ (i : Instr) (s : State) (op : Nat) (f : TFields) (c k kind : Nat) (d : BitVec 6), fieldsOf i = some (op, f) → ready i s = true →
    s.hart = .core c k → Claims.kindOf f i = some kind → f.d = .s d →
    let q := (s.octet (c / 8)).queues.get [] (c % 8)
    let held := (q.filter (fun j => !j.done)).length
    (8 ≤ held → Claims.holdsBack i s op f 0)
    ∧ (∀ p, held < 8 → (∃ p, Claims.Block s f.a p) → Claims.unacked s (mField f.m 7 5) c k = some p →
        exec i s = .next (s.setWait s.hart op f .waitAcq p.2 1))
    ∧ (held < 8 → (∃ p, Claims.Block s f.a p) → Claims.unacked s (mField f.m 7 5) c k = none →
      ∃ (t : State) (j : Job) (p : List Byte), Claims.Block s f.a p ∧ exec i s = .next t ∧ t.ctxOf s.hart = setS (base s) d.toNat (BitVec.ofNat 64 (s.core c).jobCtr)
        ∧ (t.octet (c / 8)).queues.get [] (c % 8) = q ++ [j] ∧ (∀ m ≠ c % 8, (t.octet (c / 8)).queues.get [] m = (s.octet (c / 8)).queues.get [] m)
        ∧ (∀ o ≠ c / 8, t.octet o = s.octet o)
        ∧ j.packet = BitVec.ofNat 8 kind :: p.drop 1 ∧ j.id = (s.core c).jobCtr ∧ j.ten = (s.core c).tenant ∧ j.core = c ∧ j.thread = k
        ∧ j.launch = (s.thread c k).launch ∧ j.running = false ∧ j.done = false ∧ j.ending = none
        ∧ (t.core c).jobCtr = (if 65535 ≤ (s.core c).jobCtr then 1 else (s.core c).jobCtr + 1)
        ∧ { id := (s.core c).jobCtr, state := 0, cause := 0 } ∈ (t.core c).jobs
        ∧ (∀ a < 2 ^ 52, Claims.backed s t a) ∧ t.scratch = s.scratch
        ∧ ∀ w x, w < 2 ^ 49 → Claims.alone s c w → s.l1Get c w = some x → x.dirty = true → x.ten = (s.core c).tenant → 1 ≤ mField f.m 7 5 →
            ∀ a, a / 8 = w → t.homeByte a = byteAt x.value a))
  ∧ (∀ (s : State) (f : TFields) (x : Word), readyCore (.medrop f) s = true → srcOf s f.a = some x →
    (2 ^ 16 ≤ x.toNat → exec (.medrop f) s = .next (Claims.trapOf s 0x184 f cILLEGAL_OPERAND x.toNat))
    ∧ (x.toNat < 2 ^ 16 → ∃ t, exec (.medrop f) s = .next t ∧ t.ctxOf s.hart = base s
      ∧ (∀ k e, t.takes.get none k = some e → e.ten = s.tenOf s.hart → e.layer = x.toNat → s.takeIsBusy (k / 4096) (s.tenOf s.hart) x.toNat = true)
      ∧ (SMap.wf none s.takes = true → ∀ k e, s.takes.get none k = some e →
          (e.ten ≠ s.tenOf s.hart ∨ e.layer ≠ x.toNat ∨ s.takeIsBusy (k / 4096) (s.tenOf s.hart) x.toNat = true) → t.takes.get none k = some e)))
  ∧ (∀ (s : State) (f : TFields) (c k : Nat) (lead len : Word), ready (.meburst f) s = true → s.hart = .core c k → srcOf s f.a = some lead →
    srcOf s f.b = some len →
    ∃ t, exec (.meburst f) s = .next t ∧ HartOnly s { t with octets := s.octets } (base s) 0
      ∧ (t.octet (c / 8)).ramp = (if len = 0 then { (s.octet (c / 8)).ramp with declared := false }
        else { (s.octet (c / 8)).ramp with start := Max.max s.time (s.time + lead.toNat - 16), stop := s.time + lead.toNat + 1000 * len.toNat, declared := true, stepped := false })
      ∧ ∀ o ≠ c / 8, t.octet o = s.octet o)
  ∧ (∀ (s : State) (f : TFields) (d : BitVec 6) (dva : Word) (p : List Byte) (pa wi spa : Nat) (spg : Page), ready (.cuq f) s = true →
    isCore s.hart = true → f.d = .s d →
    srcOf s f.a = some dva → (∃ n v, f.b = .v n ∧ vecOf s f.b = some v ∧ p = bytesOf 64 v.toNat) →
    Claims.QueueOpen s (mField f.m 7 5) dva.toNat pa wi spa spg →
    ∃ t, exec (.cuq f) s = .next t ∧ Claims.Appended s t (setS (base s) d.toNat (BitVec.ofNat 64 wi)) pa wi spa p)
  ∧ (∀ (s : State) (f : TFields) (dva : Word) (pa q : Nat), ready (.cuq f) s = true → isCore s.hart = true →
    srcOf s f.a = some dva → (∃ n, f.b = .v n ∧ (vecOf s f.b).isSome = true) → Claims.QueueAt s dva.toNat pa q →
    let lcnt := bitsOf q 199 192
    ((lcnt = 0 ∨ 12 < lcnt) → exec (.cuq f) s = .next (Claims.trapOf s 0x186 f cILLEGAL_OPERAND (dva.toNat + 24)))
    ∧ (1 ≤ lcnt → lcnt ≤ 12 → 2 ^ lcnt ≤ (bitsOf q 31 0 + 2 ^ 32 - bitsOf q 95 64) % 2 ^ 32 → Claims.holdsBack (.cuq f) s 0x186 f dva.toNat))
  ∧ (∀ (i : Instr) (s : State) (op : Nat) (f : TFields) (d : BitVec 6) (va : Word) (loc : Loc) (pg : Page) (bs : List Byte) (pa wi spa : Nat) (spg : Page),
    fieldsOf i = some (op, f) → readyCore i s = true → f.d = .s d → srcOf s f.a = some va → va.toNat % 64 = 0 →
    allowed s va.toNat .read anyPage = some (loc, pg) → Found s loc pg 64 .l1 bs → (∀ a, loc = .dev a → s.regionOf a ≠ .pcie) →
    let w := Claims.word bs
    (i = .coll f → 1 ≤ w 1 → w 1 ≤ 2 ^ 32 → w 2 < 2 ^ 16 → w 4 = 0 → w 5 = 0 → w 6 = 0 → w 7 = 0 → Claims.QueueOpen s 4 (w 3) pa wi spa spg →
      ∃ t, exec i s = .next t ∧ Claims.Appended s t (setS (base s) d.toNat (BitVec.ofNat 64 wi)) pa wi spa
        ([4, 0, BitVec.ofNat 8 (mField f.m 2 0), 0, 0, 0, 0, 0] ++ bytesOf 8 va.toNat ++ List.replicate 48 0))
    ∧ (i = .gather f → 1 ≤ w 1 → w 1 ≤ 2 ^ 32 → 8 ≤ w 3 → w 3 ≤ 4096 → w 3 % 8 = 0 → w 7 = 0 → Claims.QueueOpen s 4 (w 6) pa wi spa spg →
      ∃ t, exec i s = .next t ∧ Claims.Appended s t (setS (base s) d.toNat (BitVec.ofNat 64 wi)) pa wi spa
        ([3, if f.m.getLsbD 0 then 8 else 0, 0, 0, 0, 0, 0, 0] ++ bytesOf 8 va.toNat ++ List.replicate 48 0)))
  ∧ (∀ (s : State) (f : TFields) (c k : Nat) (d : BitVec 6) (ch : Word), ready (.cuwp f) s = true → s.hart = .core c k → f.d = .s d →
    srcOf s f.a = some ch →
    (8 ≤ ch.toNat → exec (.cuwp f) s = .next (Claims.trapOf s 0x187 f cILLEGAL_OPERAND ch.toNat))
    ∧ (ch.toNat < 8 → ∃ t, exec (.cuwp f) s = .next t
      ∧ Accessed s t (setS (base s) d.toNat ((s.octet (c / 8)).wp.get 0 ch.toNat)) 0 ∧ Claims.homesKept s t
      ∧ Claims.Ordered s t (fun _ => false) (fun _ _ => false)
          (fun w => f.m.getLsbD 8 && lineInRanges (s.wpRanges s.hart (c / 8) ch.toNat) w)))
  ∧ (∀ (s : State) (f : TFields) (va b : Word) (loc : Loc) (pg : Page) (n : BitVec 5), readyCore (.cucq f) s = true → f.d = .v n →
    srcOf s f.a = some va → srcOf s f.b = some b → va.toNat % 32 = 0 → allowed s va.toNat .read anyPage = some (loc, pg) →
    (∃ v, Claims.HomeNow s loc pg 32 v) →
    ∃ v, Claims.HomeNow s loc pg 32 v
      ∧ (v % 2 ^ 32 = b.toNat % 2 ^ 32 → ∃ t, exec (.cucq f) s = .next t
          ∧ Claims.Observed s t true (setV (base s) n.toNat (BitVec.ofNat 2048 v)))
      ∧ (v % 2 ^ 32 ≠ b.toNat % 2 ^ 32 → (f.m.getLsbD 4 = true → ∃ t, exec (.cucq f) s = .next t ∧ HartOnly s t (Claims.guardOff s f (base s)) 0)
          ∧ (f.m.getLsbD 4 = false → exec (.cucq f) s = .next (s.setWait s.hart 0x188 f .waitJob va.toNat 0))))
  ∧ (∀ (s : State) (f : TFields) (va b : Word) (loc : Loc) (pg : Page) (n : BitVec 6), readyCore (.cuwait f) s = true → f.d = .s n →
    srcOf s f.a = some va → srcOf s f.b = some b → va.toNat % 8 = 0 → allowed s va.toNat .read anyPage = some (loc, pg) →
    (∃ v, Claims.HomeNow s loc pg 8 v) →
    ∃ v, Claims.HomeNow s loc pg 8 v
      ∧ (((v : Int) - b.toNat) % 2 ^ 32 < 2 ^ 31 → ∃ t, exec (.cuwait f) s = .next t
          ∧ Claims.Observed s t true (setS (base s) n.toNat (BitVec.ofNat 64 v)))
      ∧ (2 ^ 31 ≤ ((v : Int) - b.toNat) % 2 ^ 32 → (f.m.getLsbD 4 = true → ∃ t, exec (.cuwait f) s = .next t ∧ HartOnly s t (Claims.guardOff s f (base s)) 0)
          ∧ (f.m.getLsbD 4 = false → exec (.cuwait f) s = .next (s.setWait s.hart 0x193 f .waitJob va.toNat 0))))

/-! ### KV slabs, attention requests and the prefix table (08 R182 to R186) -/

/-- From s to t the registers of the hart became c and the bytes bs were written at address a, at the homes; a copy that an
L1 holds keeps its bytes, and at most loses its `own` bit. -/
structure Sys2Proof.Claims.HomePut (s t : State) (c : Ctx) (a : Nat) (bs : List Byte) : Prop where
  frame : Accessed s t c 0
  bytes : ∀ x, t.homeByte x = if a ≤ x ∧ x < a + bs.length then bs.getD (x - a) 0 else s.homeByte x
  local_ : t.scratch = s.scratch ∧ t.spoison = s.spoison ∧ t.peerStores = s.peerStores
  copies : ∀ d w, w < 2 ^ 49 → (s.l1Get d w).isSome = true → (t.l1Get d w).map (fun x => (x.value, x.dirty)) = (s.l1Get d w).map (fun x => (x.value, x.dirty))

/-- The 64 bytes of a prefix table entry (08 R184). -/
def Sys2Proof.Claims.pfxBytes (x : PfxEntry) : List Byte :=
  bytesOf 8 (2 ^ 61 * x.state + x.hash) ++ bytesOf 8 (2 ^ 16 * x.pins + x.depth) ++ bytesOf 8 x.kvpage ++ bytesOf 8 x.tokens
    ++ bytesOf 8 x.stamp ++ List.replicate 24 0

/-- From s to t entry e of the tenant's prefix table became x. -/
def Sys2Proof.Claims.EntryPut (s t : State) (c : Ctx) (e : Nat) (x : PfxEntry) : Prop :=
  Claims.HomePut s t c (s.descWord (s.tenOf s.hart) 6 + 64 * e) (Claims.pfxBytes x)

/-- The n token ids from an address up, as their homes hold them. -/
def Sys2Proof.Claims.Ids (s : State) (va n : Nat) (ids : List Nat) : Prop :=
  ids.length = n ∧ ∀ j < n, ∃ loc pg bs, (va + 4 * j) % 4 = 0 ∧ allowed s (va + 4 * j) .read anyPage = some (loc, pg)
    ∧ (∀ pa, loc = .dev pa → s.regionOf pa ≠ .pcie) ∧ Found s loc pg 4 .home bs ∧ ids.getD j 0 = ofBytes bs

/-- Entry e is LIVE and has the hash and the depth. -/
def Sys2Proof.Claims.like (s : State) (hash depth : Nat) (e : Nat) : Prop :=
  let x := s.pfxEntry (s.tenOf s.hart) e
  x.state = 1 ∧ x.hash = hash ∧ x.depth = depth

/-- Entry e is not the one looked for: it is not LIVE, has another hash or depth, or its ids differ. -/
def Sys2Proof.Claims.passes (s : State) (hash depth : Nat) (ids : List Nat) (e : Nat) : Prop :=
  Claims.like s hash depth e → ∃ l, Claims.Ids s (s.pfxEntry (s.tenOf s.hart) e).tokens (16 * depth) l ∧ l ≠ ids

/-- The entry that PFXINS takes: the lowest FREE one; without one, the LIVE one without pins whose stamp is oldest, the lower
index winning a tie (08 R186). -/
def Sys2Proof.Claims.Victim (s : State) (e : Nat) : Prop :=
  let x := s.pfxEntry (s.tenOf s.hart)
  e < 64 ∧ (((x e).state = 0 ∧ ∀ k < e, (x k).state ≠ 0)
    ∨ ((∀ k < 64, (x k).state ≠ 0) ∧ (x e).state = 1 ∧ (x e).pins = 0
      ∧ ∀ k < 64, (x k).state = 1 → (x k).pins = 0 → (x e).stamp < (x k).stamp ∨ ((x e).stamp = (x k).stamp ∧ e ≤ k)))

/-- KVMAP writes the sequence's entry; an id, a base or a field out of range traps, in this order, and a sequence that grows waits. KVGROW takes the die's
lowest free transom pair, with the old and the new base and watermark 0, marks the entry growing and appends the
relocation packet, whose sequence D receives; without a free pair, or while the sequence grows, it reports or waits. ATTN
writes the status word 0 and starts a request for the pages of its token range; an empty range is done at once, a triple address, a name or a
range that is out of range traps, in this order, and with 64 requests of its core in flight it stalls, still RUNNING (08 R182, R183; the relocation packet's shape is log entry 36). -/
def Obligations.KvInstructions : Prop :=
  (∀ (s : State) (f : TFields) (id b w : Word), ready (.kvmap f) s = true → s.tenOf s.hart < 16 → srcOf s f.a = some id →
    pairOf s f.b = some (b, w) →
    let ten := s.tenOf s.hart
    let dim := w.toNat / 2 ^ 16 % 16
    let lheads := w.toNat / 2 ^ 8 % 8
    let lsize := w.toNat % 64
    let fits : Prop := w.toNat = 2 ^ 16 * dim + 2 ^ 8 * lheads + lsize ∧ 1 ≤ dim ∧ dim ≤ 8 ∧ lheads ≤ 6 ∧ 13 ≤ lsize ∧ lsize ≤ 40
      ∧ 2 ^ 13 * 2 ^ lheads ≤ 2 ^ lsize
    (4096 ≤ id.toNat → exec (.kvmap f) s = .next (Claims.trapOf s 0x18B f cILLEGAL_OPERAND id.toNat))
    ∧ (id.toNat < 4096 → b.toNat % 2 ^ lsize ≠ 0 → exec (.kvmap f) s = .next (Claims.trapOf s 0x18B f cILLEGAL_OPERAND b.toNat))
    ∧ (id.toNat < 4096 → b.toNat % 2 ^ lsize = 0 → ¬ fits → exec (.kvmap f) s = .next (Claims.trapOf s 0x18B f cILLEGAL_OPERAND w.toNat))
    ∧ (id.toNat < 4096 → fits → b.toNat % 2 ^ lsize = 0 →
        ((s.seqEntry ten id.toNat).grow = true → exec (.kvmap f) s = .next (s.setWait s.hart 0x18B f .waitJob id.toNat 0))
        ∧ ((s.seqEntry ten id.toNat).grow = false → ∃ t, exec (.kvmap f) s = .next t
            ∧ Claims.HomePut s t (base s) (s.descWord ten 10 + 16 * id.toNat) (bytesOf 8 b.toNat ++ bytesOf 8 (2 ^ 62 + w.toNat)))))
  ∧ (∀ (s : State) (f : TFields) (id new : Word) (d : BitVec 6), ready (.kvgrow f) s = true → isCore s.hart = true → s.tenOf s.hart < 16 → f.d = .s d →
    srcOf s f.a = some id → srcOf s f.b = some new →
    let ten := s.tenOf s.hart
    let e := s.seqEntry ten id.toNat
    let die := dieOf s.hart
    let busy := fun n => s.transoms.any (fun p => p.die == die && p.pair == n)
    let fits : Prop := new.toNat % (2 * 2 ^ e.lsize) = 0
    ((4096 ≤ id.toNat ∨ e.v = false) → exec (.kvgrow f) s = .next (Claims.trapOf s 0x18C f cILLEGAL_OPERAND id.toNat))
    ∧ (id.toNat < 4096 → e.v = true → ¬ fits → exec (.kvgrow f) s = .next (Claims.trapOf s 0x18C f cILLEGAL_OPERAND new.toNat))
    ∧ (id.toNat < 4096 → e.v = true → fits → (e.grow = true ∨ ∀ n < 16, busy n = true) → Claims.holdsBack (.kvgrow f) s 0x18C f id.toNat)
    ∧ (∀ (n pa wi spa : Nat) (spg : Page), id.toNat < 4096 → e.v = true → fits → e.grow = false → n < 16 → busy n = false → (∀ k < n, busy k = true) →
        Claims.QueueOpen s 4 (s.descWord ten 11) pa wi spa spg →
        ∃ u t, exec (.kvgrow f) s = .next t ∧ u.hart = s.hart ∧ Claims.Appended s u (base s) pa wi spa (relocPacket e.base new.toNat e.lsize)
          ∧ Claims.HomePut u { t with transoms := u.transoms } (setS (base s) d.toNat (BitVec.ofNat 64 wi)) (u.descWord ten 10 + 16 * id.toNat)
              (bytesOf 8 e.base ++ bytesOf 8 ({ e with grow := true, tpd := die, tpn := n } : SeqEntry).word1)
          ∧ t.transoms = s.transoms ++ [{ ten := ten, seq := id.toNat, old := e.base, new := new.toNat, mark := 0, die := die, pair := n, base := 0 }]))
  ∧ (∀ (s : State) (f : TFields) (c k : Nat) (d w r : Word) (n : BitVec 5) (q : Vec), ready (.attn f) s = true → s.hart = .core c k →
    s.tenOf s.hart < 16 → srcOf s f.d = some d → f.a = .v n → vecOf s f.a = some q → pairOf s f.b = some (w, r) →
    let ten := s.tenOf s.hart
    let id := w.toNat % 2 ^ 16
    let head := w.toNat / 2 ^ 16 % 2 ^ 8
    let lo := r.toNat % 2 ^ 32
    let hi := r.toNat / 2 ^ 32
    let e := s.seqEntry ten id
    let win := s.windowBase ten + c % 48 * 2 ^ 18
    let key := tcKey ten c
    let inside : Prop := d.toNat % 1024 = 0 ∧ win ≤ d.toNat ∧ d.toNat < win + 2 ^ 18
    let names : Prop := id < 4096 ∧ e.v = true ∧ head < 2 ^ e.lheads
    (¬ inside → exec (.attn f) s = .next (Claims.trapOf s 0x18A f cILLEGAL_OPERAND d.toNat))
    ∧ (inside → ¬ names → exec (.attn f) s = .next (Claims.trapOf s 0x18A f cILLEGAL_OPERAND w.toNat))
    ∧ (inside → names → (e.capacity < hi ∨ hi < lo) → exec (.attn f) s = .next (Claims.trapOf s 0x18A f cILLEGAL_OPERAND r.toNat))
    ∧ (inside → names → hi ≤ e.capacity → lo ≤ hi → 64 ≤ (s.attns.filter (fun a => a.core == c)).length →
      exec (.attn f) s = .next (s.setWait s.hart 0x18A f .running 0 0))
    ∧ (inside → names → hi ≤ e.capacity → lo ≤ hi → (s.attns.filter (fun a => a.core == c)).length < 64 →
      ∃ t, exec (.attn f) s = .next t
        ∧ HartOnly s { t with scratch := s.scratch, spoison := s.spoison, attns := s.attns, cores := s.cores } (base s) 0
        ∧ (∀ x, { t.core x with ctr := (s.core x).ctr } = s.core x)
        ∧ (∀ j o, o < 2 ^ 18 → ¬ (j = key ∧ d.toNat - win ≤ o ∧ o < d.toNat - win + 528) →
            t.scratch.get 0 (scrKey j o) = s.scratch.get 0 (scrKey j o))
        ∧ (lo = hi → t.attns = s.attns ∧ t.scrBytes key (d.toNat - win) 528
            = List.replicate 512 0 ++ bytesOf 4 0xFF800000 ++ List.replicate 8 0 ++ bytesOf 4 (2 ^ 31))
        ∧ (lo < hi → t.scrBytes key (d.toNat - win + 524) 4 = List.replicate 4 0
            ∧ t.scrBytes key (d.toNat - win) 524 = s.scrBytes key (d.toNat - win) 524
            ∧ ∃ a, t.attns = s.attns ++ [a] ∧ a.core = c ∧ a.ten = ten ∧ a.addr = d.toNat - win ∧ a.query = q ∧ a.seq = id ∧ a.head = head
              ∧ a.lo = lo ∧ a.hi = hi ∧ a.dim = 16 * e.dim ∧ a.parts = []
              ∧ ∀ g p, (g, p) ∈ a.pages ↔ (∃ x, lo ≤ x ∧ x < hi ∧ g = x / 32) ∧ p = s.kvPage e g head)))

/-- PFXH computes one link of the chained hash; PFXL finds the lowest LIVE entry with the hash, the depth and the ids, and
stamps it, with a pin under PIN; it reads the ids only to compare them, and reports 2^64-1 where no entry matches; PFXINS fills its victim, or reports or traps; PFXPIN adds a pin or takes one away, and PFXDEL
frees an entry or leaves it DEAD. What they reject traps, and no other byte of memory changes (08 R184 to R186). -/
def Obligations.PrefixTable : Prop :=
  (∀ (s : State) (f : TFields) (d : BitVec 6) (va i salt : Word) (loc : Loc) (pg : Page), ready (.pfxh f) s = true → f.d = .s d →
    srcOf s f.a = some va → srcOf s f.b = some i →
    (if f.m.getLsbD 0 then salt.toNat = s.descWord (s.tenOf s.hart) 7 % 2 ^ 61 else srcOf s f.d = some salt) →
    (¬ (1 ≤ i.toNat ∧ i.toNat ≤ 4095) ∨ (f.m.getLsbD 0 = true ∧ i ≠ 1) →
      exec (.pfxh f) s = .next (Claims.trapOf s 0x18D f cILLEGAL_OPERAND i.toNat))
    ∧ (1 ≤ i.toNat → i.toNat ≤ 4095 → f.m.getLsbD 0 = false → 2 ^ 61 - 1 ≤ salt.toNat →
      exec (.pfxh f) s = .next (Claims.trapOf s 0x18D f cILLEGAL_OPERAND salt.toNat))
    ∧ (1 ≤ i.toNat → i.toNat ≤ 4095 → (if f.m.getLsbD 0 then i = 1 else salt.toNat < 2 ^ 61 - 1) → va.toNat % 64 = 0 →
      allowed s va.toNat .read anyPage = some (loc, pg) → (∃ bs, Found s loc pg 64 .l1 bs) →
      ∃ t bs, Found s loc pg 64 .l1 bs ∧ exec (.pfxh f) s = .next t ∧ Untouched s t
        ∧ (let sum := ((List.range 16).map (fun j => ofBytes ((bs.drop (4 * j)).take 4) * (j + 1))).sum
          Accessed s t (setS (base s) d.toNat (BitVec.ofNat 64 ((salt.toNat * 2 ^ 17 + sum % (2 ^ 61 - 1) + i.toNat) % (2 ^ 61 - 1)))) 0)))
  ∧ (∀ (s : State) (f : TFields) (d : BitVec 6) (hash p i : Word), ready (.pfxl f) s = true → s.tenOf s.hart < 16 → f.d = .s d →
    srcOf s f.a = some hash → pairOf s f.b = some (p, i) →
    let x := s.pfxEntry (s.tenOf s.hart)
    (2 ^ 61 - 1 ≤ hash.toNat → exec (.pfxl f) s = .next (Claims.trapOf s 0x18E f cILLEGAL_OPERAND hash.toNat))
    ∧ (hash.toNat < 2 ^ 61 - 1 → ¬ (1 ≤ i.toNat ∧ i.toNat ≤ 4095) → exec (.pfxl f) s = .next (Claims.trapOf s 0x18E f cILLEGAL_OPERAND i.toNat))
    ∧ (hash.toNat < 2 ^ 61 - 1 → 1 ≤ i.toNat → i.toNat ≤ 4095 → p.toNat % 64 ≠ 0 →
      exec (.pfxl f) s = .next (Claims.trapOf s 0x18E f cMISALIGNED p.toNat))
    ∧ (hash.toNat < 2 ^ 61 - 1 → 1 ≤ i.toNat → i.toNat ≤ 4095 → p.toNat % 64 = 0 → Claims.settled s →
      ((∀ e < 64, ¬ Claims.like s hash.toNat i.toNat e) →
        ∃ t, exec (.pfxl f) s = .next t ∧ Accessed s t (setS (base s) d.toNat (BitVec.allOnes 64)) 0 ∧ Untouched s t)
      ∧ ∀ ids, Claims.Ids s p.toNat (16 * i.toNat) ids →
        (∀ e < 64, Claims.like s hash.toNat i.toNat e → Claims.Ids s (x e).tokens (16 * i.toNat) ids →
          (∀ k < e, Claims.passes s hash.toNat i.toNat ids k) →
          ∃ t, exec (.pfxl f) s = .next t ∧ Claims.EntryPut s t (setS (base s) d.toNat (BitVec.ofNat 64 e)) e
            { x e with pins := if f.m.getLsbD 0 then Min.min 65535 ((x e).pins + 1) else (x e).pins, stamp := s.time % 2 ^ 64 })
        ∧ ((∀ e < 64, Claims.passes s hash.toNat i.toNat ids e) →
          ∃ t, exec (.pfxl f) s = .next t ∧ Accessed s t (setS (base s) d.toNat (BitVec.allOnes 64)) 0 ∧ Untouched s t)))
  ∧ (∀ (s : State) (f : TFields) (d : BitVec 6) (n : BitVec 5) (v : Vec), ready (.pfxins f) s = true → s.tenOf s.hart < 16 → f.d = .s d →
    f.a = .v n → vecOf s f.a = some v →
    let w := fun i => v.toNat / 2 ^ (64 * i) % 2 ^ 64
    (2 ^ 61 - 1 ≤ w 0 → exec (.pfxins f) s = .next (Claims.trapOf s 0x18F f cILLEGAL_OPERAND (w 0)))
    ∧ (w 0 < 2 ^ 61 - 1 → ¬ (1 ≤ w 1 ∧ w 1 ≤ 4095) → exec (.pfxins f) s = .next (Claims.trapOf s 0x18F f cILLEGAL_OPERAND (w 1)))
    ∧ (w 0 < 2 ^ 61 - 1 → 1 ≤ w 1 → w 1 ≤ 4095 →
      (∀ e, Claims.Victim s e → ∃ t, exec (.pfxins f) s = .next t ∧ Claims.EntryPut s t (setS (base s) d.toNat (BitVec.ofNat 64 e)) e
        { state := 1, hash := w 0, pins := 1, depth := w 1, kvpage := w 2, tokens := w 3, stamp := s.time % 2 ^ 64 })
      ∧ ((∀ e, ¬ Claims.Victim s e) → f.m.getLsbD 4 = true → ∃ t, exec (.pfxins f) s = .next t ∧ HartOnly s t (Claims.guardOff s f (base s)) 0)
      ∧ ((∀ e, ¬ Claims.Victim s e) → f.m.getLsbD 4 = false → exec (.pfxins f) s = .next (Claims.trapOf s 0x18F f cQUEUE_FULL (w 0)))))
  ∧ (∀ (i : Instr) (s : State) (op : Nat) (f : TFields) (e : Word), fieldsOf i = some (op, f) → ready i s = true → (i = .pfxpin f ∨ i = .pfxdel f) →
    s.tenOf s.hart < 16 → srcOf s f.a = some e →
    let x := s.pfxEntry (s.tenOf s.hart) e.toNat
    (64 ≤ e.toNat → exec i s = .next (Claims.trapOf s op f cILLEGAL_OPERAND e.toNat))
    ∧ (e.toNat < 64 → i = .pfxpin f → x.state = 0 → exec i s = .next (Claims.trapOf s op f cILLEGAL_OPERAND e.toNat))
    ∧ (e.toNat < 64 → i = .pfxpin f → x.state ≠ 0 → f.m.getLsbD 0 = false → ∃ t, exec i s = .next t
        ∧ Claims.EntryPut s t (base s) e.toNat { x with pins := Min.min 65535 (x.pins + 1), stamp := s.time % 2 ^ 64 })
    ∧ (e.toNat < 64 → i = .pfxpin f → x.state ≠ 0 → f.m.getLsbD 0 = true → ∃ t, exec i s = .next t
        ∧ Claims.EntryPut s t (base s) e.toNat { x with pins := x.pins - 1, state := if x.state = 2 ∧ x.pins ≤ 1 then 0 else x.state })
    ∧ (e.toNat < 64 → i = .pfxdel f → x.state = 0 → ∃ t, exec i s = .next t ∧ HartOnly s t (base s) 0)
    ∧ (e.toNat < 64 → i = .pfxdel f → x.state ≠ 0 → ∃ t, exec i s = .next t
        ∧ Claims.EntryPut s t (base s) e.toNat { x with state := if x.pins = 0 then 0 else 2 }))

/-! ### Traps and their return (04 R82 to R85; 08 R189; 09 R210) -/

/-- A trap of a core thread with a handler saves the pc in %epc, the cause and the value, and enters the handler at %tvec, which
it clears. On an engine hart the same holds. An opcode that the kind of hart does not execute, a privileged one in tenant
mode and a field of a system register trap before any effect. TRAP enters the handler with SOFTWARE, or without one acts
as RAISE; ERET goes to its operand, or to %epc, and traps on a target that is no PC (04 R82, R85; 08 R189; 09 R210). -/
def Obligations.TrapsAndReturn : Prop :=
  (∀ (s : State) (c k cause val : Nat) (ign : Bool) (dests : List Operand), c < 1024 → k < 16 → Claims.untraced s →
    cause ≠ 0x38 → cause ≠ 0x3F → Claims.hasHandler (s.thread c k).ctx →
    Claims.TrapOnly s (s.takeTrap (.core c k) cause val .plain ign dests) c k (Claims.inHandler (s.thread c k).ctx cause val))
  ∧ (∀ (s : State) (h : HartId) (cause val : Nat) (ign : Bool) (dests : List Operand), validHart h = true → isCore h = false →
    cause ≠ 0x38 → cause ≠ 0x3F → Claims.hasHandler (s.ctxOf h) →
    let t := s.takeTrap h cause val .plain ign dests
    t.ctxOf h = Claims.inHandler (s.ctxOf h) cause val ∧ (∀ g, validHart g = true → g ≠ h → t.ctxOf g = s.ctxOf g)
      ∧ { t with octets := s.octets } = s
      ∧ ∀ o, { t.octet o with meCtx := (s.octet o).meCtx, cuCtx := (s.octet o).cuCtx } = s.octet o)
  ∧ (∀ (i : Instr) (s : State) (op : Nat) (f : TFields) (step fbit cause : Nat), fieldsOf i = some (op, f) → validHart s.hart = true →
    ((legalOn s.hart.kind op = false ∧ cause = 1 ∧ step = 1 ∧ fbit = 87)
      ∨ (legalOn s.hart.kind op = true ∧ s.tenantMode s.hart = true ∧ privileged op = true ∧ namesMewt op f = false
          ∧ cause = 4 ∧ step = 4 ∧ fbit = 87)
      ∨ (legalOn s.hart.kind op = true ∧ s.tenantMode s.hart = true ∧ privileged op = false ∧ namesMewt op f = false
          ∧ sysField f = some fbit ∧ cause = 4 ∧ step = 4)) →
    exec i s = .next (s.decodeTrap s.hart (headWord op f) cause step fbit))
  ∧ (∀ (s : State) (f : TFields) (x : Word), ready (.trap f) s = true → Claims.fieldOf s f.a = some x →
    exec (.trap f) s = .next (if (s.ctxOf s.hart).tvec = 0 then s.takeTrap s.hart 0x30 x.toNat .raise true (destsOf 0x1B2 f)
      else Claims.trapOf s 0x1B2 f 0x30 x.toNat))
  ∧ (∀ (s : State) (f : TFields) (x : Word), ready (.eret f) s = true →
    (f.a = .none ∧ x = (s.ctxOf s.hart).epc ∨ f.a ≠ .none ∧ srcOf s f.a = some x) →
    (Claims.wellFormedPc x → ∃ t, exec (.eret f) s = .next t ∧ HartOnly s t (Claims.goto (base s) x) 0)
    ∧ (¬ Claims.wellFormedPc x → exec (.eret f) s = .next (Claims.trapOf s 0x1B3 f 8 x.toNat)))

/-! ### System instructions (08 R188 to R191; 18 R341, R342; 20 R363, R376) -/

/-- The record of a mark that names a tenant, a core and a thread (20 R369, R370). -/
def Sys2Proof.Claims.mark (s : State) (ten c k a b : Nat) : List Byte :=
  bytesOf 4 0 ++ [4, BitVec.ofNat 8 (ten % 16)] ++ bytesOf 2 c ++ bytesOf 1 k ++ bytesOf 3 0 ++ bytesOf 4 a ++ bytesOf 8 s.time ++ bytesOf 8 b

/-- Word k of a reel's descriptor at physical address pa. -/
def Sys2Proof.Claims.reelWord (s : State) (pa k : Nat) : Nat := s.homeNat (pa + 8 * k) 8

/-- The fields of word k of a reel's descriptor are in range (20 R376). -/
def Sys2Proof.Claims.reelFits (s : State) (pa k : Nat) : Prop :=
  let w := Claims.reelWord s pa k
  if k = 0 then w / 2 ^ 48 = 0 ∧ w / 2 ^ 11 % 2 ^ 5 = 0 ∧ w / 2 ^ 4 % 2 ^ 5 = 0 ∧ w / 2 ^ 32 % 2 ^ 16 ≤ 1000
    ∧ (w.testBit 10 = false ∨ w.testBit 9 = false) ∧ (s.tenants.get none (w % 16)).isSome = true
  else if k = 2 then w % 4096 = 0
  else if k = 4 then w % 16 = 0
  else 7 ≤ k → w = 0

/-- SYSC makes D late, claims a slot of the cluster's service queue and posts its request with the cluster's interrupt; a full
queue reports or waits, and without a queue the symbol is poisoned. INTR sends its message, or traps on a target that is
no control core or lies outside the grant. LOGX appends its record to the launch's log ring; a full ring reports or waits, and
without a launch, or with a ring that cannot be reached, the record is lost (log entry 37). TMARK appends a mark to the open
trace sessions of its launch, where a full buffer is flushed first; on an engine hart the launch is that of its job or packet.
HLT halts its core. CKPT starts a recording, ends one, or plays a checkpoint; it waits while a job or packet of the tenant
runs, and traps on the first descriptor word whose fields are out of range and on a reel that is not in the mode it needs. -/
def Obligations.SystemServices : Prop :=
  (∀ (s : State) (f : TFields) (c k : Nat) (d : BitVec 6) (n : BitVec 5) (fn : Word) (v : Vec), ready (.sysc f) s = true → s.hart = .core c k →
    f.d = .s d → srcOf s f.a = some fn → f.b = .v n → vecOf s f.b = some v →
    let cl := clusterOfCore c
    let q := bitsOf (s.ctlWord (0x400000 + cl * 0x10000)).toNat 51 6 * 64
    let seq := s.homeNat q 4
    let size := 2 ^ (s.homeNat (q + 24) 1 % 16)
    let slot := s.homeNat (q + 16) 8 + 64 * (seq % size)
    let irq := (s.ctlWord (0x400008 + cl * 0x10000)).toNat % 2048
    let full : Prop := q ≠ 0 ∧ size ≤ (seq + 2 ^ 32 - s.homeNat (q + 8) 4) % 2 ^ 32
    (2 ^ 16 ≤ fn.toNat → exec (.sysc f) s = .next (Claims.trapOf s 0x1B0 f cILLEGAL_OPERAND fn.toNat))
    ∧ (fn.toNat < 2 ^ 16 → full → (f.m.getLsbD 4 = true → ∃ t, exec (.sysc f) s = .next t ∧ HartOnly s t (Claims.guardOff s f (base s)) 0)
        ∧ (f.m.getLsbD 4 = false → exec (.sysc f) s = .next (s.setWait s.hart 0x1B0 f .waitChannel 257 0)))
    ∧ (fn.toNat < 2 ^ 16 → ¬ full → Claims.freeSyms s 1 = [] → exec (.sysc f) s = .next (s.setWait s.hart 0x1B0 f .waitLate 256 0))
    ∧ (fn.toNat < 2 ^ 16 → q = 0 → Claims.freeSyms s 1 ≠ [] → ∃ t u i, exec (.sysc f) s = .next t
        ∧ Claims.LateBy s u i false d.toNat (.service cl seq) 1
        ∧ t = { u with syms := match u.syms.get none (c * 256 + i) with
            | some y => u.syms.set none (c * 256 + i) (some { y with state := .poison 0x30 })
            | none => u.syms })
    ∧ (fn.toNat < 2 ^ 16 → q ≠ 0 → ¬ full → (slot + 64 ≤ q ∨ q + 4 ≤ slot) → Claims.freeSyms s 1 ≠ [] →
      ∃ t i, exec (.sysc f) s = .next t
        ∧ Claims.LateBy s { t with services := s.services, irqs := s.irqs } i false d.toNat (.service cl seq) 1
        ∧ t.services = s.services ++ [{ cl := cl, seq := seq, core := c, thread := k, sym := i, ten := (s.core c).tenant }]
        ∧ t.irqs = s.irqs ++ (if irq = 0 then [] else [(cl / 5 * 6 + cl % 5, irq)])
        ∧ t.homeNat q 4 = (seq + 1) % 2 ^ 32
        ∧ t.homeBytes slot 64 = bytesOf 4 seq ++ bytesOf 2 fn.toNat ++ bytesOf 1 ((s.core c).tenant % 16) ++ bytesOf 1 k ++ bytesOf 2 (s.cidOf c)
            ++ bytesOf 1 i ++ bytesOf 5 0 ++ bytesOf 48 v.toNat
        ∧ ∀ a < 2 ^ 52, ¬ (q ≤ a ∧ a < q + 4) → ¬ (slot ≤ a ∧ a < slot + 64) → Claims.backed s t a))
  ∧ (∀ (s : State) (f : TFields) (x : Word), ready (.intr f) s = true → srcOf s f.a = some x →
    let cc := x.toNat % 32
    let id := x.toNat / 2 ^ 16
    let fits : Prop := x.toNat = 2 ^ 16 * id + cc ∧ cc < 24 ∧ 1 ≤ id ∧ id < 2048
    let w := s.descWord (s.tenOf s.hart)
    let granted : Prop := s.tenantMode s.hart = true →
      (if cc < 16 then (w 12).testBit cc else (w 13).testBit (cc - 16)) = true ∧ w 12 / 2 ^ 16 % 2 ^ 16 ≤ id ∧ id ≤ w 12 / 2 ^ 32 % 2 ^ 16
    (¬ fits → exec (.intr f) s = .next (Claims.trapOf s 0x1B1 f cILLEGAL_OPERAND x.toNat))
    ∧ (fits → ¬ granted → exec (.intr f) s = .next (Claims.trapOf s 0x1B1 f cPROTECTION 0))
    ∧ (fits → granted → f.m.getLsbD 9 = false → ∃ t, exec (.intr f) s = .next t ∧ HartOnly s { t with irqs := s.irqs } (base s) 0
        ∧ t.irqs = s.irqs ++ [(cc, id)])
    ∧ (fits → granted → f.m.getLsbD 9 = true →
        ∃ t, exec (.intr f) s = .next t ∧ Accessed s { t with irqs := s.irqs } (base s) 0 ∧ t.irqs = s.irqs ++ [(cc, id)]
          ∧ ∀ a < 2 ^ 52, Claims.backed s t a))
  ∧ (∀ (s : State) (f : TFields) (n : BitVec 5) (v : Vec), ready (.logx f) s = true → f.a = .v n → vecOf s f.a = some v →
    (f.d = .none ∨ ∃ p, f.d = .p p) →
    let done := match f.d with | .p p => setP (base s) p.toNat (onesBelow (lanes (base s))) | _ => base s
    let o := s.traceOwner s.hart
    ((s.launchOf o.1 = none ∨ ∃ y, s.launchOf o.1 = some y ∧ s.rawPa s.hart o.2.1 y.logRing.toNat = none) →
      ∃ t, exec (.logx f) s = .next t ∧ HartOnly s t done 0)
    ∧ (∀ y d, s.launchOf o.1 = some y → s.rawPa s.hart o.2.1 y.logRing.toNat = some d →
      let wi := s.homeNat d 4
      let size := 2 ^ (s.homeNat (d + 24) 1 % 16)
      (size ≤ (wi + 2 ^ 32 - s.homeNat (d + 8) 4) % 2 ^ 32 →
        (f.m.getLsbD 4 = true → ∃ t, exec (.logx f) s = .next t ∧ HartOnly s t (Claims.guardOff s f (base s)) 0)
        ∧ (f.m.getLsbD 4 = false → exec (.logx f) s = .next (s.setWait s.hart 0x1BE f .waitAcq (y.logRing.toNat + 8) 0)))
      ∧ (∀ slot, (wi + 2 ^ 32 - s.homeNat (d + 8) 4) % 2 ^ 32 < size →
        s.rawPa s.hart o.2.1 (s.homeNat (d + 16) 8 + 64 * (wi % size)) = slot → (∀ a, slot = some a → a + 64 ≤ d ∨ d + 64 ≤ a) →
        ∃ t, exec (.logx f) s = .next t ∧ Accessed s t done 0 ∧ (∀ a, slot = some a → t.homeBytes a 64 = bytesOf 64 v.toNat)
          ∧ t.homeNat d 4 = (wi + 1) % 2 ^ 32 ∧ t.homeNat (d + 40) 4 = (wi + 1) % 2 ^ 32
          ∧ ∀ x, (∀ a, slot = some a → ¬ (a ≤ x ∧ x < a + 64)) → ¬ (d ≤ x ∧ x < d + 4) → ¬ (d + 40 ≤ x ∧ x < d + 44) →
              t.homeByte x = s.homeByte x)))
  ∧ (∀ (s : State) (f : TFields) (a b : Word), ready (.tmark f) s = true → validHart s.hart = true → srcOf s f.a = some a →
    Claims.fieldOf s f.b = some b →
    let o := s.traceOwner s.hart
    let opens := fun (l : Launch) n => (s.sessWord n 2).testBit 0 && s.sessWord n 0 == l.queue && (s.sessWord n 2).testBit 11
    let buf := fun (u : State) n => u.traceBuf.get [] (n * 1024 + o.2.2.1)
    ((∀ l, s.launchOf o.1 = some l → ∀ n < 16, opens l n = false) → ∃ t, exec (.tmark f) s = .next t ∧ HartOnly s t (base s) 0)
    ∧ (∀ l, s.launchOf o.1 = some l → ∃ t, exec (.tmark f) s = .next t ∧ t.ctxOf s.hart = base s
        ∧ ((∀ n < 16, opens l n = true → (buf s n).length < 64) → HartOnly s { t with traceBuf := s.traceBuf } (base s) 0)
        ∧ ∀ n < 16, buf t n = (if opens l n then
            (if (buf s n).length < 64 then buf s n else []) ++ [Claims.mark s o.2.1 o.2.2.1 o.2.2.2 (a.toNat % 2 ^ 32) b.toNat] else buf s n)))
  ∧ (∀ (s : State) (f : TFields) (c k : Nat), ready (.hlt f) s = true → s.hart = .core c k → (s.core c).halted = false →
    ∃ t, exec (.hlt f) s = .next t ∧ (t.core c).halted = true ∧ (t.core c).haltCause = 3
      ∧ t.ctxOf s.hart = { base s with halted := true }
      ∧ (∀ j < 16, (s.thread c j).ctx.run ≠ .free → (t.thread c j).ctx.halted = true ∧ (t.thread c j).ctx.pc = ((entered s).thread c j).ctx.pc)
      ∧ (∀ d < 1024, (s.core d).halted = true → (t.core d).halted = true) ∧ t.scratch = s.scratch ∧ t.syms = s.syms)
  ∧ (∀ (s : State) (f : TFields) (va : Word) (pa : Nat) (pg : Page), ready (.ckpt f) s = true → srcOf s f.a = some va → va.toNat % 128 = 0 →
    allowed s va.toNat .read homePage = some (.dev pa, pg) →
    let w := Claims.reelWord s pa 0
    let ten := w % 16
    let starts : Prop := w.testBit 9 = false ∧ w.testBit 10 = false ∧ Claims.reelWord s pa 1 % 4 = 0 ∧ ∀ r ∈ s.reels, r.ten = ten → r.mode ≠ 1
    let stops : Prop := w.testBit 9 = true ∧ ∃ r, s.reelAt pa = some r ∧ r.mode = 1
    let plays : Prop := w.testBit 10 = true ∧ ∃ r, s.reelAt pa = some r ∧ r.mode = 3 ∧ w / 2 ^ 16 % 2 ^ 16 < r.snaps.length
    (∀ k < 16, ¬ Claims.reelFits s pa k → (∀ j < k, Claims.reelFits s pa j) →
      exec (.ckpt f) s = .next (Claims.trapOf s 0x1BA f cILLEGAL_OPERAND (va.toNat + 8 * k)))
    ∧ ((∀ k < 16, Claims.reelFits s pa k) →
    (w.testBit 9 = false → w.testBit 10 = false → Claims.reelWord s pa 1 % 4 = 0 → (∀ r ∈ s.reels, r.ten = ten → r.mode ≠ 1) →
      s.tenantBusy ten = false → ∃ t, exec (.ckpt f) s = .next t ∧ t.ctxOf s.hart = base s
        ∧ ∃ r ∈ t.reels, r.addr = pa ∧ r.ten = ten ∧ (r.mode = 1 ∧ r.snaps.length = 1 ∨ r.mode = 3))
    ∧ (∀ r, w.testBit 9 = true → s.reelAt pa = some r → r.mode = 1 → r.ten = ten → s.tenantBusy ten = false →
        (∀ q ∈ s.reels, q.ten = ten → q.mode = 1 → q.addr = pa) →
        ∃ t, exec (.ckpt f) s = .next t ∧ t.ctxOf s.hart = base s ∧ ∃ q, t.reelAt pa = some q ∧ q.mode = 3)
    ∧ (∀ r x, w.testBit 10 = true → s.reelAt pa = some r → r.mode = 3 → r.ten = ten → r.snaps[w / 2 ^ 16 % 2 ^ 16]? = some x →
        s.tenOf s.hart ≠ ten → SMap.wf Thread.zero x.threads = true → (∀ e ∈ x.threads, e.1 / 16384 = ten) →
        ∃ t, exec (.ckpt f) s = .next t ∧ t.ctxOf s.hart = base s ∧ (∃ q, t.reelAt pa = some q ∧ q.mode = 2)
          ∧ (∀ j, j / 16384 = ten → t.threads.get Thread.zero j = x.threads.get Thread.zero j)
          ∧ ∀ j, j / 16384 ≠ ten → (∀ c k, s.hart = .core c k → j ≠ thKey (s.core c).tenant c k) →
              t.threads.get Thread.zero j = s.threads.get Thread.zero j)
    ∧ ((starts ∧ s.tenantBusy ten = true ∨ ∃ r, stops ∧ s.reelAt pa = some r ∧ s.tenantBusy r.ten = true) →
        exec (.ckpt f) s = .next (s.setWait s.hart 0x1BA f .waitJob va.toNat 0))
    ∧ (¬ starts → ¬ stops → ¬ plays → exec (.ckpt f) s = .next (Claims.trapOf s 0x1BA f cILLEGAL_OPERAND va.toNat))))

/-- An address lies in the page that an entry of a translation cache holds: its frame and its size code stand in the key. -/
def Sys2Proof.Claims.samePage (key a : Nat) : Bool :=
  key / 4 % 2 ^ 36 * 4096 / pageSize (key % 4) == a / pageSize (key % 4)

/-- A translation cache, 0 to 959 a core's and 960 on a cluster's, lies within a scope of a core: 1 CORE, 2 CLUSTER, 3 DIE,
4 PKG (08 R190, 14 R291). -/
def Sys2Proof.Claims.inScope (scope c cache : Nat) : Bool :=
  if scope = 1 then cache == c && decide (cache < 960)
  else if scope = 2 then (if cache < 960 then cache / 48 == c / 48 else cache - 960 == c / 48)
  else if scope = 3 then (if cache < 960 then cache / 240 == dieOfCore c else (cache - 960) / 5 == dieOfCore c)
  else true

/-- The value of a performance counter that a core thread reads (08 R191, 20 R374). -/
def Sys2Proof.Claims.counterOf (s : State) (c k i : Nat) : Word :=
  if i < 16 then (s.thread c k).ctr.get 0 i
  else if i = 16 then BitVec.ofNat 64 (s.now c)
  else if i ≤ 30 then (s.core c).ctr.get 0 i
  else if i ≤ 44 then (s.octet (c / 8)).ctr.get 0 i
  else (s.core (48 * clusterOfCore c)).ctr.get 0 i

/-- RDX reads and WRX writes a special register of the issuing hart or of a thread that is halted or FREE; a register with no
readable value gives a free one in its bits that are not marked zero; TLBI drops the
translations of its page and tenant within its scope; IFENCE and CCTL empty the instruction cache, and CCTL writes dirty
words back and drops their lines, those of the whole cluster where its L1s are fused; PERF reads a counter, 28 as a free value (log entry 15); SPADMAP gives a scratchpad window's address. What they reject traps
(08 R190, R191). -/
def Obligations.SystemRegisters : Prop :=
  (∀ (s : State) (f : TFields) (d : BitVec 6) (n : BitVec 10) (b : Word), ready (.rdx f) s = true → f.d = .s d → f.a = .x n →
    (f.b = .none ∨ f.b ≠ .none ∧ srcOf s f.b = some b) →
    let names : Prop := b.toNat = b.toNat / 2 ^ 16 * 2 ^ 16 + b.toNat % 2 ^ 10 ∧ b.toNat / 2 ^ 16 < 16 ∧ b.toNat % 2 ^ 10 < 960
    let k : HartId := if f.b = .none then s.hart else .core (b.toNat % 2 ^ 10) (b.toNat / 2 ^ 16)
    (f.b ≠ .none → ¬ names → exec (.rdx f) s = .next (Claims.trapOf s 0x1B4 f cILLEGAL_OPERAND b.toNat))
    ∧ ((f.b = .none ∨ names) → specialOpen k n.toNat = false →
        ∃ t, exec (.rdx f) s = .next t ∧ HartOnly s t (setS (base s) d.toNat (BitVec.ofNat 64 (s.special k n.toNat))) 0)
    ∧ ((f.b = .none ∨ names) → specialOpen k n.toNat = true → ∃ t, exec (.rdx f) s = .next t
        ∧ HartOnly s { t with freeCtr := s.freeCtr } (setS (base s) d.toNat (BitVec.ofNat 64 (Config.freeNat s.freeCtr &&& openMask n.toNat))) 0))
  ∧ (∀ (s : State) (f : TFields) (n : BitVec 10) (v b : Word), ready (.wrx f) s = true → f.d = .x n → srcOf s f.a = some v →
    (f.b = .none ∨ f.b ≠ .none ∧ srcOf s f.b = some b) →
    let names : Prop := b.toNat = b.toNat / 2 ^ 16 * 2 ^ 16 + b.toNat % 2 ^ 10 ∧ b.toNat / 2 ^ 16 < 16 ∧ b.toNat % 2 ^ 10 < 960
    let k : HartId := .core (b.toNat % 2 ^ 10) (b.toNat / 2 ^ 16)
    let late := fun (c : Ctx) => n.toNat == 1 && c.anyLateV
    let stopped : Prop := ((entered s).ctxOf k).halted = true ∨ ((entered s).ctxOf k).run = .free
    (f.b = .none → specialOk (entered s) n.toNat v = true → ∃ t, exec (.wrx f) s = .next t ∧ Wrote s t 0 (.x n) v)
    ∧ (f.b = .none → late (s.ctxOf s.hart) = false → (entered s).setSpecial s.hart n.toNat v = none →
        exec (.wrx f) s = .next (Claims.trapOf s 0x1B5 f cILLEGAL_OPERAND v.toNat))
    ∧ (f.b ≠ .none → (¬ names ∨ ¬ stopped) → exec (.wrx f) s = .next (Claims.trapOf s 0x1B5 f cILLEGAL_OPERAND b.toNat))
    ∧ (∀ t, f.b ≠ .none → names → stopped → late ((entered s).ctxOf k) = false → (entered s).setSpecial k n.toNat v = some t →
        exec (.wrx f) s = .next t)
    ∧ (f.b ≠ .none → names → stopped → late ((entered s).ctxOf k) = false → (entered s).setSpecial k n.toNat v = none →
        exec (.wrx f) s = .next (Claims.trapOf s 0x1B5 f cILLEGAL_OPERAND v.toNat)))
  ∧ (∀ (s : State) (f : TFields) (c k : Nat) (a b : Word), ready (.tlbi f) s = true → s.hart = .core c k →
    (f.a = .none ∨ f.a ≠ .none ∧ srcOf s f.a = some a) → (f.b = .none ∨ f.b ≠ .none ∧ srcOf s f.b = some b) → 1 ≤ mField f.m 7 5 → mField f.m 7 5 ≤ 4 →
    let drops := fun (key : Nat) (e : TlbVal) => Claims.inScope (mField f.m 7 5) c (key / 2 ^ 43)
      && (decide (f.b = .none) || key / 2 ^ 38 % 32 == b.toNat % 16) && (if f.a = .none then decide (f.b = .none) || !e.pte.getLsbD 18 else Claims.samePage key a.toNat)
    ∃ t, exec (.tlbi f) s = .next t ∧ HartOnly s { t with tlb := s.tlb } (base s) 0
      ∧ (∀ key e, t.tlb.get none key = some e → drops key e = false)
      ∧ ∀ key e, s.tlb.get none key = some e → drops key e = false → t.tlb.get none key = some e)
  ∧ (∀ (i : Instr) (s : State) (f : TFields) (c k : Nat) (x : Word), ready i s = true → s.hart = .core c k →
    (i = .ifence f ∨ i = .cctl f ∧ mField f.m 1 0 = 2 ∧ Claims.fieldOf s f.a = some x) →
    ∃ t, exec i s = .next t ∧ HartOnly s { t with icache := s.icache } (base s) 0
      ∧ (∀ j, j / 2 ^ 49 = c → t.icache.get none j = none) ∧ ∀ j, j / 2 ^ 49 ≠ c → t.icache.get none j = s.icache.get none j)
  ∧ (∀ (s : State) (f : TFields) (c k : Nat) (x : Word), ready (.cctl f) s = true → s.hart = .core c k → mField f.m 1 0 < 2 →
    Claims.fieldOf s f.a = some x →
    (∀ m w, m / 48 = c / 48 → w < 2 ^ 49 → (s.l1.get none (m * 2 ^ 49 + w)).isSome = true → s.l1Of m w = m) →
    let mine := fun w => match s.l1Get c w with | some y => y.dirty && (decide (f.a = .none) || y.ten == x.toNat) | none => false
    let lost := fun w => decide (mField f.m 1 0 = 1) && (List.range 32).any (fun j => mine (w / 32 * 32 + j))
    ∃ t, exec (.cctl f) s = .next t ∧ Accessed s t (base s) 0 ∧ t.scratch = s.scratch ∧ t.spoison = s.spoison ∧ t.peerStores = s.peerStores
      ∧ (∀ a < 2 ^ 52, t.homeByte a = if mine (a / 8) || lost (a / 8) then Claims.homeAfter s c a else s.homeByte a)
      ∧ ∀ w < 2 ^ 49, t.l1Get c w = if lost w then none else if mine w then (s.l1Get c w).map Claims.cleaned else s.l1Get c w)
  ∧ (∀ (s : State) (f : TFields) (c k : Nat) (d : BitVec 6) (i : Word), ready (.perf f) s = true → s.hart = .core c k → f.d = .s d →
    srcOf s f.a = some i →
    (64 ≤ i.toNat → exec (.perf f) s = .next (Claims.trapOf s 0x1BD f cILLEGAL_OPERAND i.toNat))
    ∧ (16 ≤ i.toNat → i.toNat < 64 → s.tenantMode s.hart = true → exec (.perf f) s = .next (Claims.trapOf s 0x1BD f cPRIVILEGE 0))
    ∧ (i.toNat < 64 → i.toNat ≠ 28 → (i.toNat < 16 ∨ s.tenantMode s.hart = false) →
        ∃ t, exec (.perf f) s = .next t ∧ HartOnly s t (setS (base s) d.toNat (Claims.counterOf s c k i.toNat)) 0)
    ∧ (i.toNat = 28 → s.tenantMode s.hart = false → ∃ t, exec (.perf f) s = .next t
        ∧ HartOnly s { t with freeCtr := s.freeCtr } (setS (base s) d.toNat (BitVec.ofNat 64 (Config.freeNat s.freeCtr))) 0))
  ∧ (∀ (s : State) (f : TFields) (d : BitVec 6) (j : Word), ready (.spadmap f) s = true → f.d = .s d → srcOf s f.a = some j →
    (48 ≤ j.toNat → exec (.spadmap f) s = .next (Claims.trapOf s 0x1BF f cILLEGAL_OPERAND j.toNat))
    ∧ (j.toNat < 48 → ∃ t, exec (.spadmap f) s = .next t
        ∧ HartOnly s t (setS (base s) d.toNat (BitVec.ofNat 64 (s.windowBase (s.tenOf s.hart) + j.toNat * 2 ^ 18))) 0))

/-! ### Engine microcode (08 R192 to R194; 12 R253, R258, R259; 15 R308) -/

/-- From s to t the registers of the hart became c, and the record of its octet changed by g. -/
def Sys2Proof.Claims.Engine (s t : State) (c : Ctx) (g : Octet → Octet) : Prop :=
  ∃ u, HartOnly s u (base s) 0 ∧ HartOnly (u.setOctet (octetOf s.hart) (g (u.octet (octetOf s.hart)))) t c 0

/-- The parts of [va, va + n) by page, for n up to a page. -/
def Sys2Proof.Claims.parts (va n : Nat) : List (Nat × Nat) :=
  if va % 4096 + n ≤ 4096 then [(va, n)] else [(va, 4096 - va % 4096), (va + (4096 - va % 4096), n - (4096 - va % 4096))]

/-- n bytes of an aperture lie within the lines of its node (13 R265). -/
def Sys2Proof.Claims.roomy (s : State) (loc : Loc) (n : Nat) : Prop :=
  ∀ m off, loc = .ln m off → off + n ≤ 256 * (s.node (s.tenOf s.hart) m).lines

/-- The bytes that reads of parts find at their homes. -/
def Sys2Proof.Claims.RangeFound (s : State) : List (Nat × Nat) → List Byte → Prop
  | [], bs => bs = []
  | (va, n) :: r, bs => ∃ loc pg x y, allowed s va .read anyPage = some (loc, pg) ∧ Claims.roomy s loc n ∧ Found s loc pg n .home x ∧ Claims.RangeFound s r y ∧ bs = x ++ y

/-- A tile address word: the tile's key, the half and the type; the word is in range (08 R192). -/
def Sys2Proof.Claims.tileOk (x : Word) : Prop := x.toNat < 2 ^ 15
def Sys2Proof.Claims.tileAt (s : State) (x : Word) : Tile := ((s.octet (octetOf s.hart)).tiles.get none (x.toNat % 4096)).getD { typ := 0, cells := 0, scales := [], tag := none, used := 0 }

/-- The sum of a tile's column n over the rows whose plane bit p is set, in half units (08 R193). -/
def Sys2Proof.Claims.columnSum (t : Tile) (vals : List Int) (p n : Nat) : Int :=
  ((List.range 32).map (fun k => if (vals.getD k 0 / 2 ^ p) % 2 = 1 then
    (let c := bs4Half t.typ (t.cells / 16 ^ (32 * k + n) % 16); if c.1 then -(c.2 : Int) else (c.2 : Int)) else 0)).sum

/-- Block i of the row buffer as a number, for a format. -/
def Sys2Proof.Claims.rowBlock (o : Octet) (fmt i : Nat) : Nat :=
  ofBytes ((List.range (4 * fmtBits fmt)).map (fun j => o.rowbuf.get 0 (i * (4 * fmtBits fmt) + j)))

/-- The take of a layer that the hart reaches: its key, its directory entry, and its number of lines (15 R299, R308). -/
def Sys2Proof.Claims.Take (s : State) (layer k : Nat) (e : TakeDir) (lines : Nat) : Prop :=
  s.takeKey (octetOf s.hart / 30) (s.tenOf s.hart) layer = some k ∧ s.takes.get none k = some e
    ∧ lines = s.homeNat (s.takeLine (k / 4096) e 0 + 24) 2

/-- Cells, banks, the row buffer and planes: CIMW writes half a tile and its type, CIMR reads it, BPL adds a weighted plane to a
bank, ACCRD adds a bank times a factor to 32 lanes, ACCCLR zeroes banks, RBLD loads the row buffer, PLANES forms the plane
register and counts its planes, DUPF splits the entries of a map that lie in the current block, and DELTA forms the block
of differences against a take. Indexes out of range trap, as a map that breaks its limits and a layer without a take do (08 R192, R193;
03 R63 to R66; the halves of an odd BF16 subnormal are log entry 104). BPL runs a tile step, so it keeps the macros ramped up
(log entry 111). -/
def Obligations.EngineArithmetic : Prop :=
  (∀ (s : State) (f : TFields) (x : Word) (n : BitVec 5) (v : Vec), ready (.cimw f) s = true → srcOf s f.d = some x → f.a = .v n →
    vecOf s f.a = some v →
    (¬ Claims.tileOk x → exec (.cimw f) s = .next (Claims.trapOf s 0x1E0 f cILLEGAL_OPERAND x.toNat))
    ∧ (Claims.tileOk x → ∃ t cells, exec (.cimw f) s = .next t
        ∧ Claims.Engine s t (base s) (fun o => { o with tiles := o.tiles.set none (x.toNat % 4096) (some { Claims.tileAt s x with
            typ := x.toNat / 2 ^ 13
            cells := cells
            tag := none }) })
        ∧ (∀ j < 512, cells / 16 ^ (512 * (x.toNat / 2 ^ 12 % 2) + j) % 16 = v.toNat / 16 ^ j % 16)
        ∧ ∀ j < 1024, j / 512 ≠ x.toNat / 2 ^ 12 % 2 → cells / 16 ^ j % 16 = (Claims.tileAt s x).cells / 16 ^ j % 16))
  ∧ (∀ (s : State) (f : TFields) (x : Word) (n : BitVec 5), ready (.cimr f) s = true → f.d = .v n → srcOf s f.a = some x →
    (¬ Claims.tileOk x → exec (.cimr f) s = .next (Claims.trapOf s 0x1E1 f cILLEGAL_OPERAND x.toNat))
    ∧ (Claims.tileOk x → ∃ t, exec (.cimr f) s = .next t
        ∧ HartOnly s t (setV (base s) n.toNat (BitVec.ofNat 2048 ((Claims.tileAt s x).cells / 2 ^ (2048 * (x.toNat / 2 ^ 12 % 2))))) 0))
  ∧ (∀ (s : State) (f : TFields) (b x p : Word), ready (.bpl f) s = true → srcOf s f.d = some b → srcOf s f.a = some x → srcOf s f.b = some p →
    (64 ≤ b.toNat → exec (.bpl f) s = .next (Claims.trapOf s 0x1E2 f cILLEGAL_OPERAND b.toNat))
    ∧ (b.toNat < 64 → ¬ Claims.tileOk x → exec (.bpl f) s = .next (Claims.trapOf s 0x1E2 f cILLEGAL_OPERAND x.toNat))
    ∧ (b.toNat < 64 → Claims.tileOk x → 16 ≤ p.toNat → exec (.bpl f) s = .next (Claims.trapOf s 0x1E2 f cILLEGAL_OPERAND p.toNat))
    ∧ (b.toNat < 64 → Claims.tileOk x → p.toNat < 16 → ∃ t banks ctr, exec (.bpl f) s = .next t
        ∧ Claims.Engine s t (base s) (fun o => { o with
            banks := banks
            ctr := ctr
            ramp := { o.ramp with on := true, stepped := true } })
        ∧ (let o := s.octet (octetOf s.hart)
          let old := fun j => o.banks.get ⟨0, false⟩ j
          (∀ n < 32, banks.get ⟨0, false⟩ (32 * b.toNat + n) = ⟨(old (32 * b.toNat + n)).num
              + (if f.m.getLsbD 0 then -(2 ^ p.toNat) else 2 ^ p.toNat) * Claims.columnSum (Claims.tileAt s x) o.planes.vals p.toNat n,
              (old (32 * b.toNat + n)).nan || o.planes.nan⟩)
          ∧ ∀ j, j / 32 ≠ b.toNat → banks.get ⟨0, false⟩ j = old j)))
  ∧ (∀ (s : State) (f : TFields) (n : BitVec 5) (v : Vec) (b : Word) (x : Nat), ready (.accrd f) s = true → f.d = .v n → vecOf s f.d = some v →
    srcOf s f.a = some b → fpOf s f.b = some x →
    let bank := fun e => (s.octet (octetOf s.hart)).banks.get ⟨0, false⟩ (32 * b.toNat + e)
    let val := fun e => if (bank e).nan then FV.nan false else .fin (decide ((bank e).num < 0)) (bank e).num.natAbs 2
    let lane := fun e => v.toNat / 2 ^ (32 * e) % 2 ^ 32
    let rs := (List.range 32).map (fun e => fmaF fp32 .rne (val e) (decodeF fp32 x) (decodeF fp32 (lane e)))
    let fl := rs.foldl (fun a r => a ||| r.fl) 0
    (64 ≤ b.toNat → exec (.accrd f) s = .next (Claims.trapOf s 0x1E4 f cILLEGAL_OPERAND b.toNat))
    ∧ (b.toNat < 64 → ∃ t, exec (.accrd f) s = .next t ∧ HartOnly s t (setV (addFlags (base s) fl) n.toNat (BitVec.ofNat 2048
      (packElems 32 (rs.map (fun r => r.bits) ++ (List.range 32).map (fun e => lane (32 + e)))))) fl))
  ∧ (∀ (s : State) (f : TFields) (b : Word), ready (.accclr f) s = true → Claims.fieldOf s f.a = some b →
    (64 ≤ b.toNat → exec (.accclr f) s = .next (Claims.trapOf s 0x1E5 f cILLEGAL_OPERAND b.toNat))
    ∧ (b.toNat < 64 → ∃ t banks, exec (.accclr f) s = .next t ∧ Claims.Engine s t (base s) (fun o => { o with banks := banks })
      ∧ ∀ j, banks.get ⟨0, false⟩ j = if f.a = .none ∨ j / 32 = b.toNat then ⟨0, false⟩ else (s.octet (octetOf s.hart)).banks.get ⟨0, false⟩ j))
  ∧ (∀ (s : State) (f : TFields) (off : Word) (va : Nat), ready (.rbld f) s = true → srcOf s f.d = some off → Claims.addrOf s f = some va →
    (¬ (off.toNat % 256 = 0 ∧ off.toNat < 8192) → exec (.rbld f) s = .next (Claims.trapOf s 0x1E3 f cILLEGAL_OPERAND off.toNat))
    ∧ (off.toNat % 256 = 0 → off.toNat < 8192 → (va % 4096 + 256 ≤ 4096 ∨ Claims.settled s) → (∃ bs, Claims.RangeFound s (Claims.parts va 256) bs) →
      ∃ t u bs buf, Claims.RangeFound s (Claims.parts va 256) bs ∧ exec (.rbld f) s = .next t ∧ Accessed s u (base s) 0 ∧ Untouched s u
        ∧ t = u.setOctet (octetOf s.hart) { u.octet (octetOf s.hart) with rowbuf := buf }
        ∧ ∀ j, buf.get 0 j = if off.toNat ≤ j ∧ j < off.toNat + 256 then bs.getD (j - off.toNat) 0 else (s.octet (octetOf s.hart)).rowbuf.get 0 j))
  ∧ (∀ (s : State) (f : TFields) (d : BitVec 6) (i : Word), ready (.planes f) s = true → f.d = .s d → srcOf s f.a = some i →
    let fmt := mField f.m 3 0
    let o := s.octet (octetOf s.hart)
    1 ≤ fmtBits fmt →
    (8192 / (4 * fmtBits fmt) ≤ i.toNat → exec (.planes f) s = .next (Claims.trapOf s 0x1E6 f cILLEGAL_OPERAND i.toNat))
    ∧ (i.toNat < 8192 / (4 * fmtBits fmt) → ∃ t u ty, exec (.planes f) s = .next t
        ∧ (let b := aBlock fmt ((elems (fmtBits fmt) 32 (Claims.rowBlock o fmt i.toNat)).map (fun e => aElem fmt e (64 * ty + 33)))
          (fmt = 12 ∧ ty < 4 ∧ u = { s with freeCtr := s.freeCtr + 1 } ∨ fmt ≠ 12 ∧ u = s)
          ∧ Claims.Engine u t (setS (base s) d.toNat (BitVec.ofNat 64 b.planes))
              (fun o => { o with planes := { vals := b.q, nan := b.nan, fmt := fmt, block := i.toNat, redir := [] } }))))
  ∧ (∀ (s : State) (f : TFields) (twin off : Word), ready (.dupf f) s = true → srcOf s f.d = some twin → srcOf s f.a = some off →
    let o := s.octet (octetOf s.hart)
    let fmt := if o.planes.fmt = 0 then 1 else o.planes.fmt
    let word := fun (j : Nat) => (o.rowbuf.get 0 (off.toNat + 2 * j)).toNat + 256 * (o.rowbuf.get 0 (off.toNat + 2 * j + 1)).toNat
    let ks := (List.range (word 0)).map (fun j => word (j + 1))
    let here := ks.zipIdx.filter (fun e => e.1 / 32 == o.planes.block)
    let fine : Prop := word 0 ≤ 32 ∧ (∀ j, j + 1 < word 0 → word (j + 1) < word (j + 2)) ∧ (fmt = 12 → word 0 = 0)
      ∧ ∀ q jb, s.hart = .me (octetOf s.hart) q → s.headJob (octetOf s.hart) q = some jb → ∀ j < word 0, word (j + 1) < (parseJob jb.packet).k
    let inside : Prop := twin.toNat < 8192 / (4 * fmtBits fmt) ∧ off.toNat + 66 ≤ 8192
    1 ≤ fmtBits fmt →
    (8192 / (4 * fmtBits fmt) ≤ twin.toNat → exec (.dupf f) s = .next (Claims.trapOf s 0x1E7 f cILLEGAL_OPERAND twin.toNat))
    ∧ (twin.toNat < 8192 / (4 * fmtBits fmt) → 8192 < off.toNat + 66 → exec (.dupf f) s = .next (Claims.trapOf s 0x1E7 f cILLEGAL_OPERAND off.toNat))
    ∧ (inside → ¬ fine → exec (.dupf f) s = .next (Claims.trapOf s 0x1E7 f cFORMAT 0))
    ∧ (inside → fine → ∃ t rowbuf planes, exec (.dupf f) s = .next t
        ∧ Claims.Engine s t (base s) (fun o => { o with rowbuf := rowbuf, planes := planes })
        ∧ (let es := o.rowElems fmt 0 o.planes.block
          let main := es.zipIdx.map (fun e => if here.any (fun k => k.1 % 32 == e.2) then (splitStored fmt e.1).1 else e.1)
          planes.vals = (aBlock fmt main).q ∧ planes.nan = (aBlock fmt main).nan ∧ planes.fmt = fmt ∧ planes.block = o.planes.block
          ∧ planes.redir = here.map (fun e => (e.2, e.1))
          ∧ (∀ j, (j / (4 * fmtBits fmt) ≠ o.planes.block) → (j / (4 * fmtBits fmt) ≠ twin.toNat) → rowbuf.get 0 j = o.rowbuf.get 0 j)
          ∧ (twin.toNat ≠ o.planes.block → o.planes.block < 8192 / (4 * fmtBits fmt) → ∀ e ∈ here,
              Claims.rowBlock { o with rowbuf := rowbuf } fmt o.planes.block / 2 ^ (fmtBits fmt * (e.1 % 32)) % 2 ^ fmtBits fmt
                = elemBits fmt (splitStored fmt (es.getD (e.1 % 32) aZero)).1
              ∧ Claims.rowBlock { o with rowbuf := rowbuf } fmt twin.toNat / 2 ^ (fmtBits fmt * e.2) % 2 ^ fmtBits fmt
                = elemBits fmt (splitStored fmt (es.getD (e.1 % 32) aZero)).2))))
  ∧ (∀ (s : State) (f : TFields) (d : BitVec 4) (i line : Word) (q : Nat) (jb : Job) (loc : Loc) (pg : Page) (k : Nat) (e : TakeDir) (lines : Nat),
    ready (.delta f) s = true → s.hart = .me (octetOf s.hart) q → f.d = .p d → srcOf s f.a = some i → srcOf s f.b = some line →
    s.headJob (octetOf s.hart) q = some jb → allowed s (parseJob jb.packet).a .read anyPage = some (loc, pg) →
    let fmt := if pg.fmt = 8 then 8 else 10
    (8192 / (4 * fmtBits fmt) ≤ i.toNat → exec (.delta f) s = .next (Claims.trapOf s 0x1E8 f cILLEGAL_OPERAND i.toNat))
    ∧ (i.toNat < 8192 / (4 * fmtBits fmt) → s.takeKey (octetOf s.hart / 30) (s.tenOf s.hart) (parseJob jb.packet).layer = none →
      exec (.delta f) s = .next (Claims.trapOf s 0x1E8 f cPAGE_FAULT 0))
    ∧ (i.toNat < 8192 / (4 * fmtBits fmt) → Claims.Take s (parseJob jb.packet).layer k e lines → line.toNat < lines →
    let m := s.homeNat (s.takeLine (k / 4096) e 0 + 20) 2
    let kb := s.homeNat (s.takeLine (k / 4096) e 0 + 26) 2
    let first := ceilDiv (4 * m * kb) 256 + 1
    first ≤ line.toNat →
    let scale := s.homeNat (s.takeLine (k / 4096) e 1 + 4 * (8 * (line.toNat - first) + i.toNat % 8)) 4
    let xs := (elems (fmtBits fmt) 32 (Claims.rowBlock (s.octet (octetOf s.hart)) fmt i.toNat)).map (fun x => medlQuant (decodeElem fmt x) scale)
    let old := fun j => (BitVec.ofNat 8 (s.homeNat (s.takeLine (k / 4096) e line.toNat + 32 * (i.toNat % 8) + j) 1)).toInt
    let ds := (List.range 32).map (fun j => (xs.getD j (0, false)).1 - old j)
    let ok := xs.all (fun x => !x.2) && ds.all (fun x => decide (-32 ≤ x ∧ x ≤ 31))
    ∃ t u, exec (.delta f) s = .next t ∧ Accessed s u (base s) 0 ∧ Untouched s u
      ∧ HartOnly (if ok then u.setOctet (octetOf s.hart) { u.octet (octetOf s.hart) with planes := { vals := ds, nan := false, fmt := 1, block := i.toNat, redir := [] } } else u)
          t (setP (base s) d.toNat (if ok then onesBelow (lanes (base s)) else 0)) 0))

/-- TAKEW and TAKER write and read a line of the layer's take, and trap without one; BEATRD and BEATWR move beats of 64 bytes;
CONV converts elements; WPSET publishes a write pointer that does not go back; CMPL writes its record with the end of its
job or packet; PKTNEXT takes the next packet of a queue; SCATR posts rows to their owners, a core or a home slice, and counts them,
one count an owner, in some order (08 R193, R194; 12 R253, R259, R260; log entries 44 and 106). -/
def Obligations.EngineTransfers : Prop :=
  (∀ (i : Instr) (s : State) (op : Nat) (f : TFields) (layer line : Word), fieldsOf i = some (op, f) → ready i s = true → (i = .takew f ∨ i = .taker f) →
    (i = .takew f → ∃ n, f.d = .v n ∧ (vecOf s f.d).isSome = true) → srcOf s f.a = some layer → srcOf s f.b = some line →
    ((s.takeKey (octetOf s.hart / 30) (s.tenOf s.hart) layer.toNat = none ∨ (∃ k e l, Claims.Take s layer.toNat k e l ∧ l ≤ line.toNat)) →
      exec i s = .next (Claims.trapOf s op f cPAGE_FAULT 0))
    ∧ (∀ k e l, Claims.Take s layer.toNat k e l → line.toNat < l →
      (i = .takew f → line = 0 → exec i s = .next (Claims.trapOf s op f cPROTECTION 0))
      ∧ (∀ n v, i = .takew f → line ≠ 0 → f.d = .v n → vecOf s f.d = some v → ∃ t, exec i s = .next t
          ∧ Claims.HomePut s t (base s) (s.takeLine (k / 4096) e line.toNat) (bytesOf 256 v.toNat))
      ∧ (∀ n, i = .taker f → f.d = .v n → s.homePoisoned (s.takeLine (k / 4096) e line.toNat) 256 = false → ∃ t, exec i s = .next t
          ∧ HartOnly s t (setV (base s) n.toNat (BitVec.ofNat 2048 (s.homeNat (s.takeLine (k / 4096) e line.toNat) 256))) 0)))
  ∧ (∀ (i : Instr) (s : State) (op : Nat) (f : TFields) (va : Nat), fieldsOf i = some (op, f) → ready i s = true → (i = .beatrd f ∨ i = .beatwr f) →
    (i = .beatwr f → ∃ n, f.d = .v n ∧ (vecOf s f.d).isSome = true) → Claims.addrOf s f = some va →
    let n := 64 * (mField f.m 1 0 + 1)
    (va % 64 ≠ 0 → exec i s = .next (Claims.trapOf s op f cMISALIGNED va))
    ∧ (∀ d, i = .beatrd f → f.d = .v d → va % 64 = 0 → (va % 4096 + n ≤ 4096 ∨ Claims.settled s) → (∃ bs, Claims.RangeFound s (Claims.parts va n) bs) →
        ∃ t bs, Claims.RangeFound s (Claims.parts va n) bs ∧ exec i s = .next t
          ∧ Accessed s t (setV (base s) d.toNat (BitVec.ofNat 2048 (ofBytes bs))) 0 ∧ Untouched s t)
    ∧ (∀ d v, i = .beatwr f → f.d = .v d → vecOf s f.d = some v → va % 64 = 0 →
        (∀ m o pg u, va % 4096 + n ≤ 4096 → allowed s va .write anyPage = some (.ln m o, pg) → Claims.roomy s (.ln m o) n →
          s.deadLine (s.tenOf s.hart) m o n = false → s.nodeStore (s.tenOf s.hart) m o (bytesOf n v.toNat) (n + 1) = some u →
          ∃ t, exec i s = .next t ∧ t.ctxOf s.hart = base s ∧ t.mem = (u.bump (s.tenOf s.hart) m).mem)
        ∧ ((va % 4096 + n ≤ 4096 ∨ Claims.settled s) → (∀ e ∈ Claims.parts va n, ∃ loc pg, allowed s e.1 .write anyPage = some (loc, pg) ∧ ∀ m o, loc ≠ .ln m o) →
        ∃ t u, exec i s = .next t ∧ Accessed s u (base s) 0 ∧ Claims.Stored s u true ((bytesOf n v.toNat).zipIdx.map (fun e => (va + e.2, e.1)))
          ∧ t = match s.hart with
            | .cu o ch => (match (u.octet o).chans.get none ch with
              | some r => u.setRun o ch { r with bytes := r.bytes + n }
              | none => u)
            | _ => u)))
  ∧ (∀ (s : State) (f : TFields) (d : BitVec 5) (n : BitVec 5) (v : Vec) (x : Nat), ready (.conv f) s = true → f.d = .v d → f.a = .v n → vecOf s f.a = some v →
    fpOf s f.b = some x →
    let sf := mField f.m 7 4
    let df := mField f.m 3 0
    1 ≤ fmtBits sf → 1 ≤ fmtBits df →
    let out := Claims.outcome s ((elems (fmtBits sf) (2048 / Max.max (fmtBits sf) (fmtBits df)) v.toNat).mapM (fun e =>
      let y : FV := if sigNaN [decodeElem sf e, decodeF fp32 x] then .nan true else (mulV (decodeElem sf e) (decodeF fp32 x)).getD (.nan true)
      Claims.round (s.ctxOf s.hart) (mField f.m 13 11) (isFin y) (fun m => encodeConv df m (f.m.getLsbD 10) (intFmt sf) y)))
    ∃ t, exec (.conv f) s = .next t ∧ HartOnly s t (setV out.2.2 d.toNat (BitVec.ofNat 2048 (packElems (fmtBits df) out.1))) out.2.1)
  ∧ (∀ (s : State) (f : TFields) (ch v : Word), ready (.wpset f) s = true → srcOf s f.d = some ch → srcOf s f.a = some v →
    let o := octetOf s.hart
    let old := (s.octet o).wp.get 0 ch.toNat
    (8 ≤ ch.toNat → exec (.wpset f) s = .next (Claims.trapOf s 0x1EE f cILLEGAL_OPERAND ch.toNat))
    ∧ (ch.toNat < 8 → v.toNat < old.toNat → exec (.wpset f) s = .next (Claims.trapOf s 0x1EE f cILLEGAL_OPERAND v.toNat))
    ∧ (ch.toNat < 8 → old.toNat ≤ v.toNat → ∃ t, exec (.wpset f) s = .next t
        ∧ Claims.Engine s { t with transoms := s.transoms } (base s) (fun x => { x with wp := x.wp.set 0 ch.toNat v })
        ∧ t.transoms = s.transoms.map (fun p => match (s.octet o).chans.get none ch.toNat with
            | some r => if r.packet.head? = some 5 ∧ p.ten = r.ten ∧ p.old = Claims.word r.packet 1 ∧ p.new = Claims.word r.packet 2 then
                { p with mark := (v.toNat - p.base) / 8192 * 8192 } else p
            | none => p)))
  ∧ (∀ (s : State) (f : TFields) (n : BitVec 5) (v : Vec) (va : Word) (o q pa : Nat) (j : Job) (pg : Page), ready (.cmpl f) s = true →
    s.hart = .me o q → f.a = .v n → vecOf s f.a = some v → srcOf s f.b = some va → s.headJob o q = some j →
    va.toNat % 8 = 0 → allowed s va.toNat .write anyPage = some (.dev pa, pg) →
    (s.regionOf pa = .hbm ∨ s.regionOf pa = .cxl) →
    let cause := v.toNat / 2 ^ 8 % 2 ^ 8
    let mine : Prop := va.toNat = Claims.word j.packet 7 ∧ va ≠ 0
    ∃ t, exec (.cmpl f) s = .next t ∧ t.ctxOf s.hart = base s
      ∧ (¬ (mine ∧ j.packet.head? = some 4) → t.homeBytes pa 8 = bytesOf 8 v.toNat
          ∧ ∀ a, ¬ (pa ≤ a ∧ a < pa + 8) → t.homeByte a = s.homeByte a)
      ∧ t.headJob o q = some (if mine then { j with done := true, ending := none } else j)
      ∧ (∀ m ≠ q, (t.octet o).queues.get [] m = (s.octet o).queues.get [] m)
      ∧ (t.core j.core).jobs = (s.core j.core).jobs.map (fun r => if mine ∧ r.id = j.id then { r with state := 2, cause := cause } else r))
  ∧ (∀ (s : State) (f : TFields) (n : BitVec 5) (v : Vec) (va : Word) (o ch pa : Nat) (r : CuRun) (pg : Page), ready (.cmpl f) s = true →
    s.hart = .cu o ch → f.a = .v n → vecOf s f.a = some v → srcOf s f.b = some va → (s.octet o).chans.get none ch = some r →
    va.toNat % 32 = 0 → allowed s va.toNat .write anyPage = some (.dev pa, pg) → (s.regionOf pa = .hbm ∨ s.regionOf pa = .cxl) →
    (pa + 32 ≤ r.qaddr ∨ r.qaddr + 64 ≤ pa) →
    let mine : Prop := va.toNat = s.homeNat (r.qaddr + 32) 8 + 32 * (r.seq % 2 ^ (s.homeNat (r.qaddr + 24) 1 % 16))
    ∃ t, exec (.cmpl f) s = .next t ∧ t.ctxOf s.hart = base s ∧ t.homeBytes pa 32 = bytesOf 32 v.toNat
      ∧ (t.octet o).chans.get none ch = some (if mine then { r with done := true } else r)
      ∧ t.homeNat (r.qaddr + 40) 8 = (if mine ∧ s.homeNat (r.qaddr + 40) 4 = r.seq then (r.seq + 1) % 2 ^ 32 else s.homeNat (r.qaddr + 40) 8)
      ∧ ∀ a, ¬ (pa ≤ a ∧ a < pa + 32) → ¬ (r.qaddr + 40 ≤ a ∧ a < r.qaddr + 48) → t.homeByte a = s.homeByte a)
  ∧ (∀ (s : State) (f : TFields) (d : BitVec 5) (q : Word) (o ch : Nat) (r : CuRun) (bs : List Byte), ready (.pktnext f) s = true → s.hart = .cu o ch →
    f.d = .v d → srcOf s f.a = some q → (s.octet o).chans.get none ch = some r →
    let ri := s.homeNat (q.toNat + 8) 4
    let slot := s.homeNat (q.toNat + 16) 8 + 64 * (ri % 2 ^ (s.homeNat (q.toNat + 24) 1 % 16))
    (∀ e ∈ Claims.parts slot 64, ∀ pa pg, placeOf s e.1 = some (.dev pa, pg) → s.regionOf pa ≠ .pcie) →
    (slot % 4096 + 64 ≤ 4096 ∨ Claims.settled s) → Claims.RangeFound s (Claims.parts slot 64) bs →
    let there : Prop := ri ≠ s.homeNat q.toNat 4 ∧ ofBytes ((bs.drop 4).take 4) = ri
    (there → ∃ t, exec (.pktnext f) s = .next t ∧ t.ctxOf s.hart = setV (base s) d.toNat (BitVec.ofNat 2048 (ofBytes bs))
      ∧ t.homeNat (q.toNat + 8) 8 = (ri + 1) % 2 ^ 32
      ∧ (∀ a, ¬ (q.toNat + 8 ≤ a ∧ a < q.toNat + 16) → t.homeByte a = s.homeByte a)
      ∧ ∃ x, (t.octet o).chans.get none ch = some x ∧ x.packet = bs ∧ x.queue = r.queue ∧ x.qaddr = q.toNat ∧ x.seq = ri ∧ x.ten = r.ten ∧ x.done = false
          ∧ x.rows = [] ∧ x.next = 0 ∧ x.bytes = 0 ∧ x.fault = none)
    ∧ (¬ there → f.m.getLsbD 4 = true → ∃ t, exec (.pktnext f) s = .next t ∧ HartOnly s t (Claims.guardOff s f (base s)) 0)
    ∧ (¬ there → f.m.getLsbD 4 = false → exec (.pktnext f) s = .next (s.setWait s.hart 0x1F0 f .waitJob q.toNat 0)))
  ∧ (∀ (s : State) (f : TFields) (d n : BitVec 5) (v : Vec) (va : Word) (o ch : Nat) (r : CuRun) (loc : Loc) (pg : Page) (bs : List Byte),
    ready (.scatr f) s = true → Claims.settled s → s.hart = .cu o ch → f.d = .v d → f.a = .v n → vecOf s f.a = some v → srcOf s f.b = some va → va.toNat % 64 = 0 →
    allowed s va.toNat .read anyPage = some (loc, pg) → (∀ pa, loc = .dev pa → s.regionOf pa ≠ .pcie) → Found s loc pg 64 .home bs →
    (s.octet o).chans.get none ch = some r → r.abort = false →
    let w := Claims.word bs
    let x := fun j => v.toNat / 2 ^ (32 * j) % 2 ^ 32
    let row := fun j => w 2 + x j * w 3
    r.next + 64 ≤ w 1 → 1 ≤ w 3 → (r.inOrder = false → ∀ j < 64, x j < w 4) →
    (∀ j < 64, x j < w 4 → ∀ e ∈ pageParts (row j) (w 3 / 4096 + 2) (w 3), ∃ l p, allowed s e.1 .read anyPage = some (l, p) ∧ Claims.roomy s l e.2) →
    let owner := fun j => match allowed s (row j) .read anyPage with | some (l, p) => s.ownerOf (s.tenOf s.hart) l p | none => 0
    ∃ t u owners wpDests, exec (.scatr f) s = .next t ∧ Accessed s u (base s) 0 ∧ Untouched s u
      ∧ List.Nodup owners ∧ (∀ y, y ∈ owners ↔ ∃ j < 64, x j < w 4 ∧ owner j = y)
      ∧ (r.inOrder = false → wpDests = (s.octet o).wpDests) ∧ (∀ k ≠ ch, wpDests.get [] k = (s.octet o).wpDests.get [] k)
      ∧ HartOnly (u.setOctet o { u.octet o with
          wpDests := wpDests
          chans := (u.octet o).chans.set none ch (some { r with
            next := r.next + 64
            oor := r.oor + ((List.range 64).filter (fun j => decide (w 4 ≤ x j))).length
            rows := r.rows ++ (List.range 64).map (fun j => (r.next + j, if x j < w 4 then row j else zeroRow)) }) }) t
        (setV (base s) d.toNat (BitVec.ofNat 2048 (packElems 32 (owners.map (fun y =>
          ((List.range 64).filter (fun j => decide (x j < w 4) && owner j == y)).length))))) 0)

/-! ### Steps of the cores and of the network (07 R158 to R164; 09 R198 to R205; 10 R219, R220, R224; 14 R292; 20 R367, R368) -/

/-- From s to t the bytes bs came to stand at the homes from address a up, and every other byte is as it was. -/
def Sys2Proof.Claims.bytesPut (s t : State) (a : Nat) (bs : List Byte) : Prop :=
  ∀ x, t.homeByte x = if a ≤ x ∧ x < a + bs.length then bs.getD (x - a) 0 else s.homeByte x

/-- From s to t nothing changed but home memory, with its poison and its owners, and own bits of L1 words. -/
def Sys2Proof.Claims.homesOnly (s t : State) : Prop :=
  { t with mem := s.mem, poison := s.poison, owner := s.owner, l1 := s.l1 } = s

/-- A thread whose stall is over executes its instruction afresh (14 R292). -/
def Sys2Proof.Claims.unstalled (x : Ctx) : Ctx := { x with run := if x.run = .running then .ready else x.run }

/-- The poison of a pending symbol: the symbol holds the cause, and a thread that waits for a late value is ready again
(11 R240). -/
def Sys2Proof.Claims.Poisoned (s t : State) (c i cause : Nat) (y : Sym) : Prop :=
  (∀ j, t.syms.get none j = if j = c * 256 + i then some { y with state := .poison cause } else s.syms.get none j)
  ∧ { t with syms := s.syms, threads := s.threads, services := s.services } = s
  ∧ t.ctxOf (.core c y.thread) = (let x := s.ctxOf (.core c y.thread)
      if (s.core c).tenant = y.ten ∧ x.run = .waitLate then { x with run := .ready } else x)

/-- A page-fault answer removes its record: MAP writes the PTE and the thread executes its instruction afresh, DECLINE makes it
trap with PAGE_FAULT. A symbol's value is held while its core does not run its tenant or is halted, and else reaches
the register that waits for it; a failed source poisons it, as a device that does not answer does. A wait ends where
its condition may hold, WAITT and SLEEP at their time; an unanswered store at DOMAIN scope traps its release with HW_ERROR.
Otherwise each step leaves the state as it is (05 R102; 07 R162, R164; 11 R233, R240; 14 R292; 18 R347, R348). What a trap with a
handler does is stated where no trace session is open; log entries 1, 9 and 51 name the model's choices. -/
def Sys2Proof.Claims.AnswersArrivalsAndWaits : Prop :=
  (∀ (s : State) (cl i a : Nat) (pte : Word),
    ((s.faults.get [] cl)[i]? = none ∨ a % 8 ≠ 0 → exec (.map cl i a pte) s = .next s)
    ∧ (∀ p c k, (s.faults.get [] cl)[i]? = some p → a % 8 = 0 → p.who = .hart (.core c k) →
      ∃ t, exec (.map cl i a pte) s = .next t ∧ t.faults.get [] cl = dropIdx (s.faults.get [] cl) i
        ∧ Claims.bytesPut s t a (bytesOf 8 pte.toNat)
        ∧ Claims.homesOnly s { t with threads := s.threads, faults := s.faults }
        ∧ { t.threadOf p.ten c k with waiting := (s.threadOf p.ten c k).waiting }
            = { s.threadOf p.ten c k with ctx := Claims.unstalled (s.threadOf p.ten c k).ctx, stall := false })
    ∧ (∀ p h, (s.faults.get [] cl)[i]? = some p → a % 8 = 0 → p.who = .hart h → isCore h = false →
      ∃ t, exec (.map cl i a pte) s = .next t ∧ t.faults.get [] cl = dropIdx (s.faults.get [] cl) i
        ∧ Claims.bytesPut s t a (bytesOf 8 pte.toNat) ∧ Claims.homesOnly s { t with faults := s.faults }))
  ∧ (∀ (s : State) (cl i : Nat),
    ((s.faults.get [] cl)[i]? = none → exec (.decline cl i) s = .next s)
    ∧ (∀ p c k, (s.faults.get [] cl)[i]? = some p → p.who = .hart (.core c k) → c < 1024 → k < 16 → (s.core c).tenant = p.ten →
      (s.thread c k).stall = true → Claims.hasHandler (s.thread c k).ctx → Claims.untraced s →
      ∃ t, exec (.decline cl i) s = .next t ∧ t.faults.get [] cl = dropIdx (s.faults.get [] cl) i
        ∧ Claims.TrapOnly { s with faults := t.faults } t c k (Claims.inHandler (s.thread c k).ctx cPAGE_FAULT p.va)))
  ∧ (∀ (s : State) (c i : Nat),
    (s.sym c i = none → exec (.valueArrival c i) s = .next s)
    ∧ (∀ y bits, s.sym c i = some y → y.state = .pending →
      ((∃ cv, y.src = .load bits cv 0) ∨ (∃ id, y.src = .job id ∧ 2 ≤ (s.jobState c id).1 ∧ bits = s.jobStatus c id)
        ∨ (∃ port, y.src = .device port) ∧ bits = Config.freeNat s.freeCtr) →
      ((s.core c).tenant ≠ y.ten ∨ (s.core c).halted = true ∨ (s.ctxOf (.core c y.thread)).symRefs.contains i = false →
        ∃ t, exec (.valueArrival c i) s = .next t ∧ { t with syms := s.syms, freeCtr := s.freeCtr } = s
          ∧ ∀ j, t.syms.get none j = if j = c * 256 + i then some { y with state := .value bits } else s.syms.get none j)
      ∧ (∀ n l, (s.core c).tenant = y.ten → (s.core c).halted = false → 1 ≤ n → n < 64 → y.src.conv = .raw →
        (s.ctxOf (.core c y.thread)).late = [(n, some l)] → l.sym = i → l.k = false →
        ∃ t, exec (.valueArrival c i) s = .next t ∧ t.sym c i = none
          ∧ t.ctxOf (.core c y.thread) = (let x := setS (s.ctxOf (.core c y.thread)) n (l.a * BitVec.ofNat 64 bits + l.b)
              { x with run := if x.run = .waitLate then .ready else x.run })))
    ∧ (∀ y bits cv cause, s.sym c i = some y → y.state = .pending → y.src = .load bits cv cause → cause ≠ 0 →
      ∃ t, exec (.valueArrival c i) s = .next t ∧ Claims.Poisoned s t c i cause y ∧ t.services = s.services))
  ∧ (∀ (s : State) (c i cause : Nat),
    (s.sym c i = none → exec (.symbolPoison c i cause) s = .next s)
    ∧ (∀ y, s.sym c i = some y → y.state = .pending →
      ((∃ bits cv, y.src = .load bits cv cause ∧ cause ≠ 0) ∨ (∃ cl q, y.src = .service cl q ∧ cause = cSOFTWARE)
        ∨ cause = cHW_ERROR ∧ (s.core c).failed = true) →
      ∃ t, exec (.symbolPoison c i cause) s = .next t ∧ Claims.Poisoned s t c i cause y
        ∧ t.services = s.services.filter (fun r => !(r.core == c && r.sym == i))))
  ∧ (∀ (s : State) (c i : Nat),
    (s.sym c i = none → exec (.cxlTimeout c i) s = .next s)
    ∧ (∀ y, s.sym c i = some y → y.state = .pending → (∃ bits cv k, y.src = .load bits cv k) ∨ (∃ port, y.src = .device port) →
      ∃ t, exec (.cxlTimeout c i) s = .next t ∧ Claims.Poisoned s t c i cPOISON y ∧ t.services = s.services))
  ∧ (∀ (i : Instr) (s : State) (c k : Nat), c < 1024 → k < 16 →
    let x := s.thread c k
    let may : Prop :=
      i = .waitResume c k ∧ (x.ctx.run = .waitChannel ∨ x.ctx.run = .waitJob ∨ x.ctx.run = .waitAcq
        ∨ x.ctx.run = .waitTime ∧ x.ctx.waitCnt = 1 ∧ x.ctx.wake = true
        ∨ x.ctx.run = .waitLate ∧ (256 ≤ x.ctx.waitObj.toNat ∨ x.ctx.symRefs.contains x.ctx.waitObj.toNat = false ∨ ∀ y, s.sym c x.ctx.waitObj.toNat = some y → y.state ≠ .pending)
        ∨ x.ctx.run = .running ∧ x.stall = false ∧ x.waiting.isSome = true)
      ∨ i = .waittDeadline c k ∧ x.ctx.run = .waitTime ∧ x.ctx.waitCnt = 0 ∧ x.ctx.waitObj.toNat ≤ s.timeNow
      ∨ i = .sleepTimeout c k ∧ x.ctx.run = .waitTime ∧ x.ctx.waitCnt = 1 ∧ x.ctx.waitObj.toNat ≤ s.timeNow
          ∧ x.ctx.waitObj ≠ BitVec.allOnes 64
    (i = .waitResume c k ∨ i = .waittDeadline c k ∨ i = .sleepTimeout c k) →
    (¬ may → exec i s = .next s)
    ∧ (may → ∃ t, exec i s = .next t ∧ t.thread c k = { x with ctx := { x.ctx with run := .ready }, stamp := s.now c }
      ∧ (∀ d n, d < 1024 → n < 16 → (d, n) ≠ (c, k) → t.thread d n = s.thread d n) ∧ { t with threads := s.threads } = s))
  ∧ (∀ (s : State) (c k a : Nat),
    let x := (s.thread c k).ctx
    let waits : Prop := x.run = .waitAcq ∧ x.waitObj.toNat = a ∧ x.waitCnt = 1 ∧ (c * 16 + k, a) ∈ s.peerStores
    (waits → exec (.domainAckTimeout c k a) s
      = .next ({ s with peerStores := s.peerStores.erase (c * 16 + k, a) }.takeTrap (.core c k) cHW_ERROR a .plain false []))
    ∧ (¬ waits → exec (.domainAckTimeout c k a) s = .next s))

/-- A thief may ask a victim for work, and no pop or split holds the victim's deque (09 R198, R199). -/
def Sys2Proof.Claims.asks (s : State) (c v : Nat) : Prop :=
  s.steals c = true ∧ s.nextVictim c = some v ∧ s.dequeHeld (s.core v).tenant v = false

/-- A core that steals asks the next victim of its walk, unless a pop or a split that waits for a page holds the victim's
deque. One whose top record is not for the thief refuses, and both
count it; else the record leaves the victim's deque, and the thief's lowest free thread starts its unit; a range record
without a join block is split at half its chunks. A walk that has asked every core rests 256 ACLK (09 R198, R199, R202). Dies
publish the chunks of their launches of domain 4 (14 R285). The boot count is added at its home after 64 deposits, at the word that the mesh's commit named (17 R327). What
the thief's threads do is stated where nothing else is waiting there and no trace session is open. -/
def Sys2Proof.Claims.StealsAndCounts : Prop :=
  (∀ (s : State) (c : Nat), (s.steals c = false ∨ s.nextVictim c = none ∨ ∃ v, s.nextVictim c = some v ∧ s.dequeHeld (s.core v).tenant v = true) →
    exec (.stealRequest c) s = .next s)
  ∧ (∀ (s : State) (c v : Nat), Claims.asks s c v →
    let refuses : Prop := (s.core v).tenant ≠ (s.core c).tenant ∨ (s.core v).halted = true ∨ (s.core v).failed = true
      ∨ s.topRecord v = none ∨ ∃ r, s.topRecord v = some r ∧ domContains r.dom v c = false
    (refuses → c ≠ v → ∃ t, exec (.stealRequest c) s = .next t ∧ { t with cores := s.cores } = s
      ∧ (t.core c).walk.tried = (s.core c).walk.tried ++ [v]
      ∧ (t.core c).ctr.get 0 22 = (s.core c).ctr.get 0 22 + 1 ∧ (t.core v).ctr.get 0 24 = (s.core v).ctr.get 0 24 + 1)
    ∧ (∀ r n, ¬ refuses → c ≠ v → v < 960 → s.topRecord v = some r → r.range = false → r.fault = none → s.msgsOf c = [] →
      s.dequeHeld (s.core c).tenant c = false → n < 16 → s.canTake c n = true → (∀ m < n, s.canTake c m = false) → Claims.untraced s →
      ∃ t, exec (.stealRequest c) s = .next t
        ∧ (if s.spillOf v = [] then t.dequeOf v = (s.dequeOf v).dropLast ∧ t.spillOf v = []
           else t.spillOf v = (s.spillOf v).dropLast ∧ t.dequeOf v = s.dequeOf v)
        ∧ t.dequeOf c = [] ∧ (t.core c).walk.tried = [] ∧ (t.core c).ctr.get 0 23 = (s.core c).ctr.get 0 23 + 1
        ∧ t.ctxOf (.core c n) = { Claims.fresh s c n r.launch with
            frame := r.frame, joinc := r.joinc, policy := BitVec.ofNat 4 (r.pol % 4 + 4 * (r.bud % 4)), low := r.low, pc := r.code })
    ∧ (∀ r, ¬ refuses → c ≠ v → v < 960 → s.topRecord v = some r → r.range = true → r.fault = none → r.joinc = 0 → r.grain ≠ 0 →
      r.lo.toNat + r.grain.toNat < r.hi.toNat → s.msgsOf c = [] → Claims.untraced s →
      ∃ t, exec (.stealRequest c) s = .next t
        ∧ let n := (r.hi.toNat - r.lo.toNat + r.grain.toNat - 1) / r.grain.toNat
          let m := r.lo + r.grain * BitVec.ofNat 64 ((n + 1) / 2)
          t.topRecord v = some { r with hi := m }))
  ∧ (∀ (s : State) (c : Nat), (s.steals c = true ∧ s.nextVictim c = none →
      ∃ t, exec (.stealRetry c) s = .next t ∧ (t.core c).walk = { tried := [], until_ := s.now c + 256 }
        ∧ { t with cores := s.cores } = s)
    ∧ (¬ (s.steals c = true ∧ s.nextVictim c = none) → exec (.stealRetry c) s = .next s))
  ∧ (∀ (s : State) (die : Nat), die < 4 → ∃ t, exec (.chunkCountPublish die) s = .next t ∧ { t with chunks := s.chunks } = s
    ∧ (∀ l x, (l, some x) ∈ s.launches → x.started = true → x.dom = 4 →
        t.chunks.get 0 (4 * l + die) = ((List.range 240).map (fun i => s.chunksOn l (240 * die + i))).sum)
    ∧ (∀ l d, d < 4 → d ≠ die → t.chunks.get 0 (4 * l + d) = s.chunks.get 0 (4 * l + d)))
  ∧ (∀ (s : State) (c : Nat),
    let x := s.core c
    let a := s.bootCnt.getD 0
    let due : Prop := s.bootCnt.isSome = true ∧ c < 960 ∧ 64 ≤ x.bootCount ∧ x.bootAdded = false
    (due → ∃ t, exec (.bootCountAdd c) s = .next t ∧ Claims.homesOnly s { t with cores := s.cores }
      ∧ (t.core c).bootAdded = true ∧ Claims.bytesPut s t a (bytesOf 8 ((s.homeNat a 8 + 1) % 2 ^ 64)))
    ∧ (¬ due → exec (.bootCountAdd c) s = .next s))

/-- Packet i of the network may reach core c: it is the first of its source thread for its destination, and the core is not
halted. -/
def Sys2Proof.Claims.arrives (s : State) (i c : Nat) (pk : Packet) : Prop :=
  s.net[i]? = some pk ∧ s.firstInOrder i pk = true ∧ s.destCore pk = some c ∧ (s.core c).halted = false ∧ (s.core c).failed = false
  ∧ (s.core c).tenant = pk.ten ∧ c < 1024

/-- The halt record of a core that halts now (20 R363). -/
def Sys2Proof.Claims.haltRecord (s : State) (c cause : Nat) : List Byte :=
  bytesOf 8 ((s.now c - (s.core c).cycle0) % 2 ^ 64) ++ bytesOf 4 (s.core c).sent.toNat ++ bytesOf 4 (s.core c).received.toNat
    ++ bytesOf 8 s.time ++ bytesOf 2 ((List.range 16).foldl (fun m k =>
        if (s.thread c k).ctx.run = .running ∨ (s.thread c k).ctx.run = .ready then m + 2 ^ k else m) 0)
    ++ bytesOf 1 cause ++ bytesOf 5 0

/-- A packet of a valid ACTIVATE tag starts a unit on the lowest free thread, with the payload in v0 and source, tag and
length in s1 to s3, or waits in the core's spill queue; one of an invalid tag is discarded and counted; one of a DEPOSIT tag is
appended to its channel, with zeros above it, discarded where it does not fit, and kept in the core's spill queue where the
channel is full, or in the routers where that is the boot context's channel 0. A packet that an activation breakpoint matches stays, marked, and its core halts; a PC
comparator halts a core before its thread issues, and the halt record says so. A step of another packet leaves the state
(07 R158, R159; 09 R205; 20 R363, R367, R368). Units and deposits are stated where nothing else waits and no session is open. -/
def Sys2Proof.Claims.PacketArrivals : Prop :=
  (∀ (s : State) (i : Nat), s.net[i]? = none → exec (.activationStart i) s = .next s ∧ exec (.deposit i) s = .next s
    ∧ exec (.activationBreakpoint i) s = .next s)
  ∧ (∀ (s : State) (i c : Nat) (pk : Packet), Claims.arrives s i c pk →
    let g := s.tag c pk.tag
    let stops : Prop := s.breakPacket c pk = true
    (g.v = false → ∃ t, exec (.activationStart i) s = .next t ∧ t.net = dropIdx s.net i
      ∧ t.undeliv.get 0 (tcKey pk.ten c) = s.undeliv.get 0 (tcKey pk.ten c) + 1
      ∧ (t.core c).received = (s.core c).received + 1 ∧ (t.core c).ctr.get 0 27 = (s.core c).ctr.get 0 27 + 1
      ∧ { t with net := s.net, undeliv := s.undeliv, cores := s.cores } = s)
    ∧ (g.v = true → g.deposit = false → ¬ stops →
      ((∀ k < 16, s.canTake c k = false) → ∃ t, exec (.activationStart i) s = .next t ∧ t.net = dropIdx s.net i
        ∧ t.msgsOf c = s.msgsOf c ++ [pk] ∧ (t.core c).received = (s.core c).received + 1
        ∧ { t with net := s.net, msgs := s.msgs, cores := s.cores } = s)
      ∧ (∀ n, n < 16 → s.canTake c n = true → (∀ m < n, s.canTake c m = false) → Claims.wellFormedPc g.target → Claims.untraced s →
        ∃ t, exec (.activationStart i) s = .next t ∧ t.net = dropIdx s.net i ∧ (t.core c).received = (s.core c).received + 1
          ∧ (∀ d k, d < 1024 → k < 16 → (d, k) ≠ (c, n) → t.thread d k = s.thread d k)
          ∧ t.ctxOf (.core c n) = (let x := Claims.fresh s c n pk.launch
              { x with
                v := x.v.set 0 0 (BitVec.ofNat 2048 (ofBytes pk.payload))
                s := ((x.s.set 0 1 (BitVec.ofNat 64 pk.src)).set 0 2 (BitVec.ofNat 64 pk.tag)).set 0 3 (BitVec.ofNat 64 pk.payload.length)
                policy := BitVec.ofNat 4 (g.pol % 4 + 4 * (g.bud % 4))
                low := g.low
                pc := g.target })))
    ∧ (g.v = true → g.deposit = false → stops → ∃ t, exec (.activationBreakpoint i) s = .next t
      ∧ t.net = { pk with past := true } :: dropIdx s.net i ∧ (t.core c).halted = true ∧ (t.core c).haltCause = 5)
    ∧ (g.v = true → g.deposit = true → s.msgsOf c = [] → s.dequeOf c = [] → s.spillOf c = [] →
      let e := g.target.toNat % 64
      let x := s.chan c e
      let full : Prop := x.v = true ∧ pk.payload.length ≤ 2 ^ x.lsz ∧ 2 ^ x.lcnt ≤ (x.wp - x.rp).toNat
      ((x.v = false ∨ 2 ^ x.lsz < pk.payload.length) → ∃ t, exec (.deposit i) s = .next t ∧ t.net = dropIdx s.net i
        ∧ (t.core c).received = (s.core c).received + 1 ∧ (t.core c).ctr.get 0 27 = (s.core c).ctr.get 0 27 + 1
        ∧ t.undeliv.get 0 (tcKey pk.ten c) = s.undeliv.get 0 (tcKey pk.ten c) + 1 ∧ t.chan c e = x)
      ∧ (full → pk.ten = 16 → g.target = 0 → exec (.deposit i) s = .next s)
      ∧ (full → ¬ (pk.ten = 16 ∧ g.target = 0) → ∃ t, exec (.deposit i) s = .next t ∧ t.net = dropIdx s.net i ∧ t.msgsOf c = [pk]
        ∧ (t.core c).received = (s.core c).received + 1 ∧ { t with net := s.net, msgs := s.msgs, cores := s.cores } = s)
      ∧ (x.v = true → pk.payload.length ≤ 2 ^ x.lsz → (x.wp - x.rp).toNat < 2 ^ x.lcnt → s.claimsOf c e = [] →
      ∃ t, exec (.deposit i) s = .next t ∧ t.net = dropIdx s.net i ∧ (t.core c).received = (s.core c).received + 1
        ∧ t.chan c e = { x with wp := x.wp + 1 }
        ∧ t.scrBytes (tcKey pk.ten c) (x.slotOff x.wp.toNat) (2 ^ x.lsz)
            = pk.payload ++ List.replicate (2 ^ x.lsz - pk.payload.length) 0)))
  ∧ (∀ (s : State) (c k : Nat), c < 1024 → k < 16 →
    (s.canIssue (.core c k) = false ∨ (s.thread c k).skip = true ∨ s.pcMatch c (s.thread c k).ctx.pc.toNat = false →
      exec (.pcBreakpoint c k) s = .next s)
    ∧ (s.canIssue (.core c k) = true → (s.thread c k).skip = false → s.pcMatch c (s.thread c k).ctx.pc.toNat = true → Claims.untraced s →
      ∃ t, exec (.pcBreakpoint c k) s = .next t ∧ (t.core c).halted = true ∧ (t.core c).haltCause = 4
        ∧ t.ctxOf (.core c k) = { s.ctxOf (.core c k) with halted := true } ∧ (t.thread c k).skip = true
        ∧ t.homeBytes (bitsOf (s.ctlWord 0x800020).toNat 51 5 * 32 + 32 * c) 32 = Claims.haltRecord s c 4))

/-- Eviction of an L1 line writes its dirty words back and drops its words; eviction of a slice's line clears the owners of its words
and the own bits of the cores that held them; a scratchpad page moves between its frame and its backing with no byte
changed, and a pinned page does not move; a register line of the
running tenant, or of one pre-empted here whose thread no save request has sent home, goes to its thread's image (which one is
log entry 115); a line of a take part stays in its slice (15 R297). A word whose opcode is unassigned traps with
ILLEGAL_OPCODE before any effect (02 R38; 04 R82, R88; 10 R219, R220, R224). -/
def Sys2Proof.Claims.EvictionsAndIllegalWords : Prop :=
  (∀ (s : State) (l line : Nat),
    ((∀ i < 32, s.l1.get none (l1Key l (line * 32 + i)) = none) → exec (.l1LineEviction l line) s = .next s)
    ∧ ((∃ i < 32, (s.l1.get none (l1Key l (line * 32 + i))).isSome = true) → line < 2 ^ 44 →
      ∃ t, exec (.l1LineEviction l line) s = .next t
        ∧ (∀ i < 32, t.l1.get none (l1Key l (line * 32 + i)) = none)
        ∧ (∀ w x, w / 32 = line → s.l1.get none (l1Key l w) = some x → x.dirty = true →
            t.homeBytes (8 * w) 8 = bytesOf 8 x.value.toNat ∧ t.poison.get false w = x.poison)
        ∧ (∀ a, (∀ x, s.l1.get none (l1Key l (a / 8)) = some x → a / 256 = line → x.dirty = false) → t.homeByte a = s.homeByte a)
        ∧ (t.core l).ctr.get 0 21 = (s.core l).ctr.get 0 21 + 1
        ∧ Claims.homesOnly s { t with cores := s.cores }))
  ∧ (∀ (s : State) (line : Nat), s.takeHeld line = true → exec (.l2LineEviction line) s = .next s)
  ∧ (∀ (s : State) (line : Nat), s.takeHeld line = false → ∃ t, exec (.l2LineEviction line) s = .next t
    ∧ (∀ w, t.owner.get 2047 w = if w / 32 = line then 2047 else s.owner.get 2047 w)
    ∧ { t with owner := s.owner, l1 := s.l1 } = s
    ∧ (∀ k, (t.l1.get none k).map (fun x => { x with own := false }) = (s.l1.get none k).map (fun x => { x with own := false }))
    ∧ (∀ c w, w < 2 ^ 49 → w / 32 = line → agentCore (s.owner.get 2047 w) = some c → ∀ x, t.l1Get c w = some x → x.own = false))
  ∧ (∀ (s : State) (ten c page : Nat),
    let key := tcKey ten c * 64 + page
    let fits : Prop := ten ≤ 16 ∧ c < 1024 ∧ page < 64 ∧ s.pins.get 0 key = 0
      ∧ (s.resident.get false key = true ∨ (pagesOn s.pins c (fun n => n != 0)).length < 64)
    (¬ fits → exec (.scratchpadPageMove ten c page) s = .next s)
    ∧ (fits → ∃ t, exec (.scratchpadPageMove ten c page) s = .next t ∧ t.resident.get false key = !s.resident.get false key
      ∧ { t with resident := s.resident, cores := s.cores, freeCtr := s.freeCtr } = s))
  ∧ (∀ (s : State) (c k line : Nat),
    let holds := fun ten => ten < 16 ∧ (ten = (s.core c).tenant ∨ (s.tenants.get none ten).isSome = true
      ∧ (s.threadOf ten c k).ctx.run ≠ .free ∧ (s.threadOf ten c k).saved = false)
    let fits : Prop := (∃ ten, holds ten) ∧ c < 960 ∧ k < 16 ∧ line < 64
    (¬ fits → exec (.registerLineEviction c k line) s = .next s)
    ∧ (fits → ∃ t ten, holds ten ∧ exec (.registerLineEviction c k line) s = .next t ∧ Claims.homesOnly s { t with freeCtr := s.freeCtr }
      ∧ Claims.bytesPut s t (s.imageAt ten c k + 256 * line) (imageLine (s.threadOf ten c k).ctx line)))
  ∧ (∀ (s : State) (w : BitVec 96) (c k : Nat), s.hart = .core c k → c < 1024 → k < 16 → Claims.hasHandler (s.thread c k).ctx → Claims.untraced s →
    ∃ t, exec (.unassignedOpcode w) s = .next t
      ∧ Claims.TrapOnly s t c k (Claims.inHandler (s.thread c k).ctx cILLEGAL_OPCODE (decodeEval w ⟨1, 87⟩).toNat))

/-- Page-fault answers, late values, ends of waits, and packets that reach a core. -/
def Obligations.AnswersAndArrivals : Prop := Claims.AnswersArrivalsAndWaits ∧ Claims.PacketArrivals

/-- Steals, published counts, evictions, and words with an unassigned opcode. -/
def Obligations.StealsAndEvictions : Prop := Claims.StealsAndCounts ∧ Claims.EvictionsAndIllegalWords

/-! ### Steps of the matrix engines and copy units (08 R181 to R183; 12 R244 to R260; 13 R273; 15 R307; 16 R314 to R317) -/

/-- From s to t only the octet's record changed, and the counts of jobs that cores keep. -/
def Sys2Proof.Claims.octetOnly (s t : State) (o : Nat) : Prop :=
  { t with octets := s.octets, cores := s.cores } = s ∧ ∀ k, k ≠ o → t.octet k = s.octet k

/-- The head job of a queue, which has no mailbox, has ended with a cause: it has left its queue, its hart is free, its core's
record is done, and a failure is counted (12 R251, R253; 07 R162). -/
structure Sys2Proof.Claims.JobEnded (s t : State) (o q : Nat) (j : Job) (cause : Nat) : Prop where
  queue  : (t.octet o).queues.get [] q = ((s.octet o).queues.get [] q).tail
  others : ∀ k, k ≠ q → (t.octet o).queues.get [] k = (s.octet o).queues.get [] k
  hart   : t.ctxOf (.me o q) = Ctx.zero
  record : (t.core j.core).jobs = (s.core j.core).jobs.map (fun r => if r.id = j.id then { r with state := 2, cause := cause } else r)
  count  : (t.octet o).ctr.get 0 39 = (s.octet o).ctr.get 0 39 + (if cause = 0 then 0 else 1)

/-- The registers with which microcode starts: the packet in v0, three values in s1 to s3 (12 R244). -/
def Sys2Proof.Claims.microStart (packet : List Byte) (a b c pc : Nat) : Ctx :=
  { Ctx.zero with
    v := Ctx.zero.v.set 0 0 (BitVec.ofNat 2048 (ofBytes packet))
    s := ((Ctx.zero.s.set 0 1 (BitVec.ofNat 64 a)).set 0 2 (BitVec.ofNat 64 b)).set 0 3 (BitVec.ofNat 64 c)
    pc := BitVec.ofNat 64 pc
    run := .ready }

/-- The filler cycles of a declaration's ramp-up (12 R254). -/
def Sys2Proof.Claims.rampedUp (x : Octet) : Octet :=
  if x.ramp.on then x else { x with ramp := { x.ramp with on := true }, ctr := x.ctr.set 0 36 (x.ctr.get 0 36 + 64) }

/-- The ramp-down of an engine. -/
def Sys2Proof.Claims.rampedDown (x : Octet) : Octet :=
  { x with ramp := { x.ramp with on := false }, ctr := x.ctr.set 0 36 (x.ctr.get 0 36 + 32) }

/-- What a step of a job does where its access stops: a trap ends the job with its cause, and a page that it lacks is asked for
while the job keeps its place (12 R253, 14 R292). -/
def Sys2Proof.Claims.meStops (s t : State) (o q : Nat) (j : Job) (e : Stop) : Prop :=
  (∀ c v, e = .trap c v → fieldAt j.packet 56 8 = 0 → Claims.JobEnded s t o q j c)
  ∧ ∀ va acc, e = .page va acc → t = s.postFault (o / 6) va (s.tenOf (.me o q)) acc (.hart (.me o q))

/-- An enabled engine starts the head job of the queue that its turn reaches: with microcode at its kind's entry, with the
registers of 12 R244, or by the engine's own tile steps, an MEDL once its lookup is done; without an entry, and for a
malformed packet, the job ends with FORMAT, and on a failed engine with HW_ERROR. Ramp fillers follow the engine and its
declaration, and count 64 and 32 cycles. A lookup that finds its take marks it BUSY and takes the delta path; one that does
not takes the full path, with the entry that it replaces BUSY, or without one. A lineage job that ends leaves the cause to the
thread that waits for it: HW_ERROR on a failed copy unit, FORMAT without an entry (log entry 107), POISON where a line that it
reads is poisoned, else 0 (12 R244, R245, R249, R251, R254; 13 R271, R273; 15 R302, R307). A step whose precondition does not
hold leaves the state (log entry 1). -/
def Sys2Proof.Claims.EngineSteps : Prop :=
  (∀ (s : State) (o : Nat) (micro : Bool),
    ((s.mectl o).testBit 63 = false ∨ (s.octet o).halted = true ∨ s.nextQueue o = none → exec (.jobStart o micro) s = .next s)
    ∧ (∀ q j, (s.mectl o).testBit 63 = true → (s.octet o).halted = false → s.nextQueue o = some q → s.headJob o q = some j →
      let kind := fieldAt j.packet 0 1
      let pc := s.homeNat (bitsOf (s.mectl o) 51 6 * 64 + 8 * kind) 8
      let s1 := s.setJobRec j.core j.id 1 0
      let legal : Prop := (s.octet o).meFailed = false ∧ pc ≠ 0 ∧ jobOk j.packet = true
      ((s.octet o).meFailed = true → fieldAt j.packet 56 8 = 0 → ∃ t, exec (.jobStart o micro) s = .next t ∧ Claims.JobEnded s t o q j cHW_ERROR)
      ∧ ((s.octet o).meFailed = false → fieldAt j.packet 56 8 = 0 → (pc = 0 ∨ jobOk j.packet = false) →
          ∃ t, exec (.jobStart o micro) s = .next t ∧ Claims.JobEnded s1 t o q j cFORMAT)
      ∧ (∀ e, legal → (micro = true ∨ kind = 4) → runAs s1 (.me o q) (checkShape (parseJob j.packet)) = .error e →
          ∃ t, exec (.jobStart o micro) s = .next t ∧ Claims.meStops s1 t o q j e)
      ∧ (∀ u, legal → (micro = true ∨ kind = 4) → runAs s1 (.me o q) (checkShape (parseJob j.packet)) = .ok ((), u) →
          ∃ t, exec (.jobStart o micro) s = .next t ∧ Claims.octetOnly s t o
            ∧ t.headJob o q = some { j with running := true, micro := micro, waitTake := decide (kind = 4) }
            ∧ (∀ k ≠ q, (t.octet o).queues.get [] k = (s.octet o).queues.get [] k)
            ∧ t.ctxOf (.me o q) = (if micro then Claims.microStart j.packet j.id (j.core % 8) (j.ten % 16) pc else s.ctxOf (.me o q))
            ∧ (t.core j.core).jobs = (s.core j.core).jobs.map (fun r => if r.id = j.id then { r with state := 1, cause := 0 } else r))
      ∧ (∀ e, legal → micro = false → kind ≠ 4 → runAs s1 (.me o q) (startProg j.packet) = .error e →
          ∃ t, exec (.jobStart o micro) s = .next t ∧ Claims.meStops s1 t o q j e)
      ∧ (∀ g u, legal → micro = false → kind ≠ 4 → runAs s1 (.me o q) (startProg j.packet) = .ok (g, u) →
          exec (.jobStart o micro) s = .next (u.setHeadJob o q { j with running := true, prog := some g }))))
  ∧ (∀ (i : Instr) (s : State) (o : Nat),
    let x := s.octet o
    let past : Prop := x.ramp.stop ≤ s.time ∨ x.ramp.start + 4000 ≤ s.time ∧ x.ramp.stepped = false
    let due : Prop := i = .rampDown o ∧ x.ramp.on = true ∧ x.busy = false ∧ ¬ (x.ramp.declared = true ∧ s.time < x.ramp.stop)
      ∨ i = .burstRampStart o ∧ x.ramp.declared = true ∧ x.ramp.start ≤ s.time ∧ x.ramp.on = false
      ∨ i = .burstEnd o ∧ x.ramp.declared = true ∧ past
    (i = .rampDown o ∨ i = .burstRampStart o ∨ i = .burstEnd o) →
    (¬ due → exec i s = .next s)
    ∧ (due → ∃ t, exec i s = .next t ∧ Claims.octetOnly s t o ∧ t.cores = s.cores
      ∧ (i = .rampDown o → t.octet o = Claims.rampedDown x) ∧ (i = .burstRampStart o → t.octet o = Claims.rampedUp x)
      ∧ (i = .burstEnd o → t.octet o = (let y := { x with ramp := { x.ramp with declared := false } }
          if x.ramp.on = true ∧ x.busy = false then Claims.rampedDown y else y))))
  ∧ (∀ (s : State) (o : Nat),
    ((s.octet o).halted = true ∨ s.lookupQueue o = none → exec (.takeLookup o) s = .next s)
    ∧ (∀ q j, (s.octet o).halted = false → s.lookupQueue o = some q → s.headJob o q = some j →
      ((s.octet o).meFailed = true → fieldAt j.packet 0 1 = 4 → fieldAt j.packet 56 8 = 0 → ∃ t, exec (.takeLookup o) s = .next t ∧ Claims.JobEnded s t o q j cHW_ERROR
        ∧ ∀ b ∈ t.takeBusy, ¬ (b.octet = o ∧ b.queue = q))
      ∧ (∀ e, (s.octet o).meFailed = false → runAs s (.me o q) (medlRead (parseJob j.packet)) = .error e →
        ∃ t, exec (.takeLookup o) s = .next t ∧ Claims.meStops s t o q j e)
      ∧ (∀ x u v r, (s.octet o).meFailed = false → runAs s (.me o q) (medlRead (parseJob j.packet)) = .ok (x, u) →
        u.takeDecide (o / 30) (parseJob j.packet) j.ten x = (v, some r) →
        ∃ t, exec (.takeLookup o) s = .next t
          ∧ t.headJob o q = some { j with waitTake := false, path := true, prog := if j.micro then none else some (x.prog (some r)) }
          ∧ TakeBusy.mk j.ten j.layer o q ∈ t.takeBusy ∧ (t.octet o).ctr.get 0 37 = (u.octet o).ctr.get 0 37 + 1)
      ∧ (∀ x u v w r, (s.octet o).meFailed = false → runAs s (.me o q) (medlRead (parseJob j.packet)) = .ok (x, u) →
        u.takeDecide (o / 30) (parseJob j.packet) j.ten x = (v, none) →
        let p := parseJob j.packet
        v.takeReplace (o / 30) j.ten j.layer (takeLines p.m x.kb p.n).2.2 = (w, r) → (∀ k, r = some k → (w.takes.get none k).isSome = true) →
        ∃ t, exec (.takeLookup o) s = .next t
          ∧ t.headJob o q = some { j with
              waitTake := false
              path := false
              prog := if j.micro then none else some (x.prog (r.bind (fun k => (w.takes.get none k).map (fun e => (k, e))))) }
          ∧ (r.isSome = true → TakeBusy.mk j.ten j.layer o q ∈ t.takeBusy) ∧ (t.octet o).ctr.get 0 38 = (w.octet o).ctr.get 0 38 + 1)))
  ∧ (∀ (s : State) (i : Nat),
    ((s.lnJobs.filter (fun j => j.ended.isNone))[i]? = none → exec (.lineageJobEnd i) s = .next s)
    ∧ (∀ j, (s.lnJobs.filter (fun j => j.ended.isNone))[i]? = some j →
      let x := s.octet j.octet
      let live : Prop := (s.cuctl j.octet).testBit 63 = true ∧ x.halted = false
      let y := s.threads.get Thread.zero (thKey j.ten j.core j.thread)
      let entry := s.homeNat (bitsOf (s.cuctl j.octet) 51 6 * 64 + 8 * (7 + j.kind)) 8
      let cause := if x.cuFailed then cHW_ERROR else if entry = 0 then cFORMAT else if s.jobPoisoned j then cPOISON else 0
      (x.cuFailed = false → ¬ live → exec (.lineageJobEnd i) s = .next s)
      ∧ (x.cuFailed = true ∨ live → y.awaits j = true →
        ∃ t r, exec (.lineageJobEnd i) s = .next t ∧ { j with kept := [], held := [], ended := some (cause, r) } ∈ t.lnJobs
          ∧ (t.threads.get Thread.zero (thKey j.ten j.core j.thread)).ctx = { y.ctx with run := if y.ctx.run = .waitJob then .ready else y.ctx.run })
      ∧ (x.cuFailed = true ∨ live → y.awaits j = false →
        ∃ t, exec (.lineageJobEnd i) s = .next t ∧ ∀ k ∈ t.lnJobs, k.serial ≠ j.serial)))

/-- A slice attention unit forms the partial of a requested page: of its tokens within the range, or a cause with their count.
Two partials without a cause merge in a router by the rule of VONLINE, but not while the tenant records. The core's interface
takes a partial: the first fills the triple area, and with the last token the status word says done, with the first cause;
a triple that met a cause is open (08 R183; 16 R316, R317; log entry 2). -/
def Sys2Proof.Claims.AttentionSteps : Prop :=
  (∀ (s : State) (a page : Nat),
    (s.attns[a]? = none → exec (.sauPartial a page) s = .next s)
    ∧ (∀ x, s.attns[a]? = some x → x.pages[page]? = none → exec (.sauPartial a page) s = .next s)
    ∧ (∀ x g va, s.attns[a]? = some x → x.pages[page]? = some (g, va) → s.recording x.ten = false ∨ page = 0 →
      let n := (pageTokens x g).length
      ∃ t tr, exec (.sauPartial a page) s = .next t
        ∧ t.attns = setIdx s.attns a { x with pages := dropIdx x.pages page, parts := x.parts ++ [tr] }
        ∧ tr.cnt = n
        ∧ (let lo := s.locate (.core x.core 0) x.ten va
          let hi := lo.1.locate (.core x.core 0) x.ten (va + 4096)
          (lo.2 = none → tr = { Triple.empty with cnt := n, cause := cPAGE_FAULT })
          ∧ (∀ pa pg, lo.2 = some (.dev pa, pg) → s.regionOf pa = .hbm ∨ s.regionOf pa = .cxl → pg.home ≠ 3 →
            (pg.s ≠ s.frameWorld pa → tr.cause = cWORLD) ∧ (pg.s = s.frameWorld pa → pg.fmt ≠ 13 → tr.cause = cFORMAT)
            ∧ (pg.s = s.frameWorld pa → pg.fmt = 13 → hi.2 = none → tr.cause = cPAGE_FAULT)
            ∧ (∀ pb ph, pg.s = s.frameWorld pa → pg.fmt = 13 → hi.2 = some (.dev pb, ph) → s.regionOf pb = .hbm ∨ s.regionOf pb = .cxl → ph.home ≠ 3 →
              (ph.s ≠ s.frameWorld pb → tr.cause = cWORLD) ∧ (ph.s = s.frameWorld pb → ph.fmt ≠ 13 → tr.cause = cFORMAT)
              ∧ (ph.s = s.frameWorld pb → ph.fmt = 13 →
                (s.homePoisoned pa 512 = true → tr.cause = cPOISON)
                ∧ (s.homePoisoned pa 4096 = false → s.homePoisoned pb 4096 = false → headerOk (s.homeBytes pa 512) x.dim x.head (32 * g) = false →
                  tr.cause = cFORMAT)
                ∧ (∀ r, s.kvPartial x g (pa, pb) = .ok r → tr = r)))))))
  ∧ (∀ (s : State) (a i j : Nat),
    (s.attns[a]? = none → exec (.routerMerge a i j) s = .next s)
    ∧ (∀ x, s.attns[a]? = some x →
      (x.parts[i]? = none ∨ x.parts[j]? = none ∨ j ≤ i ∨ s.recording x.ten = true → exec (.routerMerge a i j) s = .next s)
      ∧ (∀ p q, x.parts[i]? = some p → x.parts[j]? = some q → i < j → s.recording x.ten = false →
        (p.cause ≠ 0 ∨ q.cause ≠ 0 → exec (.routerMerge a i j) s = .next s)
        ∧ (p.cause = 0 → q.cause = 0 → exec (.routerMerge a i j) s
            = .next { s with attns := setIdx s.attns a { x with parts := setIdx (dropIdx x.parts j) i (mergeTriple p q) } }))))
  ∧ (∀ (s : State) (a i : Nat),
    (s.attns[a]? = none → exec (.partialArrival a i) s = .next s)
    ∧ (∀ x, s.attns[a]? = some x →
      (x.parts[i]? = none ∨ s.recording x.ten = true ∧ i ≠ 0 → exec (.partialArrival a i) s = .next s)
      ∧ (∀ p, x.parts[i]? = some p → s.recording x.ten = false ∨ i = 0 →
        let cnt := x.acc.cnt + p.cnt
        let cause := if x.acc.cause = 0 then p.cause else x.acc.cause
        let key := tcKey x.ten x.core
        (cnt < x.hi - x.lo → ∃ t o, exec (.partialArrival a i) s = .next t
          ∧ t.attns = setIdx s.attns a { x with parts := dropIdx x.parts i, acc := { x.acc with o := o, cnt := cnt, cause := cause } }
          ∧ t.scrBytes key (x.addr + 520) 4 = bytesOf 4 cnt
          ∧ (x.acc.o = [] → p.cause = 0 → t.scrBytes key x.addr 524 = ({ p with cnt := cnt } : Triple).bytes)
          ∧ (p.cause ≠ 0 → t.scrBytes key x.addr 520 = s.scrBytes key x.addr 520))
        ∧ (x.hi - x.lo ≤ cnt → ∃ t, exec (.partialArrival a i) s = .next t ∧ t.attns = dropIdx s.attns a
          ∧ t.scrBytes key (x.addr + 524) 4 = bytesOf 4 (2 ^ 31 + cause % 256)
          ∧ (cause = 0 → t.scrBytes key (x.addr + 520) 4 = bytesOf 4 cnt)))))

/-- The place is memory, not a device that the spec does not describe. -/
def Sys2Proof.Claims.memoryAt (s : State) (loc : Loc) : Prop :=
  match loc with
  | .dev pa => s.regionOf pa = .hbm ∨ s.regionOf pa = .cxl
  | _ => False

/-- The n bytes of a page at va pass the checks of channel ch of octet o, and lie at pa in memory; they are all of one page. -/
def Sys2Proof.Claims.cuAt (s : State) (o ch va n : Nat) (acc : Access) (refuse : Refuse) (pa : Nat) (pg : Page) : Prop :=
  va % 4096 + n ≤ 4096 ∧ 1 ≤ n ∧ allowed { s with hart := .cu o ch } va acc refuse = some (.dev pa, pg) ∧ Claims.memoryAt s (.dev pa)

/-- A packet of a channel ended: the channel and its hart are free, and its end is counted (12 R259). -/
def Sys2Proof.Claims.PacketEnded (s t : State) (o ch : Nat) : Prop :=
  (t.octet o).chans.get none ch = none ∧ t.ctxOf (.cu o ch) = Ctx.zero ∧ (t.octet o).ctr.get 0 40 = (s.octet o).ctr.get 0 40 + 1

/-- The place of the completion record of a channel's packet can be written (12 R259). -/
def Sys2Proof.Claims.packetRecordAt (s : State) (o ch : Nat) (r : CuRun) : Prop :=
  let va := s.homeNat (r.qaddr + 32) 8 + 32 * (r.seq % 2 ^ (s.homeNat (r.qaddr + 24) 1 % 16))
  va % 32 = 0 ∧ ∃ pa pg, Claims.cuAt s o ch va 32 .write anyPage pa pg

/-- The pointer of a channel after a step of its packet r, in whole sectors, where the packet moves it (12 R258). -/
def Sys2Proof.Claims.pointer (s : State) (o ch : Nat) (r : CuRun) (bytes : Nat) : Word :=
  let cur := (s.octet o).wp.get 0 ch
  if r.inOrder then BitVec.ofNat 64 (Max.max cur.toNat ((parseCopy r.packet).wpb + bytes / 128 * 128)) else cur

/-- A row of bytes of a COPY, or of a relocation that is no growth's, moves as it stands; it is not the last. -/
def Sys2Proof.Claims.rowMoves (i : Instr) (s : State) (o ch : Nat) (r : CuRun) : Prop :=
  let p := parseCopy r.packet
  ∀ a b pa pb ga gb gc gd, p.trans = false → p.cols = p.dcols → r.next < p.rows → r.next + 1 < p.drows →
    Claims.cuAt s o ch p.src 1 .read anyPage a ga → Claims.cuAt s o ch p.dst 1 .write anyPage b gb →
    (if fieldAt r.packet 0 1 = 5 then gb.fmt = 13 → ga.fmt = 0 ∨ ga.fmt = 13 else ga.fmt = 0 ∧ gb.fmt = 0) →
    Claims.cuAt s o ch (p.src + r.next * p.sstr) p.cols .read anyPage pa gc → gc.fmt = ga.fmt → s.homePoisoned pa p.cols = false →
    Claims.cuAt s o ch (p.dst + r.next * p.dstr) p.cols .write anyPage pb gd → gd.fmt = gb.fmt →
    ∃ t, exec i s = .next t ∧ Claims.bytesPut s t pb (s.homeBytes pa p.cols)
      ∧ (t.octet o).wp.get 0 ch = Claims.pointer s o ch r (r.bytes + p.cols)
      ∧ (t.octet o).chans.get none ch = some { r with next := r.next + 1, bytes := r.bytes + p.cols }

/-- A copy unit takes the packet at RI of the enabled queue whose turn it is on its idle channel: RI advances, and the packet
starts, with microcode at the entry of its OP with the registers of 12 R244 or by the unit itself; without an entry, malformed,
or with a pointer that would go back it ends with FORMAT, and on a failed unit with HW_ERROR. A row of a RAW copy or of a
relocation moves its bytes; a row of an FP32 fill writes FILLV; a packet with WP publishes its pointer. A gather reads its
descriptor, and a posted row returns to its position, with WP in order. A barrier ends with its record and moves no data, and a
group of one keeps its data. A relocation of a growth moves the next bytes of its slab. A growth whose slab has moved takes the
new base and size (08 R181, R182; 12 R244, R255 to R260; 16 R314, R315). A step of a channel that has no such packet leaves the
state. The granularity of rows and bytes is the model's (log entries 1, 36, 45). -/
def Sys2Proof.Claims.CopySteps : Prop :=
  (∀ (s : State) (o q : Nat) (micro : Bool),
    let w := (s.ctlWord (0x600040 + 0x1000 * o + 8 * q)).toNat
    let d := bitsOf w 51 6 * 64
    let ten := bitsOf w 55 52
    let ch := s.homeNat (d + 25) 1 % 8
    let ri := s.homeNat (d + 8) 4
    let slot := s.homeNat (d + 16) 8 + 64 * (ri % 2 ^ (s.homeNat (d + 24) 1 % 16))
    let on : Prop := o < 120 ∧ q < 32 ∧ (s.cuctl o).testBit 63 = true ∧ w.testBit 63 = true ∧ (s.octet o).halted = false
      ∧ (s.octet o).chans.get none ch = none ∧ s.stalled (.cu o ch) = false ∧ s.nextCuQueue o ch = some q
    (¬ on → exec (.packetTake o q micro) s = .next s)
    ∧ (∀ pa pg, on → Claims.cuAt (s.setRun o ch (newRun [] q d 0 ten false)) o ch slot 64 .read anyPage pa pg → s.homePoisoned pa 64 = false →
      let bs := s.homeBytes pa 64
      let op := fieldAt bs 0 1
      let e := bitsOf (s.cuctl o) 51 6 * 64 + 8 * op
      let r := newRun bs q d ri ten micro
      let legal : Prop := s.homeNat e 8 ≠ 0 ∧ packetOk bs = true ∧ s.wpOk o ch r = true
      (e + 8 ≤ d + 8 ∨ d + 16 ≤ e) →
      ((s.octet o).cuFailed = false → legal →
        ∃ t, exec (.packetTake o q micro) s = .next t ∧ t.homeBytes (d + 8) 8 = bytesOf 8 ((ri + 1) % 2 ^ 32)
          ∧ (t.octet o).chans.get none ch = some r ∧ (t.octet o).cuTurn.get 31 ch = q
          ∧ t.ctxOf (.cu o ch) = (if micro then Claims.microStart bs d ch (ten % 16) (s.homeNat e 8) else s.ctxOf (.cu o ch)))
      ∧ ((s.octet o).cuFailed = true ∨ ¬ legal →
        ∃ u : State, u.homeBytes (d + 8) 8 = bytesOf 8 ((ri + 1) % 2 ^ 32) ∧ (u.octet o).chans.get none ch = some r ∧ (u.octet o).cuTurn.get 31 ch = q
          ∧ exec (.packetTake o q micro) s = .next (u.failPacket o ch (if (s.octet o).cuFailed then cHW_ERROR else cFORMAT) 0))))
  ∧ (∀ (i : Instr) (s : State) (o ch op n : Nat), s.cuReady o ch op = none →
    (i = .copy o ch ∧ op = 1 ∨ i = .fill o ch ∧ op = 2 ∨ i = .gatherPacket o ch ∧ op = 3 ∨ i = .collPacket o ch ∧ op = 4 ∨ i = .reloc o ch n ∧ op = 5) →
    exec i s = .next s)
  ∧ (∀ (i : Instr) (s : State) (o ch n : Nat) (r : CuRun), Claims.settled { s with hart := .cu o ch } →
    (i = .copy o ch ∧ s.cuReady o ch 1 = some r ∨ i = .reloc o ch n ∧ s.cuReady o ch 5 = some r ∧ s.transoms = []) → Claims.rowMoves i s o ch r)
  ∧ (∀ (s : State) (o ch : Nat) (r : CuRun), s.cuReady o ch 2 = some r → Claims.settled { s with hart := .cu o ch } →
    let p := parseCopy r.packet
    ∀ b pb gb gd, p.sat = false → p.rnd = 0 → isNaN (decodeF fp32 p.fillv) = false → p.dst % 4 = 0 → p.dstr % 4 = 0 → r.next + 1 < p.drows →
      Claims.cuAt s o ch p.dst 1 .write anyPage b gb → gb.fmt = 10 →
      Claims.cuAt s o ch (p.dst + r.next * p.dstr) (4 * p.dcols) .write anyPage pb gd → gd.fmt = 10 → (s.ctxOf (.cu o ch)).rm = 0 →
      ∃ t, exec (.fill o ch) s = .next t ∧ Claims.bytesPut s t pb ((List.range p.dcols).flatMap (fun _ => bytesOf 4 p.fillv))
        ∧ (t.octet o).wp.get 0 ch = Claims.pointer s o ch r (r.bytes + 4 * p.dcols)
        ∧ (t.octet o).chans.get none ch = some { r with next := r.next + 1, bytes := r.bytes + 4 * p.dcols, fills := r.fills + p.dcols })
  ∧ (∀ (s : State) (o ch : Nat) (r : CuRun) (pa : Nat) (pg : Page), s.cuReady o ch 3 = some r → r.packet.length = 64 →
    let va := fieldAt r.packet 8 8
    Claims.cuAt s o ch va 64 .read anyPage pa pg → s.homePoisoned pa 64 = false → va % 64 = 0 →
    let d := s.homeBytes pa 64
    let g := parseGather d
    1 ≤ g.count → g.count ≤ 2 ^ 32 → 8 ≤ g.row → g.row ≤ 4096 → g.row % 8 = 0 → g.list % 4 = 0 → g.dst % 8 = 0 → g.base % 8 = 0 →
    ∃ t, exec (.gatherPacket o ch) s = .next t ∧ t.mem = s.mem ∧ (t.octet o).chans.get none ch = some { r with packet := r.packet ++ d })
  ∧ (∀ (s : State) (o ch k : Nat),
    ((s.octet o).chans.get none ch = none → exec (.gatherRowReturn o ch k) s = .next s)
    ∧ (∀ r j va, (s.octet o).chans.get none ch = some r → r.rows[k]? = some (j, va) → r.done = false → s.stalled (.cu o ch) = false →
      r.packet.length = 128 →
      let g := parseGather (r.packet.drop 64)
      (k ≠ 0 → r.inOrder = true → exec (.gatherRowReturn o ch k) s = .next s)
      ∧ (∀ bs pa pb ga gb, 2 ≤ r.rows.length → (k = 0 ∨ r.inOrder = false) → Claims.settled { s with hart := .cu o ch } →
        (va = zeroRow ∧ bs = List.replicate g.row 0
          ∨ Claims.cuAt s o ch va g.row .read anyPage pa ga ∧ s.homePoisoned pa g.row = false ∧ bs = s.homeBytes pa g.row) →
        Claims.cuAt s o ch (g.dst + j * g.row) g.row .write notKv pb gb →
        ∃ t, exec (.gatherRowReturn o ch k) s = .next t ∧ Claims.bytesPut s t pb bs
          ∧ (t.octet o).wp.get 0 ch = Claims.pointer s o ch r (r.bytes + g.row)
          ∧ (t.octet o).chans.get none ch = some { r with rows := dropIdx r.rows k, bytes := r.bytes + g.row }
          ∧ (t.octet o).ctr.get 0 42 = (s.octet o).ctr.get 0 42 + (if va = zeroRow then 0 else 1))))
  ∧ (∀ (s : State) (o ch : Nat) (r : CuRun) (pa : Nat) (pg : Page), s.cuReady o ch 4 = some r →
    Claims.settled { s with hart := .cu o ch } → Claims.packetRecordAt s o ch r →
    let va := fieldAt r.packet 8 8
    Claims.cuAt s o ch va 64 .read anyPage pa pg → s.homePoisoned pa 64 = false → va % 64 = 0 →
    let d := s.homeBytes pa 64
    let base := fieldAt d 0 8
    let n := 4 * fieldAt d 8 8
    let opc := fieldAt r.packet 2 1
    (s.collGroup (fieldAt d 16 8) r.ten = none ∨ 4 < opc ∨ opc < 4 ∧ base % 4 ≠ 0 → ∃ t, exec (.collPacket o ch) s = .next t ∧ Claims.PacketEnded s t o ch)
    ∧ (∀ members rank, s.collGroup (fieldAt d 16 8) r.ten = some (members, rank) → opc ≤ 4 →
      let stays : Prop := opc = 4 ∨ opc = 3 ∧ rank = 0
      (stays ∨ members = 1) → (opc < 4 → base % 4 = 0) →
      (¬ stays → ∀ e ∈ pageParts base (n / 4096 + 2) n, ∃ l p, allowed { s with hart := .cu o ch } e.1 .write notKv = some (l, p)
        ∧ Claims.roomy { s with hart := .cu o ch } l e.2) →
      ∃ t, exec (.collPacket o ch) s = .next t ∧ Claims.PacketEnded s t o ch ∧ (t.octet o).ctr.get 0 41 = (s.octet o).ctr.get 0 41))
  ∧ (∀ (s : State) (o ch n total : Nat) (r : CuRun), s.cuReady o ch 5 = some r → s.slabBytes r = some total →
    let p := parseCopy r.packet
    let k := Min.min n (total - r.bytes)
    (n = 0 ∨ n % 128 ≠ 0 → exec (.reloc o ch n) s = .next s)
    ∧ (∀ pa pb ga gb, 1 ≤ n → n % 128 = 0 → r.bytes < total → Claims.settled { s with hart := .cu o ch } →
      Claims.cuAt s o ch (p.src + r.bytes) k .read anyPage pa ga → s.homePoisoned pa k = false →
      Claims.cuAt s o ch (p.dst + r.bytes) k .write anyPage pb gb → (gb.fmt = 13 → ga.fmt = 0 ∨ ga.fmt = 13) →
      ∃ t, exec (.reloc o ch n) s = .next t ∧ Claims.bytesPut s t pb (s.homeBytes pa k)
        ∧ (t.octet o).chans.get none ch = some { r with bytes := r.bytes + k }))
  ∧ (∀ (s : State) (die pair : Nat),
    (s.transoms.find? (fun p => p.die == die && p.pair == pair) = none → exec (.kvgrowComplete die pair) s = .next s)
    ∧ (∀ p, s.transoms.find? (fun p => p.die == die && p.pair == pair) = some p →
      let e := s.seqEntry p.ten p.seq
      (p.mark ≠ 2 ^ e.lsize → exec (.kvgrowComplete die pair) s = .next s)
      ∧ (p.mark = 2 ^ e.lsize → (∀ o ch r, s.relocRun p = some (o, ch, r) → r.micro = true) → ∃ t, exec (.kvgrowComplete die pair) s = .next t
        ∧ t.transoms = s.transoms.filter (fun x => !(x.die == die && x.pair == pair))
        ∧ Claims.bytesPut s t (s.seqAddr p.ten p.seq) (bytesOf 8 p.new
            ++ bytesOf 8 { e with base := p.new, lsize := e.lsize + 1, grow := false, tpd := 0, tpn := 0 }.word1))))

/-- The steps of the matrix engines: jobs, ramps, lookups, lineage jobs, and attention. -/
def Obligations.EngineStepsAndAttention : Prop := Claims.EngineSteps ∧ Claims.AttentionSteps

/-- The steps of the copy units. -/
def Obligations.CopyUnitSteps : Prop := Claims.CopySteps

/-! ### Steps of the command processors (14 R280 to R288, R293, R294; 18 R343, R344; 20 R371) -/

/-- The ring of completion records lies apart from the descriptor of its queue. -/
def Sys2Proof.Claims.queueApart (s : State) (qa : Nat) : Prop :=
  s.homeNat (qa + 32) 8 + 32 * s.queueSlots qa ≤ qa ∨ qa + 64 ≤ s.homeNat (qa + 32) 8

/-- Where the record of a sequence stands. -/
def Sys2Proof.Claims.recordAt (s : State) (qa seq : Nat) : Nat := s.homeNat (qa + 32) 8 + 32 * (seq % s.queueSlots qa)

/-- A completion record (14 R282). -/
def Sys2Proof.Claims.completion (seq status cause core thread epc eval : Nat) : List Byte :=
  bytesOf 4 seq ++ bytesOf 1 status ++ bytesOf 1 cause ++ bytesOf 2 core ++ bytesOf 1 thread ++ bytesOf 7 0 ++ bytesOf 8 epc ++ bytesOf 8 eval

/-- A queue of a cluster takes its packet at RI: it is the queue's turn, and the packet has sequence RI (14 R280). The queue is the
cluster's one queue with its descriptor, from which its ring of records lies apart. -/
def Sys2Proof.Claims.takes (s : State) (cl qa : Nat) (q : CpQueue) (ri : Nat) (bs : List Byte) : Prop :=
  s.nextCommand cl qa = some (q, ri, bs) ∧ s.cpQueue cl qa = some q ∧ Claims.queueApart s qa

/-- RI has passed a packet, and its queue has had its turn (14 R280). -/
def Sys2Proof.Claims.consumed (s t : State) (cl qa ri : Nat) : Prop :=
  t.homeBytes (qa + 8) 8 = bytesOf 8 ((ri + 1) % 2 ^ 32) ∧ t.cpTurn.get 63 cl = s.queuePlace cl qa

/-- A packet was refused: it is consumed, its record has status 2, and nothing else came of it (14 R281, R282). -/
def Sys2Proof.Claims.Refused (s t : State) (cl qa ri cause addr : Nat) : Prop :=
  Claims.consumed s t cl qa ri ∧ t.homeBytes (qa + 41) 1 = [0] ∧ t.homeBytes (Claims.recordAt s qa ri) 32 = Claims.completion ri 2 cause 0 0 0 addr
  ∧ t.launches = s.launches ∧ t.queues = s.queues ∧ t.irqs = s.irqs

/-- A packet is complete with status 0, and its queue takes packets again. -/
def Sys2Proof.Claims.Completed (s t : State) (cl : Nat) (q : CpQueue) : Prop :=
  t.homeBytes (Claims.recordAt s q.desc q.seq) 32 = Claims.completion q.seq 0 0 0 0 0 0
  ∧ t.queues.get [] cl = (s.queues.get [] cl).map (fun x => if x.desc = q.desc then { q with step := 0, packet := [], seq := 0 } else x)

/-- An address of a command passes its checks: it is memory of the tenant's world that can be reached, of FMT RAW, at pa, and
none of the n bytes that are read there is poisoned (14 R281, R283; 19 R355). -/
def Sys2Proof.Claims.cpAt (s : State) (cl ten va align n : Nat) (write : Bool) (pa : Nat) : Prop :=
  va % align = 0 ∧ va < 2 ^ 48 ∧ (∃ pg, (s.locate (.me (6 * cl) 0) ten va).2 = some (.dev pa, pg)
    ∧ (s.regionOf pa = .hbm ∨ s.regionOf pa = .cxl) ∧ pg.home ≠ 3 ∧ pg.s = s.frameWorld pa ∧ (write = true → pg.w = true) ∧ pg.fmt = 0)
    ∧ (0 < n → s.homePoisoned pa n = false)

/-- An address of a command fails with a cause: an alignment it lacks, no translation, then the world, the write permission, the
format, in this order; or a poisoned word (14 R281, R283; 07 R142). -/
def Sys2Proof.Claims.cpBad (s : State) (cl ten va align n : Nat) (write : Bool) (cause : Nat) : Prop :=
  let l := (s.locate (.me (6 * cl) 0) ten va).2
  va % align ≠ 0 ∧ cause = cMISALIGNED
  ∨ va % align = 0 ∧ (2 ^ 48 ≤ va ∨ l = none) ∧ cause = cPAGE_FAULT
  ∨ va % align = 0 ∧ va < 2 ^ 48 ∧ ten < 16 ∧ ∃ pa pg, l = some (.dev pa, pg) ∧ (s.regionOf pa = .hbm ∨ s.regionOf pa = .cxl) ∧ pg.home ≠ 3
      ∧ (pg.s ≠ s.frameWorld pa ∧ cause = cWORLD
        ∨ pg.s = s.frameWorld pa ∧ (write = true ∧ pg.w = false ∧ cause = cPROTECTION
          ∨ (write = true → pg.w = true) ∧ (pg.fmt ≠ 0 ∧ cause = cFORMAT
            ∨ pg.fmt = 0 ∧ 0 < n ∧ s.homePoisoned pa n = true ∧ cause = cPOISON)))

/-- The translations for a command of a tenant do not overtake one another, as in Claims.settled. -/
def Sys2Proof.Claims.cpSettled (s : State) (cl ten : Nat) : Prop :=
  ∀ (vas : List Nat) (b : Nat),
    ((vas.foldl (fun u va => (u.locate (.me (6 * cl) 0) ten va).1) s).locate (.me (6 * cl) 0) ten b).2 = (s.locate (.me (6 * cl) 0) ten b).2

/-- A command processor takes the packet at RI of a queue. LAUNCH admits a launch whose descriptor, lists and rings pass their checks,
or refuses it with status 2, as it does a packet of a reserved OP or one with an address that fails its checks. WRSIG writes its
word, then signals; WAIT waits for its condition; BARRIER for the queue's launches; RESET, from a queue with SYS that has no launch
left, sets WI, RI and CI. A poll reads WI. A step of another packet leaves the state (14 R280 to R283, R295; 20 R371). The write of a
record is stated where its ring lies apart from the queue's descriptor; log entries 1, 47, 48 and 66 name the model's choices. -/
def Sys2Proof.Claims.CommandPackets : Prop :=
  (∀ (s : State) (cl qa : Nat),
    (s.nextCommand cl qa = none → exec (.launch cl qa) s = .next s)
    ∧ (s.cpQueue cl qa = none → exec (.wrsig cl qa) s = .next s ∧ exec (.wait cl qa) s = .next s ∧ exec (.barrier cl qa) s = .next s
        ∧ exec (.reset cl qa) s = .next s ∧ exec (.queuePoll cl qa) s = .next s)
    ∧ (∀ q, s.cpQueue cl qa = some q → ∃ t, exec (.queuePoll cl qa) s = .next t ∧ { t with queues := s.queues } = s
        ∧ t.queues.get [] cl = (s.queues.get [] cl).map (fun x => if x.desc = qa then { q with wi := s.homeNat qa 4 } else x)))
  ∧ (∀ (s : State) (cl qa ri : Nat) (q : CpQueue) (bs : List Byte), Claims.takes s cl qa q ri bs →
    let op := fieldAt bs 0 1
    let ten := s.queueTen qa
    let va := fieldAt bs 8 8
    (op ≠ 1 → op ≠ 0 → op ≤ 5 → exec (.launch cl qa) s = .next s)
    ∧ (op = 0 ∨ 5 < op → ∃ t, exec (.launch cl qa) s = .next t ∧ Claims.Refused s t cl qa ri 0 0)
    ∧ (op = 1 → (fieldAt bs 1 3 ≠ 0 ∨ fieldAt bs 16 48 ≠ 0) → ∃ t, exec (.launch cl qa) s = .next t ∧ Claims.Refused s t cl qa ri 0 0)
    ∧ (∀ k, op = 1 → fieldAt bs 1 3 = 0 → fieldAt bs 16 48 = 0 → (s.tenants.get none ten).isSome = true → Claims.cpBad s cl ten va 128 128 false k →
        ∃ t, exec (.launch cl qa) s = .next t ∧ Claims.Refused s t cl qa ri k va)
    ∧ (∀ pa, op = 1 → fieldAt bs 1 3 = 0 → fieldAt bs 16 48 = 0 → (s.tenants.get none ten).isSome = true → Claims.cpAt s cl ten va 128 128 false pa →
      Claims.cpSettled s cl ten →
      let d := s.homeBytes pa 128
      let ok : Prop := launchFieldsOk d = true ∧ ((fieldAt d 33 1).testBit 1 = true → s.queueSys qa = true)
        ∧ s.maskOk ten (fieldAt d 96 15) ((fieldAt d 34 1).testBit 0) = true
      let places := s.listPlaces cl ten (fieldAt d 80 8) 4 4 16 ++ s.listPlaces cl ten (fieldAt d 88 8) 8 8 64
        ++ s.ringPlaces cl ten (fieldAt d 64 8) ++ s.ringPlaces cl ten (fieldAt d 72 8)
      (¬ ok → ∃ t, exec (.launch cl qa) s = .next t ∧ Claims.Refused s t cl qa ri 0 0)
      ∧ (∀ l a w k r, ok → places = l ++ (a, w) :: r → (∀ e ∈ l, ∃ b, Claims.cpAt s cl ten e.1 e.2.1 e.2.2.1 e.2.2.2 b) →
        Claims.cpBad s cl ten a w.1 w.2.1 w.2.2 k → ∃ t, exec (.launch cl qa) s = .next t ∧ Claims.Refused s t cl qa ri k a)
      ∧ (ok → (∀ e ∈ places, ∃ a, Claims.cpAt s cl ten e.1 e.2.1 e.2.2.1 e.2.2.2 a) → s.launchLists cl ten d = none →
        ∃ t, exec (.launch cl qa) s = .next t ∧ Claims.Refused s t cl qa ri 0 0)
      ∧ (∀ bufs chans, ok → (∀ e ∈ places, ∃ a, Claims.cpAt s cl ten e.1 e.2.1 e.2.2.1 e.2.2.2 a) → s.launchLists cl ten d = some (bufs, chans) →
        ∃ t x, exec (.launch cl qa) s = .next t ∧ Claims.consumed s t cl qa ri ∧ t.nextLaunch = s.nextLaunch + 1 ∧ t.queues = s.queues
          ∧ (∀ k, t.launches.get none k = if k = s.nextLaunch then some x else s.launches.get none k)
          ∧ x.ten = ten ∧ x.cl = cl ∧ x.queue = qa ∧ x.seq = ri ∧ x.started = false ∧ x.failed = none
          ∧ x.desc = BitVec.ofNat 64 va ∧ x.entry = BitVec.ofNat 64 (fieldAt d 0 8) ∧ x.lo = BitVec.ofNat 64 (fieldAt d 8 8)
          ∧ x.hi = BitVec.ofNat 64 (fieldAt d 16 8) ∧ x.grain = BitVec.ofNat 64 (fieldAt d 24 8) ∧ x.dom = fieldAt d 32 1
          ∧ x.mask = fieldAt d 96 15 ∧ x.buffers = bufs ∧ x.chanList = chans.map (BitVec.ofNat 64))))
  ∧ (∀ (s : State) (cl qa ri : Nat) (q : CpQueue) (bs : List Byte), Claims.takes s cl qa q ri bs →
    let ten := s.queueTen qa
    let va := fieldAt bs 8 8
    let x := fieldAt bs 24 8
    (fieldAt bs 0 1 ≠ 2 → exec (.wrsig cl qa) s = .next s)
    ∧ (fieldAt bs 0 1 = 2 → (fieldAt bs 1 3 ≠ 0 ∨ fieldAt bs 32 32 ≠ 0 ∨ targetOk x = false) →
        ∃ t, exec (.wrsig cl qa) s = .next t ∧ Claims.Refused s t cl qa ri 0 0)
    ∧ (∀ k, fieldAt bs 0 1 = 2 → fieldAt bs 1 3 = 0 → fieldAt bs 32 32 = 0 → targetOk x = true → Claims.cpBad s cl ten va 8 8 true k →
        ∃ t, exec (.wrsig cl qa) s = .next t ∧ Claims.Refused s t cl qa ri k va)
    ∧ (∀ pa, fieldAt bs 0 1 = 2 → fieldAt bs 1 3 = 0 → fieldAt bs 32 32 = 0 → targetOk x = true → Claims.cpAt s cl ten va 8 8 true pa →
        pa + 8 ≤ qa ∨ qa + 64 ≤ pa → ∃ t, exec (.wrsig cl qa) s = .next t ∧ Claims.consumed s t cl qa ri
          ∧ t.homeBytes pa 8 = bytesOf 8 (fieldAt bs 16 8) ∧ t.homeBytes (qa + 41) 1 = [1] ∧ t.irqs = s.irqs
          ∧ t.queues.get [] cl = (s.queues.get [] cl).map (fun y => if y.desc = qa then { q with step := 1, packet := bs, seq := ri } else y)))
  ∧ (∀ (s : State) (cl qa : Nat) (q : CpQueue), s.cpQueue cl qa = some q → q.step = 1 → Claims.queueApart s qa →
    let x := fieldAt q.packet 24 8
    ∃ t, exec (.wrsig cl qa) s = .next t ∧ Claims.Completed s t cl q ∧ t.homeBytes (qa + 41) 1 = [0]
      ∧ t.irqs = s.irqs ++ (if x = 0 then [] else [(x % 32, bitsOf x 26 16)]))
  ∧ (∀ (s : State) (cl qa ri : Nat) (q : CpQueue) (bs : List Byte), Claims.takes s cl qa q ri bs →
    let va := fieldAt bs 8 8
    let q' : CpQueue := { q with step := 2, packet := bs, seq := ri }
    (fieldAt bs 0 1 ≠ 3 → exec (.wait cl qa) s = .next s)
    ∧ (fieldAt bs 0 1 = 3 → (6 ≤ fieldAt bs 1 1 ∨ fieldAt bs 2 2 ≠ 0 ∨ fieldAt bs 24 40 ≠ 0) →
        ∃ t, exec (.wait cl qa) s = .next t ∧ Claims.Refused s t cl qa ri 0 0)
    ∧ (∀ k, fieldAt bs 0 1 = 3 → fieldAt bs 1 1 < 6 → fieldAt bs 2 2 = 0 → fieldAt bs 24 40 = 0 → Claims.cpBad s cl (s.queueTen qa) va 8 8 true k →
        ∃ t, exec (.wait cl qa) s = .next t ∧ Claims.Refused s t cl qa ri k va)
    ∧ (∀ pa, fieldAt bs 0 1 = 3 → fieldAt bs 1 1 < 6 → fieldAt bs 2 2 = 0 → fieldAt bs 24 40 = 0 → Claims.cpAt s cl (s.queueTen qa) va 8 8 true pa →
      pa + 8 ≤ qa ∨ qa + 64 ≤ pa →
      ∃ t, exec (.wait cl qa) s = .next t ∧ Claims.consumed s t cl qa ri
        ∧ (Claims.holds (fieldAt bs 1 1) (s.homeNat pa 8) (fieldAt bs 16 8) → Claims.Completed s t cl q')
        ∧ (¬ Claims.holds (fieldAt bs 1 1) (s.homeNat pa 8) (fieldAt bs 16 8) →
            t.queues.get [] cl = (s.queues.get [] cl).map (fun y => if y.desc = qa then q' else y))))
  ∧ (∀ (s : State) (cl qa pa : Nat) (q : CpQueue), s.cpQueue cl qa = some q → q.step = 2 → Claims.queueApart s qa →
    Claims.cpAt s cl (s.queueTen qa) (fieldAt q.packet 8 8) 8 8 true pa → fieldAt q.packet 1 1 < 6 →
    ∃ t, exec (.wait cl qa) s = .next t
      ∧ (Claims.holds (fieldAt q.packet 1 1) (s.homeNat pa 8) (fieldAt q.packet 16 8) → Claims.Completed s t cl q)
      ∧ (¬ Claims.holds (fieldAt q.packet 1 1) (s.homeNat pa 8) (fieldAt q.packet 16 8) → { t with tlb := s.tlb, cores := s.cores } = s))
  ∧ (∀ (s : State) (cl qa ri : Nat) (q : CpQueue) (bs : List Byte), Claims.takes s cl qa q ri bs →
    let q' : CpQueue := { q with step := 3, packet := bs, seq := ri }
    let busy : Prop := ∃ e x, (e, some x) ∈ s.launches ∧ x.queue = qa
    (fieldAt bs 0 1 ≠ 4 → exec (.barrier cl qa) s = .next s)
    ∧ (fieldAt bs 0 1 = 4 → (fieldAt bs 1 3 ≠ 0 ∨ fieldAt bs 8 56 ≠ 0) → ∃ t, exec (.barrier cl qa) s = .next t ∧ Claims.Refused s t cl qa ri 0 0)
    ∧ (fieldAt bs 0 1 = 4 → fieldAt bs 1 3 = 0 → fieldAt bs 8 56 = 0 → ∃ t, exec (.barrier cl qa) s = .next t ∧ Claims.consumed s t cl qa ri
      ∧ (busy → t.queues.get [] cl = (s.queues.get [] cl).map (fun y => if y.desc = qa then q' else y))
      ∧ (¬ busy → Claims.Completed s t cl q')))
  ∧ (∀ (s : State) (cl qa : Nat) (q : CpQueue), s.cpQueue cl qa = some q → q.step = 3 → Claims.queueApart s qa →
    let busy : Prop := ∃ e x, (e, some x) ∈ s.launches ∧ x.queue = qa
    (busy → exec (.barrier cl qa) s = .next s) ∧ (¬ busy → ∃ t, exec (.barrier cl qa) s = .next t ∧ Claims.Completed s t cl q))
  ∧ (∀ (s : State) (cl qa ri : Nat) (q : CpQueue) (bs : List Byte), Claims.takes s cl qa q ri bs →
    let wi := bytesOf 8 (fieldAt bs 8 4)
    (fieldAt bs 0 1 ≠ 5 → exec (.reset cl qa) s = .next s)
    ∧ (fieldAt bs 0 1 = 5 → (s.queueSys qa = false ∨ fieldAt bs 1 3 ≠ 0 ∨ fieldAt bs 12 52 ≠ 0) →
        ∃ t, exec (.reset cl qa) s = .next t ∧ Claims.Refused s t cl qa ri 0 0)
    ∧ (fieldAt bs 0 1 = 5 → s.queueSys qa = true → fieldAt bs 1 3 = 0 → fieldAt bs 12 52 = 0 → (∀ e x, (e, some x) ∈ s.launches → x.queue ≠ qa) →
        Claims.untraced s → ∃ t, exec (.reset cl qa) s = .next t ∧ t.homeBytes qa 24 = wi ++ wi ++ wi
          ∧ t.queues.get [] cl = (s.queues.get [] cl).map (fun y => if y.desc = qa then { q with step := 0, packet := [], seq := 0, wi := fieldAt bs 8 4 } else y)))
  ∧ (∀ (s : State) (cl qa : Nat) (q : CpQueue) (e : Nat) (x : Launch), s.cpQueue cl qa = some q → q.step = 4 → (e, some x) ∈ s.launches → x.queue = qa →
    exec (.reset cl qa) s = .next s)

/-- A symbol is the one that a request allocated, and not a later one in its place (11 R233). -/
def Sys2Proof.Claims.awaits (r : Service) (y : Sym) : Prop := y.src = .service r.cl r.seq ∧ y.ten = r.ten ∧ y.thread = r.thread

/-- The root join block of a launch: its count of shares, no error, the completion or the sink, the frame, and the policy and budget
(14 R284, 07 R157). -/
def Sys2Proof.Claims.rootBytes (x : Launch) : List Byte :=
  bytesOf 4 (sharesOf x).length ++ bytesOf 4 0 ++ bytesOf 8 (if x.compl = 0 then x.sink else x.compl).toNat
    ++ bytesOf 8 x.frame.toNat ++ bytesOf 8 (x.policy.toNat % 4 * 2 ^ 48 + x.policy.toNat / 4 * 2 ^ 50)

/-- A launch that waits starts once its buffers' entries let it pass: its root join block counts its shares, and each share's
record is pushed on its seed core's deque for the tenant (stated where every core of its mask runs another tenant's launch); the
flags of its clusters are cleared, and STEP reads 2 while its packet is the last one taken. A launch ends once its jobs are done and it has failed or its root block is drained: its record is written and it is gone. The
classifier judges a launch once, 200 µs after its start, by busy ACLK that its engines have counted and by the bytes read. A slice that nobody waits for is renewed, else the core runs a tenant that
waits and %preempt counts. A save writes the thread's image. A reply resolves the symbol of its request, or is counted as lost; a reset
of the service queue poisons every pending request with SOFTWARE and sets WI, RI and CI (14 R284 to R288, R293, R294; 18 R343, R344). A
step whose precondition does not hold leaves the state; log entries 1, 2, 49, 66 and 113 name the model's choices. -/
def Sys2Proof.Claims.LaunchesAndServices : Prop :=
  (∀ (s : State) (l root : Nat),
    (s.launches.get none l = none → exec (.launchStart l root) s = .next s)
    ∧ (∀ x, s.launches.get none l = some x →
      (x.started = true ∨ x.failed.isSome = true ∨ s.hazardTable l x = none → exec (.launchStart l root) s = .next s)
      ∧ (∀ h, s.hazardTable l x = some h → (∃ b ∈ x.buffers, s.hazardPasses h b = false) → exec (.launchStart l root) s = .next s)
      ∧ (∀ u pa, x.started = false → x.failed = none → x.buffers = [] → x.chanList = [] → x.acq = false → x.fuse = false → x.coloc = false →
        ((s.hazards.get [] x.ten).filter Hazard.used).length ≤ 256 → (∀ q, s.cpQueue x.cl x.queue = some q → q.place = 0) →
        s.joinCheck (.me (6 * x.cl) 0) x.ten root = (u, .ok pa) →
        pa + 32 ≤ x.queue ∨ x.queue + 64 ≤ pa →
        (∀ c ∈ maskCores x.mask, (s.core c).tenant ≠ x.ten ∧ s.coreIdle c = false) →
        (∀ e ∈ sharesOf x, (s.deques.get [] (tcKey x.ten e.1)).length < 64 ∧ (s.spills.get [] (tcKey x.ten e.1)).length ≠ 4096) →
        ∃ t, exec (.launchStart l root) s = .next t
          ∧ (∀ k, t.launches.get none k = if k = l then some { x with root := BitVec.ofNat 64 root, started := true, startAt := s.time, busy0 := s.busyOf x.mask } else s.launches.get none k)
          ∧ (∀ a, t.homeByte a = if s.homeNat (x.queue + 8) 4 = (x.seq + 1) % 2 ^ 32 ∧ a = x.queue + 41 then 2
              else if pa ≤ a ∧ a < pa + 32 then (Claims.rootBytes x).getD (a - pa) 0 else s.homeByte a)
          ∧ (∀ cl ∈ maskClusters x.mask, t.clflags.get 0 (cl * 32 + x.ten) = 0)
          ∧ (∀ e ∈ sharesOf x, t.deques.get [] (tcKey x.ten e.1)
              = { code := x.entry, frame := x.frame, joinc := BitVec.ofNat 64 root, lo := BitVec.ofNat 64 e.2.1, hi := BitVec.ofNat 64 e.2.2,
                  grain := x.grain, parent := 0, dom := x.dom, low := x.low, range := true, bud := x.policy.toNat / 4, pol := x.policy.toNat % 4,
                  launch := some l, addr := 0 } :: s.deques.get [] (tcKey x.ten e.1)))))
  ∧ (∀ (s : State) (l : Nat),
    (s.launches.get none l = none → exec (.launchEnd l) s = .next s)
    ∧ (∀ x, s.launches.get none l = some x →
      let ends : Prop := s.jobsDone l = true ∧ (x.failed.isSome = true ∨ x.started = true ∧ s.rootDrained x = true
        ∧ ∀ e ∈ s.threads, continuesRoot l x e.2 = false)
      let f := x.failed.getD (0, 0, 0, 0, 0)
      (¬ ends → exec (.launchEnd l) s = .next s)
      ∧ (ends → x.fuse = false → (∀ k w, s.l1.get none k = some w → w.dirty = false) → Claims.queueApart s x.queue →
        ∃ t, exec (.launchEnd l) s = .next t ∧ (∀ k, t.launches.get none k = if k = l then none else s.launches.get none k)
          ∧ t.homeBytes (Claims.recordAt s x.queue x.seq) 32 = Claims.completion x.seq x.status f.1 f.2.1 f.2.2.1 f.2.2.2.1 f.2.2.2.2)))
  ∧ (∀ (s : State) (l busy bytes : Nat),
    (s.launches.get none l = none → exec (.colocationClassify l busy bytes) s = .next s)
    ∧ (∀ x, s.launches.get none l = some x →
      let due : Prop := x.started = true ∧ x.classed = false ∧ x.startAt + 200000 ≤ s.time ∧ x.busy0 + busy ≤ s.busyOf x.mask
      (¬ due → exec (.colocationClassify l busy bytes) s = .next s)
      ∧ (∀ q, due → s.cpQueue x.cl x.queue = some q → ∃ t, exec (.colocationClassify l busy bytes) s = .next t
        ∧ (∀ k, t.launches.get none k = if k = l then some { x with classed := true } else s.launches.get none k)
        ∧ t.queues.get [] x.cl = (s.queues.get [] x.cl).map (fun y => if y.desc = q.desc then
            { q with cls := if bytes ≤ 2 * busy ∧ 0 < busy then 1 else if 8 * busy < bytes then 2 else 0 } else y)
        ∧ { t with launches := s.launches, queues := s.queues } = s)))
  ∧ (∀ (s : State) (cl ten : Nat),
    let cs := s.sliceOver cl ten
    (cs = [] → exec (.sliceEnd cl ten) s = .next s)
    ∧ (cs ≠ [] → s.waiters cs = [] → ∃ t, exec (.sliceEnd cl ten) s = .next t ∧ { t with slices := s.slices } = s
      ∧ ∀ c, t.slices.get 0 c = if c ∈ cs then s.time + s.sliceFor c (s.core c).tenant else s.slices.get 0 c)
    ∧ (∀ n, cs ≠ [] → s.waiters cs = [n] → ∃ t, exec (.sliceEnd cl ten) s = .next t
      ∧ ∀ c ∈ cs, (s.waitsFor n c = true → (t.core c).tenant = n ∧ t.preempts.get 0 (tcKey ten c) = s.preempts.get 0 (tcKey ten c) + 1)
          ∧ (s.waitsFor n c = false → (t.core c).tenant = ten)))
  ∧ (∀ (s : State) (c k : Nat),
    (960 ≤ c ∨ 16 ≤ k → exec (.saveRequest c k) s = .next s)
    ∧ (∀ ten, c < 960 → k < 16 → ten < 16 → (s.tenants.get none ten).isSome = true → (∀ n < 16, n ≠ ten → s.tenants.get none n = none) →
      let x := s.threads.get Thread.zero (thKey ten c k)
      ∃ t, exec (.saveRequest c k) s = .next t ∧ Claims.bytesPut s t (s.imageAt ten c k) x.ctx.image
        ∧ t.threads.get Thread.zero (thKey ten c k) = if (s.core c).tenant = ten then x else { x with saved := decide (x.ctx.run ≠ .free) }))
  ∧ (∀ (s : State) (cl : Nat) (r : BitVec 256),
    let bs := bytesOf 32 r.toNat
    let fine : Prop := fieldAt bs 9 7 = 0 ∧ fieldAt bs 24 8 = 0 ∧ fieldAt bs 8 1 ≤ 1
    let a := 0x400028 + cl * 0x10000
    ((s.services.find? (s.replyMatches cl bs) = none ∨ ¬ fine) → exec (.svcrep cl r) s
      = .next (s.setCtl a (BitVec.ofNat 64 (((s.ctlWord a).toNat + 1) % 2 ^ 32))))
    ∧ (∀ q, s.services.find? (s.replyMatches cl bs) = some q → fine → (∀ y, s.sym q.core q.sym = some y → ¬ Claims.awaits q y) →
      exec (.svcrep cl r) s = .next { s with services := s.services.filter (fun x => x != q) })
    ∧ (∀ q y, s.services.find? (s.replyMatches cl bs) = some q → fine → s.sym q.core q.sym = some y → Claims.awaits q y → y.state = .pending →
      (fieldAt bs 8 1 = 1 → ∃ t, exec (.svcrep cl r) s = .next t ∧ Claims.Poisoned s t q.core q.sym cSOFTWARE y
        ∧ t.services = s.services.filter (fun x => x != q))
      ∧ (fieldAt bs 8 1 = 0 → (s.core q.core).tenant ≠ y.ten ∨ (s.core q.core).halted = true →
        ∃ t, exec (.svcrep cl r) s = .next t ∧ t.services = s.services.filter (fun x => x != q)
          ∧ { t with syms := s.syms, services := s.services } = s
          ∧ ∀ j, t.syms.get none j = if j = q.core * 256 + q.sym then some { y with state := .value (fieldAt bs 16 8) } else s.syms.get none j)))
  ∧ (∀ (s : State) (cl : Nat) (seq : BitVec 32), ∃ t, exec (.svcrst cl seq) s = .next t
    ∧ t.services = s.services.filter (fun r => r.cl != cl)
    ∧ (∀ r ∈ s.services, r.cl = cl → ∀ y, s.sym r.core r.sym = some y → Claims.awaits r y → y.state = .pending →
        t.sym r.core r.sym = some { y with state := .poison cSOFTWARE })
    ∧ (s.svcq cl ≠ 0 → Claims.bytesPut s t (s.svcq cl) (bytesOf 8 seq.toNat ++ bytesOf 8 seq.toNat ++ bytesOf 8 seq.toNat)))

/-- The steps of the command processors: command packets; launches, slices, saves and service replies. -/
def Obligations.CommandProcessorSteps : Prop := Claims.CommandPackets ∧ Claims.LaunchesAndServices

/-! ### Steps of the package: boot, links, errors, debugging (17 R321 to R335; 18 R338 to R352; 19 R353 to R361; 20 R362 to R378) -/

/-- The package error ring has room (19 R356; log entry 10). -/
def Sys2Proof.Claims.errorRoom (s : State) : Prop :=
  (s.ctlWord 0x50018).toNat % 16 ≠ 0
  ∧ ((s.ctlWord 0x50000).toNat % 2 ^ 32 + 2 ^ 32 - (s.ctlWord 0x50008).toNat % 2 ^ 32) % 2 ^ 32 < 2 ^ ((s.ctlWord 0x50018).toNat % 16)

/-- From s to t an error was recorded, or counted as lost where the ring has no room, control core 0 of die 0 was told, and
nothing else came of it in memory (19 R356). -/
structure Sys2Proof.Claims.ErrorLogged (s t : State) (sev cls pos addr core cause thread : Nat) : Prop where
  told : t.irqs = s.irqs ++ [(1000, 2)]
  kept : Claims.errorRoom s → t.ctlWord 0x50000 = BitVec.ofNat 64 (((s.ctlWord 0x50000).toNat % 2 ^ 32 + 1) % 2 ^ 32)
    ∧ Claims.bytesPut s t ((s.ctlWord 0x50010).toNat + 32 * ((s.ctlWord 0x50000).toNat % 2 ^ 32 % 2 ^ ((s.ctlWord 0x50018).toNat % 16)))
      (bytesOf 4 ((s.ctlWord 0x50000).toNat % 2 ^ 32) ++ bytesOf 1 sev ++ bytesOf 1 cls ++ bytesOf 2 pos ++ bytesOf 8 addr ++ bytesOf 2 core
        ++ bytesOf 1 cause ++ bytesOf 1 thread ++ bytesOf 4 0 ++ bytesOf 8 s.time)
  lost : ¬ Claims.errorRoom s → t.ctlWord 0x50020 = s.ctlWord 0x50020 + 1 ∧ t.mem = s.mem

/-- Bits hi to lo of a system register became v, and its other bits stay. -/
def Sys2Proof.Claims.bitsSet (s t : State) (n hi lo v : Nat) : Prop := t.sysReg n = BitVec.ofNat 64 (setBits (s.sysReg n).toNat hi lo v)

/-- RESET_N released: fuse copies that disagree stop the boot with code 8, a die with no good position with code 1; else self-test
knows the good positions and training starts. A stack that fails training stops it with code 2, a flash error with code 7, an
invalid header with code 3, a refused image with its code. The body stands at its load address, where the header names one, before
the header is judged; of an image that is taken the measurements are extended, and the boot core's thread 0 starts at its entry.
GO, DONE, COMMIT, %ccrel and %measx act as their registers say: a committed map numbers the positions it lists, and %ccrel starts
control cores at %ccpc. STAGE follows a boot that has not stopped. A write that a register refuses changes nothing; a control-space word keeps the bits that its row defines. RESET_N asserted puts the package in reset with its
fuses, flash and straps (17 R321 to R335; 18 R340; 00 R8). Log entries 7, 8 and 53 name the model's choices. -/
def Sys2Proof.Claims.BootAndRegisters : Prop :=
  (∀ (s : State) (agree : Bool) (failed : List Nat),
    (s.phase ≠ .inReset → exec (.resetNRelease agree failed) s = .next s)
    ∧ (s.phase = .inReset → s.sysReg 0x317 = 0 → ∃ t, exec (.resetNRelease agree failed) s = .next t ∧ t.time = 0 ∧ t.mem = s.mem
      ∧ (agree = false → t.phase = .stopped ∧ bitsOf (t.sysReg 0x317).toNat 15 8 = 8 ∧ bitsOf (t.sysReg 0x317).toNat 3 0 = 1)
      ∧ (agree = true → (∀ p < 1024, t.good.get false p = (!s.fusedOff p && !failed.contains p)
          ∧ t.routers.get false p = !failed.contains (1024 + p))
        ∧ (if (List.range 4).any (fun d => (t.goodOf d).isEmpty) then t.phase = .stopped ∧ bitsOf (t.sysReg 0x317).toNat 15 8 = 1
            ∧ bitsOf (t.sysReg 0x317).toNat 3 0 = 2
          else t.phase = .training ∧ bitsOf (t.sysReg 0x317).toNat 3 0 = 3))))
  ∧ (∀ (s : State) (stack : Option Nat),
    (s.phase ≠ .training → exec (.hbmTrainingEnd stack) s = .next s)
    ∧ (∀ k, s.phase = .training → stack = some k → ∃ t, exec (.hbmTrainingEnd stack) s = .next t ∧ t.phase = .stopped
      ∧ bitsOf (t.sysReg 0x317).toNat 15 8 = 2 ∧ bitsOf (t.sysReg 0x317).toNat 23 16 = k % 16)
    ∧ (s.phase = .training → stack = none → s.replayMode = 0 →
      let e := Config.flashError s.freeCtr
      let h := s.flashBytes 0 512
      let body := s.flashBytes 512 (fieldAt h 16 8)
      let d := Config.sm3 (h.take 96 ++ body)
      let b := { s with logical := s.canonMap }.bootCore
      let stops (t : State) (k : Nat) : Prop := t.phase = .stopped ∧ bitsOf (t.sysReg 0x317).toNat 15 8 = k
      (s.core b).tenant = 16 → bitsOf (s.sysReg 0x317).toNat 15 8 = 0 → bitsOf (s.sysReg 0x317).toNat 3 0 ≤ 6 →
      ∃ t, exec (.hbmTrainingEnd stack) s = .next t
        ∧ (e = 0 → bodyNamed h = true → Claims.bytesPut s t (fieldAt h 8 8) body)
        ∧ if e ≠ 0 then stops t 7 ∧ t.mem = s.mem
          else if headerValid h = false then stops t 3 ∧ (bodyNamed h = false → t.mem = s.mem)
          else if s.imageCode h d ≠ 0 then stops t (s.imageCode h d)
          else t.phase = .running ∧ bitsOf (t.sysReg 0x317).toNat 3 0 = 6
            ∧ t.meas.get 0 0 = Config.sm3 (bytesOf 32 (s.meas.get 0 0).toNat ++ bytesOf 32 d.toNat)
            ∧ t.meas.get 0 1 = Config.sm3 (bytesOf 32 (s.meas.get 0 1).toNat ++ bytesOf 32 (Config.sm3 s.fuseBytes).toNat)
            ∧ (t.ctxOf (.core b 0)).pc = BitVec.ofNat 64 (fieldAt h 8 8 + fieldAt h 24 8)
            ∧ (t.ctxOf (.core b 0)).policy = 2 ∧ (t.ctxOf (.core b 0)).run = .ready))
  ∧ (∀ (s : State) (c : Nat),
    let may : Prop := s.isBootCore c = true ∧ s.meshBusy = false
    (may ∧ s.mapped = false → ∃ t, exec (.go c) s = .next t ∧ { t with sysRegs := s.sysRegs } = s ∧ Claims.bitsSet s t 0x311 1 1 1)
    ∧ (¬ (may ∧ s.mapped = false) → exec (.go c) s = .next s)
    ∧ (¬ may → exec (.commit c) s = .next s)
    ∧ (∀ i, may → i < 1024 → s.mapEntryOk s.mapTable i = false → (∀ j < i, s.mapEntryOk s.mapTable j = true) →
        ∃ t, exec (.commit c) s = .next t ∧ { t with sysRegs := s.sysRegs } = s ∧ bitsOf (t.sysReg 0x311).toNat 47 38 = i
          ∧ bitsOf (t.sysReg 0x311).toNat 3 3 = 1)
    ∧ (may → (∀ i < 1024, s.mapEntryOk s.mapTable i = true) → ∃ t, exec (.commit c) s = .next t ∧ t.mem = s.mem
        ∧ bitsOf (t.sysReg 0x311).toNat 3 2 = 1 ∧ t.bootCnt = some (bitsOf (s.sysReg 0x314).toNat 51 0)
        ∧ (bitsOf (s.sysReg 0x317).toNat 15 8 = 0 → bitsOf (s.sysReg 0x317).toNat 3 0 ≤ 7 → bitsOf (t.sysReg 0x317).toNat 3 0 = 7)
        ∧ (bitsOf (s.sysReg 0x317).toNat 15 8 ≠ 0 → t.sysReg 0x317 = s.sysReg 0x317)
        ∧ ∀ i < 1024, if s.mapTable.getD i 0xFFFF = 0xFFFF then t.logical.get none i = none ∨ t.omitted.get false i = true
            else t.logical.get none i = some (s.mapTable.getD i 0xFFFF)))
  ∧ (∀ (s : State), (s.meshBusy = false → exec .discoveryDone s = .next s)
    ∧ (s.meshBusy = true → ∃ t, exec .discoveryDone s = .next t ∧ bitsOf (t.sysReg 0x311).toNat 1 0 = 1
      ∧ Claims.bytesPut s t (bitsOf (s.sysReg 0x312).toNat 51 0) ((List.range 1024).flatMap (fun p => bytesOf 2 (s.floodRecord s.flood p)))))
  ∧ (∀ (s : State) (v : Word),
    (2 ^ 24 ≤ v.toNat ∨ s.mapped = false → exec (.ccrel v) s = .next s)
    ∧ (v.toNat < 2 ^ 24 → s.mapped = true → ∃ t, exec (.ccrel v) s = .next t
      ∧ { t with sysRegs := s.sysRegs, ccores := s.ccores } = s ∧ t.sysReg 0x315 = s.sysReg 0x315 ||| v
      ∧ (∀ n < 24, t.ccores.get none n = if v.getLsbD n = true ∧ (s.sysReg 0x315).getLsbD n = false then
          some { mmode := true, pc := s.sysReg 0x316, hartid := BitVec.ofNat 64 n, a0 := BitVec.ofNat 64 n, a1 := s.sysReg 0x313 }
          else s.ccores.get none n)
      ∧ (v ≠ 0 → bitsOf (s.sysReg 0x317).toNat 15 8 = 0 → bitsOf (s.sysReg 0x317).toNat 3 0 ≤ 8 → bitsOf (t.sysReg 0x317).toNat 3 0 = 8))
    ∧ (v.toNat % 8 < 2 ∨ bitsOf v.toNat 4 3 ≠ 0 ∨ 2 ^ 52 ≤ v.toNat → exec (.measx v) s = .next s)
    ∧ (2 ≤ v.toNat % 8 → bitsOf v.toNat 4 3 = 0 → v.toNat < 2 ^ 52 → ∃ t, exec (.measx v) s = .next t ∧ { t with meas := s.meas } = s
      ∧ ∀ n, t.meas.get 0 n = if n = v.toNat % 8 then
          Config.sm3 (bytesOf 32 (s.meas.get 0 n).toNat ++ s.homeBytes (bitsOf v.toNat 51 5 * 32) 32) else s.meas.get 0 n))
  ∧ (∀ (s : State) (off : Nat) (v : Word),
    (regMask off = 0 ∨ s.regIgnored off v.toNat = true → exec (.registerWrite off v) s = .next s)
    ∧ (regMask off ≠ 0 → s.regIgnored off v.toNat = false → ∃ t, exec (.registerWrite off v) s = .next t ∧ t.mem = s.mem
      ∧ (if 0x600000 ≤ off ∧ off < 0x678000 ∧ off % 0x1000 = 0x10 then (t.octet ((off - 0x600000) / 0x1000)).mewt = v.truncate 32 ∧ t.ctl = s.ctl
        else if 0x800100 ≤ off ∧ off < 0x800300 ∧ off % 32 = 16 then
          t.ctlWord off = BitVec.ofNat 64 (setBits (s.ctlWord off).toNat 15 8 (bitsOf v.toNat 15 8)) ∧ { t with ctl := s.ctl } = s
        else t.ctlWord off = v &&& BitVec.ofNat 64 (regMask off) ∧ { t with ctl := s.ctl } = s)))
  ∧ (∀ (s : State), ∃ t, exec .resetNAssert s = .next t ∧ t.phase = .inReset ∧ t.fuses = s.fuses ∧ t.flash = s.flash ∧ t.pkg = s.pkg
    ∧ t.replayMode = s.replayMode ∧ { t with schedule := [], freeCtr := 0, fuses := [], flash := [], sysRegs := [], ctl := [] } = State.reset)

/-- A port's write came last into the ingress of a die, in which nothing else changed; performed from an empty one, its bytes come
to stand at their homes (10 R228). -/
def Sys2Proof.Claims.arrived (s t : State) (die agent a : Nat) (bs : List Byte) : Prop :=
  t = { s with ingress := s.ingress.set [] die (s.ingress.get [] die ++ [Inflow.mk agent a bs]) }
  ∧ (s.ingress.get [] die = [] → (t.performInflow die 0).ingress.get [] die = [] ∧ Claims.bytesPut s (t.performInflow die 0) a bs)

/-- A report holds the nonce, the measurements, the version, the floor and the world table's digest, with its signature. Writes from
links and peers to device memory of their world enter the ingress of their die, an inbound write that is refused is raised, and a control
core's store reaches its home; a port
that goes down stays so, and a replayed flit is recorded as an error. Play passes the next entry of the log at its time. A wake latch
holds at most 16 writes and delivers them as interrupts (18 R338, R346 to R352; 20 R375). A step whose precondition does not hold leaves
the state; log entries 48 to 52 name the model's choices. -/
def Sys2Proof.Claims.HostSteps : Prop :=
  (∀ (s : State) (req : Nat),
    (req % 64 ≠ 0 ∨ s.phase ≠ .running → exec (.attestRequest req) s = .next s)
    ∧ (req % 64 = 0 → s.phase = .running →
      let body := s.homeBytes (req + 32) 32 ++ (List.range 8).flatMap (fun i => bytesOf 32 (s.meas.get 0 i).toNat)
        ++ (List.range 4).map (fun i => s.flash.get 0 (4 + i)) ++ bytesOf 4 s.floorCount ++ bytesOf 32 (Config.sm3 s.worldTable).toNat
      ∃ t, exec (.attestRequest req) s = .next t ∧ Claims.homesOnly s t
        ∧ Claims.bytesPut s t (s.homeNat req 8) (body ++ bytesOf 64 (Config.sm2Sign s.devSecret (Config.sm3 body)).toNat)))
  ∧ (∀ (s : State) (die a : Nat) (bs : List Byte) (secure : Bool),
    (4 ≤ die ∨ 512 < bs.length ∨ s.plays = true → exec (.inboundWrite die a bs secure) s = .next s)
    ∧ (die < 4 → bs.length ≤ 512 → s.replayMode = 0 → ∃ t, exec (.inboundWrite die a bs secure) s = .next t
      ∧ (if s.inboundOk a bs.length secure then Claims.arrived s t die (1200 + die) a bs
         else t = { s with irqs := s.irqs ++ [(1000 + die, 1)] })))
  ∧ (∀ (s : State) (port a : Nat) (bs : List Byte),
    (24 ≤ port ∨ s.plays = true → exec (.peerStoreArrival port a bs) s = .next s)
    ∧ (port < 24 → s.replayMode = 0 → ∃ t, exec (.peerStoreArrival port a bs) s = .next t
      ∧ (if s.regionOf a = .hbm ∧ s.inboundOk a bs.length (s.frameWorld a) = true then Claims.arrived s t (port / 6) (1228 + port) a bs
         else t = s)))
  ∧ (∀ (s : State) (cc a : Nat) (bs : List Byte),
    let may : Prop := cc < 24 ∧ (s.sysReg 0x315).getLsbD cc = true ∧ (s.regionOf a = .hbm ∨ s.regionOf a = .cxl) ∧ s.regionOf (a + bs.length) = s.regionOf a
    (¬ may → exec (.controlCoreStore cc a bs) s = .next s)
    ∧ (may → ∃ t, exec (.controlCoreStore cc a bs) s = .next t ∧ Claims.homesOnly s t ∧ Claims.bytesPut s t a bs))
  ∧ (∀ (s : State) (port : Nat),
    (24 ≤ port → exec (.portDown port) s = .next s ∧ exec (.flitReplay port) s = .next s)
    ∧ (port < 24 → exec (.portDown port) s = .next { s with portDown := s.portDown.set false port true }
      ∧ ∃ t, exec (.flitReplay port) s = .next t ∧ Claims.ErrorLogged s t 0 4 port 0 0xFFFF 0 0
        ∧ Claims.homesOnly s { t with ctl := s.ctl, irqs := s.irqs }))
  ∧ (∀ (s : State) (cc : Nat),
    (¬ (cc < 24 ∧ (s.sysReg 0x315).getLsbD cc = true) → exec (.entropyRead cc) s = .next s)
    ∧ (cc < 24 → (s.sysReg 0x315).getLsbD cc = true → s.replayMode = 0 → exec (.entropyRead cc) s = .next { s with freeCtr := s.freeCtr + 1 }))
  ∧ (∀ (s : State),
    let e := s.nextEntry
    let a := fieldAt e.2.2.2 0 8
    let bs := e.2.2.2.drop 8
    (s.plays = false → exec .logInject s = .next s)
    ∧ (s.plays = true → (s.time < e.1 ∨ e.2.1 = 0 ∨ 5 ≤ e.2.1) → e.2.1 ≠ 7 → exec .logInject s = .next s)
    ∧ (s.plays = true → e.2.1 = 7 → exec .logInject s = .next { s with replayPos := 2 ^ 32 })
    ∧ (s.plays = true → e.1 ≤ s.time → 1 ≤ e.2.1 → e.2.1 ≤ 4 → ∃ t, exec .logInject s = .next t
      ∧ t.replayPos = s.replayPos + 16 + (e.2.2.2.length + 15) / 16 * 16
      ∧ (e.2.1 ≤ 2 → s.inboundOk (a % 2 ^ 63) bs.length (a.testBit 63) = true →
          t.ingress.get [] e.2.2.1 = s.ingress.get [] e.2.2.1 ++ [Inflow.mk (1200 + e.2.2.1) (a % 2 ^ 63) bs])))
  ∧ (∀ (s : State) (dom a : Nat) (v : Word),
    (dom < 44 → (s.latches.get [] dom).length < 16 → exec (.latchWrite dom a v) s
        = .next { s with latches := s.latches.set [] dom (s.latches.get [] dom ++ [(a, v)]) })
    ∧ (44 ≤ dom ∨ 16 ≤ (s.latches.get [] dom).length → exec (.latchWrite dom a v) s = .next s)
    ∧ ∃ t, exec (.latchReplay dom) s = .next t ∧ t.latches.get [] dom = []
      ∧ t.irqs = s.irqs ++ (s.latches.get [] dom).map (fun w => (if dom < 24 then dom else (dom - 24) / 5 * 6 + (dom - 24) % 5, w.2.toNat % 2048))
      ∧ { t with latches := s.latches, irqs := s.irqs } = s)

/-- A launch that reaches its cluster's LIMIT is recorded and counted: the first time its threads take WATCHDOG, those that do not run
when they next do; the second time it ends. A cause lowers ACLK by a step, and without one for 100 µs it rises. Errors are recorded; an
uncorrectable one poisons its word or drops its tile or block; a fatal one stops the package. A core that fails is
replaced by its die's spare with its registers, or its number is dead and its launches end. A failed engine ends its jobs, a failed
copy unit its packets, but for a record whose page has to be mapped first (19 R353 to R361). A step whose precondition does not hold leaves the state; log entries 2, 8, 10 and 54 to 57
name the model's choices. -/
def Sys2Proof.Claims.ErrorSteps : Prop :=
  (∀ (s : State) (cl l : Nat),
    let k := 32 * l + cl
    (s.watchdogDue cl l = false → exec (.watchdogExpiry cl l) s = .next s)
    ∧ (s.watchdogDue cl l = true → ∃ t, exec (.watchdogExpiry cl l) s = .next t ∧ t.wdog.get 0 k = 0 ∧ t.wdogFired.get false k = true
      ∧ (s.wdogFired.get false k = true → ∃ x, t.launches.get none l = some x ∧ x.failed = some (cWATCHDOG, 0, 0, 0, 0))
      ∧ (∀ ten c j, s.wdogFired.get false k = false → s.launchThreads cl l = [(ten, c, j)] → (s.threadOf ten c j).launch = some l →
          (s.core c).tenant ≠ ten → t.threadOf ten c j = { s.threadOf ten c j with due := true })))
  ∧ (∀ (s : State) (die : Nat),
    let n := (s.ctlWord (0x60000 + 8 * die)).toNat
    let stepped := fun (v : Nat) (t : State) => t.ctlWord (0x60000 + 8 * die) = BitVec.ofNat 64 v ∧ t.thrLast.get 0 die = s.time
      ∧ { t with ctl := s.ctl, thrLast := s.thrLast } = s
    let raises : Prop := die < 4 ∧ s.thrCause.get false die = false ∧ 0 < n ∧ s.thrLast.get 0 die + 100000 ≤ s.time
    (4 ≤ die ∨ s.thrCause.get false die = false → exec (.throttleStep die) s = .next s)
    ∧ (s.replayMode = 0 → 12 ≤ n → exec (.throttleStep die) s = .next s)
    ∧ (die < 4 → s.thrCause.get false die = true → s.replayMode = 0 → n < 12 → ∃ t, exec (.throttleStep die) s = .next t ∧ stepped (n + 1) t)
    ∧ (raises → ∃ t, exec (.throttleRaise die) s = .next t ∧ stepped (n - 1) t) ∧ (¬ raises → exec (.throttleRaise die) s = .next s))
  ∧ (∀ (s : State) (w : Nat) (bad : Bool),
    (s.regionOf (8 * w) ≠ .hbm ∨ bad = false → exec (.scrubPass w bad) s = .next s)
    ∧ (s.regionOf (8 * w) = .hbm → bad = true → ∃ t, exec (.scrubPass w bad) s = .next t
      ∧ Claims.ErrorLogged { s with poison := s.poison.set false w true } t 1 2 (8 * w / 0xC00000000) (8 * w) 0xFFFF 0 0))
  ∧ (∀ (s : State) (cls pos : Nat),
    (5 ≤ cls → exec (.correctableError cls pos) s = .next s)
    ∧ (cls < 5 → s.replayMode = 0 →
      let core := if cls = 0 then s.coreAt pos else none
      ∃ t, exec (.correctableError cls pos) s = .next t
        ∧ Claims.ErrorLogged s t 0 cls pos 0 (match core with | some c => if c < 960 then c else 0xFFFF | none => 0xFFFF) 0 0
        ∧ ∀ c, core = some c → (t.core c).ctr.get 0 30 = (s.core c).ctr.get 0 30 + 1))
  ∧ (∀ (s : State),
    (∀ pa slice, let may : Prop := match slice with
        | some n => (s.regionOf pa = .hbm ∨ s.regionOf pa = .cxl) ∧ s.homedAt pa n = true
        | none => s.regionOf pa = .hbm
      (¬ may → exec (.uncorrectableError (.word pa slice)) s = .next s)
      ∧ (may → ∃ t, exec (.uncorrectableError (.word pa slice)) s = .next t
        ∧ Claims.ErrorLogged { s with poison := s.poison.set false (pa / 8) true } t 1 (if slice.isSome then 1 else 2)
            (match slice with | some n => n | none => pa / 0xC00000000) (pa / 8 * 8) 0xFFFF 0 0))
    ∧ (∀ l w, (s.l1.get none (l1Key l w) = none → exec (.uncorrectableError (.l1Word l w)) s = .next s)
      ∧ (∀ x, s.l1.get none (l1Key l w) = some x → ∃ t, exec (.uncorrectableError (.l1Word l w)) s = .next t
        ∧ Claims.ErrorLogged { s with l1 := s.l1.set none (l1Key l w) (some { x with poison := true }) } t 1 0
            ((s.logical.get none l).getD 0) (8 * w) (if l < 960 then l else 0xFFFF) 0 0))
    ∧ (∀ o k, o < 120 → ∃ t, exec (.uncorrectableError (.tile o k)) s = .next t ∧ (t.octet o).tiles.get none k = none)
    ∧ (∀ ten c off, c < 1024 → off < 2 ^ 18 → ∃ t, exec (.uncorrectableError (.scratch ten c off)) s = .next t
        ∧ t.spoison.get false (tcKey ten c * 2 ^ 15 + off / 8) = true)
    ∧ (∀ c b, c < 1024 → ∃ t, exec (.uncorrectableError (.icache c b)) s = .next t ∧ { t with icache := s.icache } = s
        ∧ ∀ w, w / 8 = b → t.icache.get none (icKey c w) = none))
  ∧ (∀ (s : State) (cls pos : Nat), ∃ t, exec (.fatalError cls pos) s = .next t ∧ t.fatal = true ∧ Claims.ErrorLogged s t 4 cls pos 0 0xFFFF 0 0)
  ∧ (∀ (s : State) (c : Nat) (lost : List Nat),
    (s.phase ≠ .running ∨ s.logical.get none c = none ∨ (s.core c).failed = true → exec (.coreFailed c lost) s = .next s)
    ∧ (s.phase = .running → (s.logical.get none c).isSome = true → (s.core c).failed = false →
      (960 ≤ c → ∃ t, exec (.coreFailed c lost) s = .next t ∧ (t.core c).failed = true ∧ t.logical.get none c = none)
      ∧ (∀ e, c < 960 → s.spareOf (dieOfCore c) = some e → lost = [] →
        ∃ t, exec (.coreFailed c lost) s = .next t ∧ t.logical.get none c = s.logical.get none e ∧ t.logical.get none e = none
          ∧ (∀ k < 16, (s.thread c k).ctx.run ≠ .waitLate → t.ctxOf (.core c k) = s.ctxOf (.core c k))
          ∧ (∀ w < 2 ^ 49, t.l1.get none (l1Key c w) = none))
      ∧ (c < 960 → s.spareOf (dieOfCore c) = none → ∃ t, exec (.coreFailed c lost) s = .next t ∧ (t.core c).failed = true
          ∧ ∀ l ∈ s.launchesHeld c, ∀ x, s.launches.get none l = some x → ∃ y, t.launches.get none l = some y ∧ y.failed.isSome = true)))
  ∧ (∀ (s : State) (o : Nat) (cu : Bool),
    (120 ≤ o → exec (.engineFailed o cu) s = .next s)
    ∧ (o < 120 → ∃ t, exec (.engineFailed o cu) s = .next t
      ∧ (cu = false → (t.octet o).meFailed = true ∧ ∀ q < 8, (t.octet o).queues.get [] q = [])
      ∧ (cu = true → (t.octet o).cuFailed = true ∧ ∀ ch < 8, (t.octet o).chans.get none ch = none
          ∨ ∃ r, (t.octet o).chans.get none ch = some r ∧ r.ending = some 2)))

/-- HALT stops the cores, engines and copy units of the partition, but the boot core while debug is locked; RESUME restarts them. A slate
pulse chooses an instant 1 µs ahead, and its record is written then. A session opens where no other names its queue and clears LOST, and
closes with its last record. A reel that records takes a checkpoint once its period has passed and no job of the tenant runs, or
ends where its area is full (20 R362 to R370, R372, R373, R376). RESUME is stated where no work waits; log entries 1, 12 and 40 name the
model's choices. -/
def Sys2Proof.Claims.DebugSteps : Prop :=
  (∀ (s : State), ∃ t, exec .halt s = .next t
    ∧ (∀ o ∈ s.partition, ∀ j < 8, s.lockedCore ≠ some (8 * o + j) → (t.core (8 * o + j)).halted = true)
    ∧ (∀ o ∈ s.partition, (t.octet o).halted = true)
    ∧ (s.lockedCore = none → (t.ctlWord 0x800018).getLsbD 0 = true))
  ∧ (∀ (s : State), s.net = [] → s.msgs = [] → s.deques = [] → s.spills = [] → (∀ e ∈ s.threads, e.2.due = false) →
    ∃ t, exec .resume s = .next t ∧ (∀ c, (t.core c).halted = false) ∧ (∀ o, (t.octet o).halted = false) ∧ t.mem = s.mem)
  ∧ (∀ (s : State),
    (s.slate.isSome = true → exec .slate s = .next s)
    ∧ (s.slate = none → ∃ t, exec .slate s = .next t ∧ t.slate = some (s.time + 1000)
      ∧ t.ctlWord 0x800018 = BitVec.ofNat 64 (setBits (s.ctlWord 0x800018).toNat 2 2 0) ∧ { t with slate := none, ctl := s.ctl } = s)
    ∧ (s.slate = none ∨ (∃ ts, s.slate = some ts ∧ s.time < ts) → exec .slateLatch s = .next s)
    ∧ (∀ ts, s.slate = some ts → ts ≤ s.time → ∃ t, exec .slateLatch s = .next t ∧ t.slate = none
      ∧ Claims.bytesPut s t (bitsOf (s.ctlWord 0x800028).toNat 51 6 * 64) (s.slateRecord ts)
      ∧ t.ctlWord 0x800018 = BitVec.ofNat 64 (setBits (s.ctlWord 0x800018).toNat 2 2 1)))
  ∧ (∀ (s : State) (n : Nat),
    let w := s.sessWord n 2
    let opens : Prop := n < 16 ∧ w.testBit 0 = false ∧ ∀ k < 16, k ≠ n → s.sessWord k 0 = s.sessWord n 0 → (s.sessWord k 2).testBit 0 = false
    (¬ opens → exec (.sessionOpen n) s = .next s)
    ∧ (opens → ∃ t, exec (.sessionOpen n) s = .next t ∧ t.sessWord n 2 = setBits w 0 0 1 ∧ t.sessWord n 3 = 0 ∧ { t with ctl := s.ctl } = s)
    ∧ (16 ≤ n ∨ w.testBit 0 = false → exec (.sessionClose n) s = .next s)
    ∧ (n < 16 → w.testBit 0 = true → ∃ t, exec (.sessionClose n) s = .next t ∧ (t.sessWord n 2).testBit 0 = false))
  ∧ (∀ (s : State) (i : Nat),
    (s.reels[i]? = none → exec (.checkpoint i) s = .next s)
    ∧ (∀ r, s.reels[i]? = some r →
      let due : Prop := r.mode = 1 ∧ r.last + s.reelPeriod r ≤ s.time ∧ s.tenantBusy r.ten = false
      (¬ due → exec (.checkpoint i) s = .next s)
      ∧ (due → ∃ t x, exec (.checkpoint i) s = .next t ∧ t.reels[i]? = some x
        ∧ (x.mode = 3 ∨ x.last = s.time ∧ x.snaps.length = r.snaps.length + 1))))

/-- The steps of boot, of the mesh registers and of control space, and those from outside the package. -/
def Obligations.PackageSteps : Prop := Claims.BootAndRegisters ∧ Claims.HostSteps

/-- The steps of errors and failures, and of the debug block. -/
def Obligations.ErrorAndDebugSteps : Prop := Claims.ErrorSteps ∧ Claims.DebugSteps

/-! ### Reset, decoding and the step (00 R3, R8; 04 R67 to R83; 17 R321; 19 R356) -/

/-- Right after reset the package is in reset at time 0 with no map, no control core released, no halt and zero measurements; every hart is FREE with the registers
of 02 R27 and R29, every engine has equal weights and write pointers at 0, and memory is in canonical form (02 R27, R29; 12 R245, R258;
17 R321, R325, R329; 20 R362). What the spec leaves open of it is named by log entries 3 to 5. -/
def Obligations.ResetState : Prop :=
  State.reset.phase = .inReset ∧ State.reset.time = 0 ∧ State.reset.fatal = false ∧ Safety.MemoryCanonical State.reset
  ∧ (∀ h, State.reset.ctxOf h = Ctx.zero) ∧ (Ctx.zero.fmt = 2 ∧ Ctx.zero.rm = 0 ∧ Ctx.zero.flags = 0 ∧ Ctx.zero.run = .free ∧ Ctx.zero.pc = 0
      ∧ ∀ n, Ctx.zero.s.get 0 n = 0 ∧ Ctx.zero.v.get 0 n = 0)
  ∧ (∀ n, State.reset.sysReg n = 0) ∧ (∀ off, State.reset.ctlWord off = 0) ∧ (∀ n, State.reset.meas.get 0 n = 0)
  ∧ (∀ o, (State.reset.octet o).mewt = 0x11111111 ∧ (∀ c, (State.reset.octet o).wp.get 0 c = 0) ∧ (∀ q, (State.reset.octet o).queues.get [] q = [])
      ∧ (State.reset.octet o).halted = false)
  ∧ (∀ c, State.reset.logical.get none c = none) ∧ (∀ n, State.reset.ccores.get none n = none) ∧ (∀ d, State.reset.ingress.get [] d = [])
  ∧ ∀ a, State.reset.homeByte a = 0

/-- Words written out from the encodings of the spec decode to the instructions that they stand for (04 R72 to R75). -/
def Obligations.DecodeWords : Prop :=
  decode 0x204400000000000000000002 = .ok (.br ⟨⟨true, 1⟩, 0, 0, .none, 2⟩)
  ∧ decode 0x818000000100061000460008 = .ok (.st ⟨⟨false, 0⟩, 0, 0, .s 6, .s 4, .imm 8⟩)
  ∧ decode 0x150001203100071000200000 = .ok (.bfx ⟨⟨false, 0⟩, 0, 0x1203, .s 7, .s 2, .none⟩)
  ∧ decode 0x588800A60200052000610007 = .ok (.vfadd ⟨⟨false, 2⟩, 0, 0xA60, .v 5, .v 6, .s 7⟩)
  ∧ decode 0xC09400030100072000900000 = .ok (.memm ⟨⟨false, 5⟩, 0, 0x30, .s 7, .v 9, .none⟩)
  ∧ decode 0xB800000001000A1000400000 = .ok (.lnfork ⟨⟨false, 0⟩, 0, 0, .s 10, .s 4, .none⟩)

/-- Decoding the word of a well-formed instruction gives the instruction back, with every operand at every value (04 R72 to R83). -/
def Obligations.DecodeEncode : Prop := ∀ (i : Instr) (w : BitVec 96), i.wf = true → encode i = some w → decode w = .ok i

/-- From s to u a core thread fetched: translations, its core's instruction cache and event counts may have changed. -/
def Sys2Proof.Claims.FetchedBy (s u : State) : Prop :=
  { u with threads := s.threads, cores := s.cores, icache := s.icache, tlb := s.tlb, schedule := s.schedule } = s
  ∧ ∀ g, validHart g = true → u.ctxOf g = s.ctxOf g

/-- The next step is the turn of hart h, which issues in the state s1: with an empty schedule the hart `hart`; with a turn of its own
an engine hart; and a core thread that its core chooses for a slot, whose starvation count is then the chosen one (09 R207). -/
def Sys2Proof.Claims.turnOf (s : State) (h : HartId) (s1 : State) : Prop :=
  s.fatal = false ∧ (s.schedule = [] ∧ s.hart = h ∧ s1 = s
    ∨ (∃ rest held, (s.schedule = .issue h :: rest ∧ held = false ∨ s.schedule = .caught h :: rest ∧ held = true) ∧ isCore h = false
        ∧ s1 = { s with schedule := rest, caught := held, hart := h })
    ∨ ∃ rest held c k vec n, h = .core c k ∧ s1 = { ({ s with schedule := rest, caught := held } : State).setStarved c vec n with hart := h }
        ∧ ((s.schedule = .issue h :: rest ∧ held = false ∨ s.schedule = .caught h :: rest ∧ held = true)
              ∧ ({ s with schedule := rest, caught := held } : State).slotOf c k = some (vec, n)
          ∨ s.schedule = .slot c vec :: rest ∧ held = false ∧ ({ s with schedule := rest, caught := held } : State).choose c vec = some (k, n)))

/-- A step runs the decoded instruction. Where the block at the pc of a hart that may issue holds a word that decodes to i in the pc's
slot and a zero block word, the step is exec of i, with event counts added, on a core thread (its page executable, RAW device
memory, its instruction cache holding no other words) and on an engine hart (its block in HBM or CXL memory). A thread with a containment
to complete goes on with it; a thread that its core does not choose, and a slot without a candidate, run nothing. The turn of
another agent is exec of its row. No reel is open. After FATAL_ERROR nothing moves but a reset (04 R67, R68, R71, R82; 09 R207, R215;
12 R245; 19 R356; log entries 1, 116). -/
def Obligations.StepRunsDecoded : Prop :=
  (∀ (s : State) (h : HartId) (s1 : State), Claims.turnOf s h s1 → s1.canIssue h = true →
    ∀ c k p, s1.pendOf h = some (c, k, p) → step s = .next (s1.finishTrap c k p))
  ∧ (∀ (s : State) (c k : Nat) (rest : List Turn), s.fatal = false → s.schedule = .issue (.core c k) :: rest →
    let s0 : State := { s with schedule := rest, caught := false }
    s0.slotOf c k = none → step s = .next s0)
  ∧ (∀ (s : State) (c : Nat) (vec : Bool) (rest : List Turn), s.fatal = false → s.schedule = .slot c vec :: rest →
    let s0 : State := { s with schedule := rest, caught := false }
    s0.choose c vec = none → step s = .next (s0.setStarved c vec 0))
  ∧ (∀ (s : State) (h : HartId) (s1 : State), Claims.turnOf s h s1 →
    s1.canIssue h = true → s1.pendOf h = none → s1.breakAt h = none → s.reels = [] →
    let pc := (s.ctxOf h).pc.toNat
    (∀ c k pa pg i w, h = .core c k → validHart h = true → pc < 2 ^ 48 → pc % 64 < 5 →
      (s1.locate h (s.core c).tenant (pc / 64 * 64)).2 = some (.dev pa, pg) → s.regionOf pa = .hbm ∨ s.regionOf pa = .cxl → pg.home ≠ 3 →
      ((s.core c).tenant = 16 ∨ pg.s = s.frameWorld pa) → pg.x = true → pg.fmt = 0 → pa % 64 = 0 → s.homePoisoned pa 64 = false →
      (∀ j < 8, ∀ x, s.icache.get none (icKey c (pa / 8 + j)) = some x → x = s.homeWord (pa / 8 + j)) →
      w = BitVec.ofNat 96 (s.homeNat (pa + 12 * (pc % 64)) 12) → s.homeNat (pa + 60) 4 = 0 → decode w = .ok i →
      (assigned (opOf w) = true → legalOn .core (opOf w) = true) →
      ∃ u, Claims.FetchedBy s1 u ∧ u.hart = h ∧ ∀ t, exec i u = .next t → step s = .next (t.account u h))
    ∧ (∀ i w, isCore h = false → pc % 64 < 5 → s.regionOf (pc / 64 * 64) = .hbm ∨ s.regionOf (pc / 64 * 64) = .cxl →
      s.homePoisoned (pc / 64 * 64) 64 = false → w = BitVec.ofNat 96 (s.homeNat (pc / 64 * 64 + 12 * (pc % 64)) 12) →
      s.homeNat (pc / 64 * 64 + 60) 4 = 0 → decode w = .ok i → (assigned (opOf w) = true → legalOn h.kind (opOf w) = true) →
      step s = exec i s1))
  ∧ (∀ (t u : State) (h : HartId), { t.account u h with threads := t.threads, cores := t.cores } = t
    ∧ ∀ g, validHart h = true → validHart g = true → (t.account u h).ctxOf g = t.ctxOf g)
  ∧ (∀ (s : State) (i : Instr) (rest : List Turn), s.fatal = false → s.reels = [] → s.schedule = .event i :: rest → isEvent i = true →
    step s = exec i { s with schedule := rest, caught := false })
  ∧ (∀ (s : State), s.fatal = true →
    (s.schedule = [] → step s = .fault .fatal)
    ∧ (∀ turn rest, s.schedule = turn :: rest → turn ≠ .event .resetNAssert → step s = .next { s with schedule := rest, caught := false })
    ∧ (∀ rest, s.schedule = .event .resetNAssert :: rest → step s = exec .resetNAssert { s with schedule := rest, caught := false }))

/-- Every step keeps memory in its canonical form: addresses rise, and no entry holds what an unlisted address reads as. -/
def Obligations.MemoryStaysCanonical : Prop :=
  ∀ (s t : State), Safety.MemoryCanonical s → step s = .next t → Safety.MemoryCanonical t
end

