-- ==== Sys2Proof/Laws/Maps.lean ====
section
/-! SUPPORT. The sparse maps: reading after writing, and the canonical form that every write keeps. -/

namespace Sys2Proof.SMap

variable {α : Type}

@[simp] theorem get_nil (d : α) (k : Nat) : get d [] k = d := rfl

theorem get_del (d : α) (m : SMap α) (k j : Nat) : get d (del m k) j = if j = k then d else get d m j := by
  induction m with
  | nil => simp [del]
  | cons e r ih =>
    obtain ⟨i, v⟩ := e
    by_cases hk : k = i
    · subst hk
      by_cases hj : j = k
      · subst hj; simpa [del] using ih
      · simp [del, get, ih, hj]
    · by_cases hj : j = i
      · subst hj; simp [del, get, hk, Ne.symm hk]
      · simp [del, get, hk, hj, ih]

theorem get_put (d : α) (m : SMap α) (k j : Nat) (v : α) : get d (put m k v) j = if j = k then v else get d m j := by
  induction m with
  | nil => simp [put, get]
  | cons e r ih =>
    obtain ⟨i, w⟩ := e
    simp only [put]
    split
    · simp only [get]
    · split
      · rename_i h; subst h; by_cases hj : j = k <;> simp [get, hj]
      · rename_i h1 h2
        by_cases hj : j = i
        · subst hj; simp [get, Ne.symm h2]
        · simp [get, hj, ih]

variable [DecidableEq α]

/-- A read after a write: the value written at the key, what was there before elsewhere. -/
theorem get_set (d : α) (m : SMap α) (k j : Nat) (v : α) : get d (set d m k v) j = if j = k then v else get d m j := by
  unfold set
  split
  · rename_i h; simp [get_del, h]
  · exact get_put d m k j v

@[simp] theorem get_set_self (d : α) (m : SMap α) (k : Nat) (v : α) : get d (set d m k v) k = v := by simp [get_set]

theorem get_set_ne (d : α) (m : SMap α) {k j : Nat} (v : α) (h : j ≠ k) : get d (set d m k v) j = get d m j := by
  simp [get_set, h]

omit [DecidableEq α] in
theorem del_of_lt_head (m : SMap α) (k : Nat) (h : ∀ e ∈ m, k < e.1) : del m k = m := by
  induction m with
  | nil => rfl
  | cons e r ih =>
    obtain ⟨i, v⟩ := e
    have : k ≠ i := Nat.ne_of_lt (h (i, v) (by simp))
    simp [del, this, ih (fun e he => h e (by simp [he]))]

theorem wfAbove_weaken (d : α) {m : SMap α} {a b : Nat} (hab : a ≤ b) (h : wfAbove d (some b) m = true) :
    wfAbove d (some a) m = true := by
  cases m with
  | nil => rfl
  | cons e r =>
    obtain ⟨i, v⟩ := e
    simp only [wfAbove, Bool.and_eq_true, decide_eq_true_eq] at h ⊢
    exact ⟨⟨Nat.lt_of_le_of_lt hab h.1.1, h.1.2⟩, h.2⟩

theorem wfAbove_none (d : α) {m : SMap α} {a : Nat} (h : wfAbove d (some a) m = true) : wfAbove d none m = true := by
  cases m with
  | nil => rfl
  | cons e r =>
    obtain ⟨i, v⟩ := e
    simp only [wfAbove, Bool.and_eq_true, decide_eq_true_eq] at h ⊢
    exact ⟨⟨trivial, h.1.2⟩, h.2⟩

theorem wfAbove_del (d : α) (m : SMap α) (lo : Option Nat) (k : Nat) (h : wfAbove d lo m = true) :
    wfAbove d lo (del m k) = true := by
  induction m generalizing lo with
  | nil => rfl
  | cons e r ih =>
    obtain ⟨i, v⟩ := e
    simp only [wfAbove, Bool.and_eq_true] at h
    simp only [del]
    split
    · cases lo with
      | none => exact ih none (wfAbove_none d h.2)
      | some l =>
        exact ih _ (wfAbove_weaken d (Nat.le_of_lt (by simpa using h.1.1)) h.2)
    · simp only [wfAbove, Bool.and_eq_true]
      exact ⟨h.1, ih _ h.2⟩

theorem wfAbove_put (d : α) (m : SMap α) (lo : Option Nat) (k : Nat) (v : α) (hv : v ≠ d)
    (hlo : ∀ l, lo = some l → l < k) (h : wfAbove d lo m = true) : wfAbove d lo (put m k v) = true := by
  induction m generalizing lo with
  | nil => cases lo <;> simp_all [put, wfAbove]
  | cons e r ih =>
    obtain ⟨i, w⟩ := e
    have h' := h
    simp only [wfAbove, Bool.and_eq_true] at h'
    simp only [put]
    split
    · rename_i hki
      simp only [wfAbove, Bool.and_eq_true]
      exact ⟨⟨by cases lo <;> simp_all, by simpa using hv⟩, ⟨⟨by simpa using hki, h'.1.2⟩, h'.2⟩⟩
    · split
      · rename_i hki; subst hki
        simp only [wfAbove, Bool.and_eq_true]
        exact ⟨⟨by cases lo <;> simp_all, by simpa using hv⟩, h'.2⟩
      · rename_i h1 h2
        simp only [wfAbove, Bool.and_eq_true]
        have hik : i < k := by omega
        exact ⟨h'.1, ih (some i) (by intro l hl; cases hl; exact hik) h'.2⟩

/-- A write keeps the canonical form. -/
theorem wf_set (d : α) (m : SMap α) (k : Nat) (v : α) (h : wf d m = true) : wf d (set d m k v) = true := by
  unfold set
  split
  · exact wfAbove_del d m none k h
  · rename_i hv; exact wfAbove_put d m none k v hv (by intro l hl; cases hl) h

@[simp] theorem wf_nil (d : α) : wf d ([] : SMap α) = true := rfl

end Sys2Proof.SMap
end

