-- ==== Sys2Proof/Laws/State.lean ====
section
/-! SUPPORT. What each named update of the state leaves, field by field, and what the records read after it. -/

namespace Sys2Proof.Machine

variable (s : State)

/-! ### setCore -/

@[simp] theorem State.setCore_schedule (c : Nat) (x : Core) : (s.setCore c x).schedule = s.schedule := rfl
@[simp] theorem State.setCore_hart (c : Nat) (x : Core) : (s.setCore c x).hart = s.hart := rfl
@[simp] theorem State.setCore_freeCtr (c : Nat) (x : Core) : (s.setCore c x).freeCtr = s.freeCtr := rfl
@[simp] theorem State.setCore_caught (c : Nat) (x : Core) : (s.setCore c x).caught = s.caught := rfl
@[simp] theorem State.setCore_time (c : Nat) (x : Core) : (s.setCore c x).time = s.time := rfl
@[simp] theorem State.setCore_aclk (c : Nat) (x : Core) : (s.setCore c x).aclk = s.aclk := rfl
@[simp] theorem State.setCore_phase (c : Nat) (x : Core) : (s.setCore c x).phase = s.phase := rfl
@[simp] theorem State.setCore_threads (c : Nat) (x : Core) : (s.setCore c x).threads = s.threads := rfl
@[simp] theorem State.setCore_deques (c : Nat) (x : Core) : (s.setCore c x).deques = s.deques := rfl
@[simp] theorem State.setCore_spills (c : Nat) (x : Core) : (s.setCore c x).spills = s.spills := rfl
@[simp] theorem State.setCore_msgs (c : Nat) (x : Core) : (s.setCore c x).msgs = s.msgs := rfl
@[simp] theorem State.setCore_tags (c : Nat) (x : Core) : (s.setCore c x).tags = s.tags := rfl
@[simp] theorem State.setCore_chans (c : Nat) (x : Core) : (s.setCore c x).chans = s.chans := rfl
@[simp] theorem State.setCore_claims (c : Nat) (x : Core) : (s.setCore c x).claims = s.claims := rfl
@[simp] theorem State.setCore_bindings (c : Nat) (x : Core) : (s.setCore c x).bindings = s.bindings := rfl
@[simp] theorem State.setCore_preempts (c : Nat) (x : Core) : (s.setCore c x).preempts = s.preempts := rfl
@[simp] theorem State.setCore_undeliv (c : Nat) (x : Core) : (s.setCore c x).undeliv = s.undeliv := rfl
@[simp] theorem State.setCore_syms (c : Nat) (x : Core) : (s.setCore c x).syms = s.syms := rfl
@[simp] theorem State.setCore_l1 (c : Nat) (x : Core) : (s.setCore c x).l1 = s.l1 := rfl
@[simp] theorem State.setCore_icache (c : Nat) (x : Core) : (s.setCore c x).icache = s.icache := rfl
@[simp] theorem State.setCore_tlb (c : Nat) (x : Core) : (s.setCore c x).tlb = s.tlb := rfl
@[simp] theorem State.setCore_mem (c : Nat) (x : Core) : (s.setCore c x).mem = s.mem := rfl
@[simp] theorem State.setCore_poison (c : Nat) (x : Core) : (s.setCore c x).poison = s.poison := rfl
@[simp] theorem State.setCore_owner (c : Nat) (x : Core) : (s.setCore c x).owner = s.owner := rfl
@[simp] theorem State.setCore_scratch (c : Nat) (x : Core) : (s.setCore c x).scratch = s.scratch := rfl
@[simp] theorem State.setCore_spoison (c : Nat) (x : Core) : (s.setCore c x).spoison = s.spoison := rfl
@[simp] theorem State.setCore_resident (c : Nat) (x : Core) : (s.setCore c x).resident = s.resident := rfl
@[simp] theorem State.setCore_pins (c : Nat) (x : Core) : (s.setCore c x).pins = s.pins := rfl
@[simp] theorem State.setCore_octets (c : Nat) (x : Core) : (s.setCore c x).octets = s.octets := rfl
@[simp] theorem State.setCore_clflags (c : Nat) (x : Core) : (s.setCore c x).clflags = s.clflags := rfl
@[simp] theorem State.setCore_faults (c : Nat) (x : Core) : (s.setCore c x).faults = s.faults := rfl
@[simp] theorem State.setCore_services (c : Nat) (x : Core) : (s.setCore c x).services = s.services := rfl
@[simp] theorem State.setCore_fused (c : Nat) (x : Core) : (s.setCore c x).fused = s.fused := rfl
@[simp] theorem State.setCore_wdog (c : Nat) (x : Core) : (s.setCore c x).wdog = s.wdog := rfl
@[simp] theorem State.setCore_wdogFired (c : Nat) (x : Core) : (s.setCore c x).wdogFired = s.wdogFired := rfl
@[simp] theorem State.setCore_takes (c : Nat) (x : Core) : (s.setCore c x).takes = s.takes := rfl
@[simp] theorem State.setCore_takeBusy (c : Nat) (x : Core) : (s.setCore c x).takeBusy = s.takeBusy := rfl
@[simp] theorem State.setCore_transoms (c : Nat) (x : Core) : (s.setCore c x).transoms = s.transoms := rfl
@[simp] theorem State.setCore_chunks (c : Nat) (x : Core) : (s.setCore c x).chunks = s.chunks := rfl
@[simp] theorem State.setCore_tenants (c : Nat) (x : Core) : (s.setCore c x).tenants = s.tenants := rfl
@[simp] theorem State.setCore_launches (c : Nat) (x : Core) : (s.setCore c x).launches = s.launches := rfl
@[simp] theorem State.setCore_nextLaunch (c : Nat) (x : Core) : (s.setCore c x).nextLaunch = s.nextLaunch := rfl
@[simp] theorem State.setCore_posted (c : Nat) (x : Core) : (s.setCore c x).posted = s.posted := rfl
@[simp] theorem State.setCore_queues (c : Nat) (x : Core) : (s.setCore c x).queues = s.queues := rfl
@[simp] theorem State.setCore_cpTurn (c : Nat) (x : Core) : (s.setCore c x).cpTurn = s.cpTurn := rfl
@[simp] theorem State.setCore_hazards (c : Nat) (x : Core) : (s.setCore c x).hazards = s.hazards := rfl
@[simp] theorem State.setCore_slices (c : Nat) (x : Core) : (s.setCore c x).slices = s.slices := rfl
@[simp] theorem State.setCore_lastSlice (c : Nat) (x : Core) : (s.setCore c x).lastSlice = s.lastSlice := rfl
@[simp] theorem State.setCore_lnJobs (c : Nat) (x : Core) : (s.setCore c x).lnJobs = s.lnJobs := rfl
@[simp] theorem State.setCore_net (c : Nat) (x : Core) : (s.setCore c x).net = s.net := rfl
@[simp] theorem State.setCore_ingress (c : Nat) (x : Core) : (s.setCore c x).ingress = s.ingress := rfl
@[simp] theorem State.setCore_ccores (c : Nat) (x : Core) : (s.setCore c x).ccores = s.ccores := rfl
@[simp] theorem State.setCore_bootCnt (c : Nat) (x : Core) : (s.setCore c x).bootCnt = s.bootCnt := rfl
@[simp] theorem State.setCore_attns (c : Nat) (x : Core) : (s.setCore c x).attns = s.attns := rfl
@[simp] theorem State.setCore_irqs (c : Nat) (x : Core) : (s.setCore c x).irqs = s.irqs := rfl
@[simp] theorem State.setCore_latches (c : Nat) (x : Core) : (s.setCore c x).latches = s.latches := rfl
@[simp] theorem State.setCore_portDown (c : Nat) (x : Core) : (s.setCore c x).portDown = s.portDown := rfl
@[simp] theorem State.setCore_peerStores (c : Nat) (x : Core) : (s.setCore c x).peerStores = s.peerStores := rfl
@[simp] theorem State.setCore_thrCause (c : Nat) (x : Core) : (s.setCore c x).thrCause = s.thrCause := rfl
@[simp] theorem State.setCore_thrLast (c : Nat) (x : Core) : (s.setCore c x).thrLast = s.thrLast := rfl
@[simp] theorem State.setCore_ctl (c : Nat) (x : Core) : (s.setCore c x).ctl = s.ctl := rfl
@[simp] theorem State.setCore_sysRegs (c : Nat) (x : Core) : (s.setCore c x).sysRegs = s.sysRegs := rfl
@[simp] theorem State.setCore_fuses (c : Nat) (x : Core) : (s.setCore c x).fuses = s.fuses := rfl
@[simp] theorem State.setCore_flash (c : Nat) (x : Core) : (s.setCore c x).flash = s.flash := rfl
@[simp] theorem State.setCore_good (c : Nat) (x : Core) : (s.setCore c x).good = s.good := rfl
@[simp] theorem State.setCore_routers (c : Nat) (x : Core) : (s.setCore c x).routers = s.routers := rfl
@[simp] theorem State.setCore_logical (c : Nat) (x : Core) : (s.setCore c x).logical = s.logical := rfl
@[simp] theorem State.setCore_omitted (c : Nat) (x : Core) : (s.setCore c x).omitted = s.omitted := rfl
@[simp] theorem State.setCore_meas (c : Nat) (x : Core) : (s.setCore c x).meas = s.meas := rfl
@[simp] theorem State.setCore_traceBuf (c : Nat) (x : Core) : (s.setCore c x).traceBuf = s.traceBuf := rfl
@[simp] theorem State.setCore_slate (c : Nat) (x : Core) : (s.setCore c x).slate = s.slate := rfl
@[simp] theorem State.setCore_reels (c : Nat) (x : Core) : (s.setCore c x).reels = s.reels := rfl
@[simp] theorem State.setCore_replayPos (c : Nat) (x : Core) : (s.setCore c x).replayPos = s.replayPos := rfl
@[simp] theorem State.setCore_fatal (c : Nat) (x : Core) : (s.setCore c x).fatal = s.fatal := rfl

/-! ### setThread -/

@[simp] theorem State.setThread_schedule (c t : Nat) (x : Thread) : (s.setThread c t x).schedule = s.schedule := rfl
@[simp] theorem State.setThread_hart (c t : Nat) (x : Thread) : (s.setThread c t x).hart = s.hart := rfl
@[simp] theorem State.setThread_freeCtr (c t : Nat) (x : Thread) : (s.setThread c t x).freeCtr = s.freeCtr := rfl
@[simp] theorem State.setThread_caught (c t : Nat) (x : Thread) : (s.setThread c t x).caught = s.caught := rfl
@[simp] theorem State.setThread_time (c t : Nat) (x : Thread) : (s.setThread c t x).time = s.time := rfl
@[simp] theorem State.setThread_aclk (c t : Nat) (x : Thread) : (s.setThread c t x).aclk = s.aclk := rfl
@[simp] theorem State.setThread_phase (c t : Nat) (x : Thread) : (s.setThread c t x).phase = s.phase := rfl
@[simp] theorem State.setThread_cores (c t : Nat) (x : Thread) : (s.setThread c t x).cores = s.cores := rfl
@[simp] theorem State.setThread_deques (c t : Nat) (x : Thread) : (s.setThread c t x).deques = s.deques := rfl
@[simp] theorem State.setThread_spills (c t : Nat) (x : Thread) : (s.setThread c t x).spills = s.spills := rfl
@[simp] theorem State.setThread_msgs (c t : Nat) (x : Thread) : (s.setThread c t x).msgs = s.msgs := rfl
@[simp] theorem State.setThread_tags (c t : Nat) (x : Thread) : (s.setThread c t x).tags = s.tags := rfl
@[simp] theorem State.setThread_chans (c t : Nat) (x : Thread) : (s.setThread c t x).chans = s.chans := rfl
@[simp] theorem State.setThread_claims (c t : Nat) (x : Thread) : (s.setThread c t x).claims = s.claims := rfl
@[simp] theorem State.setThread_bindings (c t : Nat) (x : Thread) : (s.setThread c t x).bindings = s.bindings := rfl
@[simp] theorem State.setThread_preempts (c t : Nat) (x : Thread) : (s.setThread c t x).preempts = s.preempts := rfl
@[simp] theorem State.setThread_undeliv (c t : Nat) (x : Thread) : (s.setThread c t x).undeliv = s.undeliv := rfl
@[simp] theorem State.setThread_syms (c t : Nat) (x : Thread) : (s.setThread c t x).syms = s.syms := rfl
@[simp] theorem State.setThread_l1 (c t : Nat) (x : Thread) : (s.setThread c t x).l1 = s.l1 := rfl
@[simp] theorem State.setThread_icache (c t : Nat) (x : Thread) : (s.setThread c t x).icache = s.icache := rfl
@[simp] theorem State.setThread_tlb (c t : Nat) (x : Thread) : (s.setThread c t x).tlb = s.tlb := rfl
@[simp] theorem State.setThread_mem (c t : Nat) (x : Thread) : (s.setThread c t x).mem = s.mem := rfl
@[simp] theorem State.setThread_poison (c t : Nat) (x : Thread) : (s.setThread c t x).poison = s.poison := rfl
@[simp] theorem State.setThread_owner (c t : Nat) (x : Thread) : (s.setThread c t x).owner = s.owner := rfl
@[simp] theorem State.setThread_scratch (c t : Nat) (x : Thread) : (s.setThread c t x).scratch = s.scratch := rfl
@[simp] theorem State.setThread_spoison (c t : Nat) (x : Thread) : (s.setThread c t x).spoison = s.spoison := rfl
@[simp] theorem State.setThread_resident (c t : Nat) (x : Thread) : (s.setThread c t x).resident = s.resident := rfl
@[simp] theorem State.setThread_pins (c t : Nat) (x : Thread) : (s.setThread c t x).pins = s.pins := rfl
@[simp] theorem State.setThread_octets (c t : Nat) (x : Thread) : (s.setThread c t x).octets = s.octets := rfl
@[simp] theorem State.setThread_clflags (c t : Nat) (x : Thread) : (s.setThread c t x).clflags = s.clflags := rfl
@[simp] theorem State.setThread_faults (c t : Nat) (x : Thread) : (s.setThread c t x).faults = s.faults := rfl
@[simp] theorem State.setThread_services (c t : Nat) (x : Thread) : (s.setThread c t x).services = s.services := rfl
@[simp] theorem State.setThread_fused (c t : Nat) (x : Thread) : (s.setThread c t x).fused = s.fused := rfl
@[simp] theorem State.setThread_wdog (c t : Nat) (x : Thread) : (s.setThread c t x).wdog = s.wdog := rfl
@[simp] theorem State.setThread_wdogFired (c t : Nat) (x : Thread) : (s.setThread c t x).wdogFired = s.wdogFired := rfl
@[simp] theorem State.setThread_takes (c t : Nat) (x : Thread) : (s.setThread c t x).takes = s.takes := rfl
@[simp] theorem State.setThread_takeBusy (c t : Nat) (x : Thread) : (s.setThread c t x).takeBusy = s.takeBusy := rfl
@[simp] theorem State.setThread_transoms (c t : Nat) (x : Thread) : (s.setThread c t x).transoms = s.transoms := rfl
@[simp] theorem State.setThread_chunks (c t : Nat) (x : Thread) : (s.setThread c t x).chunks = s.chunks := rfl
@[simp] theorem State.setThread_tenants (c t : Nat) (x : Thread) : (s.setThread c t x).tenants = s.tenants := rfl
@[simp] theorem State.setThread_launches (c t : Nat) (x : Thread) : (s.setThread c t x).launches = s.launches := rfl
@[simp] theorem State.setThread_nextLaunch (c t : Nat) (x : Thread) : (s.setThread c t x).nextLaunch = s.nextLaunch := rfl
@[simp] theorem State.setThread_posted (c t : Nat) (x : Thread) : (s.setThread c t x).posted = s.posted := rfl
@[simp] theorem State.setThread_queues (c t : Nat) (x : Thread) : (s.setThread c t x).queues = s.queues := rfl
@[simp] theorem State.setThread_cpTurn (c t : Nat) (x : Thread) : (s.setThread c t x).cpTurn = s.cpTurn := rfl
@[simp] theorem State.setThread_hazards (c t : Nat) (x : Thread) : (s.setThread c t x).hazards = s.hazards := rfl
@[simp] theorem State.setThread_slices (c t : Nat) (x : Thread) : (s.setThread c t x).slices = s.slices := rfl
@[simp] theorem State.setThread_lastSlice (c t : Nat) (x : Thread) : (s.setThread c t x).lastSlice = s.lastSlice := rfl
@[simp] theorem State.setThread_lnJobs (c t : Nat) (x : Thread) : (s.setThread c t x).lnJobs = s.lnJobs := rfl
@[simp] theorem State.setThread_net (c t : Nat) (x : Thread) : (s.setThread c t x).net = s.net := rfl
@[simp] theorem State.setThread_ingress (c t : Nat) (x : Thread) : (s.setThread c t x).ingress = s.ingress := rfl
@[simp] theorem State.setThread_ccores (c t : Nat) (x : Thread) : (s.setThread c t x).ccores = s.ccores := rfl
@[simp] theorem State.setThread_bootCnt (c t : Nat) (x : Thread) : (s.setThread c t x).bootCnt = s.bootCnt := rfl
@[simp] theorem State.setThread_attns (c t : Nat) (x : Thread) : (s.setThread c t x).attns = s.attns := rfl
@[simp] theorem State.setThread_irqs (c t : Nat) (x : Thread) : (s.setThread c t x).irqs = s.irqs := rfl
@[simp] theorem State.setThread_latches (c t : Nat) (x : Thread) : (s.setThread c t x).latches = s.latches := rfl
@[simp] theorem State.setThread_portDown (c t : Nat) (x : Thread) : (s.setThread c t x).portDown = s.portDown := rfl
@[simp] theorem State.setThread_peerStores (c t : Nat) (x : Thread) : (s.setThread c t x).peerStores = s.peerStores := rfl
@[simp] theorem State.setThread_thrCause (c t : Nat) (x : Thread) : (s.setThread c t x).thrCause = s.thrCause := rfl
@[simp] theorem State.setThread_thrLast (c t : Nat) (x : Thread) : (s.setThread c t x).thrLast = s.thrLast := rfl
@[simp] theorem State.setThread_ctl (c t : Nat) (x : Thread) : (s.setThread c t x).ctl = s.ctl := rfl
@[simp] theorem State.setThread_sysRegs (c t : Nat) (x : Thread) : (s.setThread c t x).sysRegs = s.sysRegs := rfl
@[simp] theorem State.setThread_fuses (c t : Nat) (x : Thread) : (s.setThread c t x).fuses = s.fuses := rfl
@[simp] theorem State.setThread_flash (c t : Nat) (x : Thread) : (s.setThread c t x).flash = s.flash := rfl
@[simp] theorem State.setThread_good (c t : Nat) (x : Thread) : (s.setThread c t x).good = s.good := rfl
@[simp] theorem State.setThread_routers (c t : Nat) (x : Thread) : (s.setThread c t x).routers = s.routers := rfl
@[simp] theorem State.setThread_logical (c t : Nat) (x : Thread) : (s.setThread c t x).logical = s.logical := rfl
@[simp] theorem State.setThread_omitted (c t : Nat) (x : Thread) : (s.setThread c t x).omitted = s.omitted := rfl
@[simp] theorem State.setThread_meas (c t : Nat) (x : Thread) : (s.setThread c t x).meas = s.meas := rfl
@[simp] theorem State.setThread_traceBuf (c t : Nat) (x : Thread) : (s.setThread c t x).traceBuf = s.traceBuf := rfl
@[simp] theorem State.setThread_slate (c t : Nat) (x : Thread) : (s.setThread c t x).slate = s.slate := rfl
@[simp] theorem State.setThread_reels (c t : Nat) (x : Thread) : (s.setThread c t x).reels = s.reels := rfl
@[simp] theorem State.setThread_replayPos (c t : Nat) (x : Thread) : (s.setThread c t x).replayPos = s.replayPos := rfl
@[simp] theorem State.setThread_fatal (c t : Nat) (x : Thread) : (s.setThread c t x).fatal = s.fatal := rfl

/-! ### setOctet -/

@[simp] theorem State.setOctet_schedule (o : Nat) (x : Octet) : (s.setOctet o x).schedule = s.schedule := rfl
@[simp] theorem State.setOctet_hart (o : Nat) (x : Octet) : (s.setOctet o x).hart = s.hart := rfl
@[simp] theorem State.setOctet_freeCtr (o : Nat) (x : Octet) : (s.setOctet o x).freeCtr = s.freeCtr := rfl
@[simp] theorem State.setOctet_caught (o : Nat) (x : Octet) : (s.setOctet o x).caught = s.caught := rfl
@[simp] theorem State.setOctet_time (o : Nat) (x : Octet) : (s.setOctet o x).time = s.time := rfl
@[simp] theorem State.setOctet_aclk (o : Nat) (x : Octet) : (s.setOctet o x).aclk = s.aclk := rfl
@[simp] theorem State.setOctet_phase (o : Nat) (x : Octet) : (s.setOctet o x).phase = s.phase := rfl
@[simp] theorem State.setOctet_threads (o : Nat) (x : Octet) : (s.setOctet o x).threads = s.threads := rfl
@[simp] theorem State.setOctet_cores (o : Nat) (x : Octet) : (s.setOctet o x).cores = s.cores := rfl
@[simp] theorem State.setOctet_deques (o : Nat) (x : Octet) : (s.setOctet o x).deques = s.deques := rfl
@[simp] theorem State.setOctet_spills (o : Nat) (x : Octet) : (s.setOctet o x).spills = s.spills := rfl
@[simp] theorem State.setOctet_msgs (o : Nat) (x : Octet) : (s.setOctet o x).msgs = s.msgs := rfl
@[simp] theorem State.setOctet_tags (o : Nat) (x : Octet) : (s.setOctet o x).tags = s.tags := rfl
@[simp] theorem State.setOctet_chans (o : Nat) (x : Octet) : (s.setOctet o x).chans = s.chans := rfl
@[simp] theorem State.setOctet_claims (o : Nat) (x : Octet) : (s.setOctet o x).claims = s.claims := rfl
@[simp] theorem State.setOctet_bindings (o : Nat) (x : Octet) : (s.setOctet o x).bindings = s.bindings := rfl
@[simp] theorem State.setOctet_preempts (o : Nat) (x : Octet) : (s.setOctet o x).preempts = s.preempts := rfl
@[simp] theorem State.setOctet_undeliv (o : Nat) (x : Octet) : (s.setOctet o x).undeliv = s.undeliv := rfl
@[simp] theorem State.setOctet_syms (o : Nat) (x : Octet) : (s.setOctet o x).syms = s.syms := rfl
@[simp] theorem State.setOctet_l1 (o : Nat) (x : Octet) : (s.setOctet o x).l1 = s.l1 := rfl
@[simp] theorem State.setOctet_icache (o : Nat) (x : Octet) : (s.setOctet o x).icache = s.icache := rfl
@[simp] theorem State.setOctet_tlb (o : Nat) (x : Octet) : (s.setOctet o x).tlb = s.tlb := rfl
@[simp] theorem State.setOctet_mem (o : Nat) (x : Octet) : (s.setOctet o x).mem = s.mem := rfl
@[simp] theorem State.setOctet_poison (o : Nat) (x : Octet) : (s.setOctet o x).poison = s.poison := rfl
@[simp] theorem State.setOctet_owner (o : Nat) (x : Octet) : (s.setOctet o x).owner = s.owner := rfl
@[simp] theorem State.setOctet_scratch (o : Nat) (x : Octet) : (s.setOctet o x).scratch = s.scratch := rfl
@[simp] theorem State.setOctet_spoison (o : Nat) (x : Octet) : (s.setOctet o x).spoison = s.spoison := rfl
@[simp] theorem State.setOctet_resident (o : Nat) (x : Octet) : (s.setOctet o x).resident = s.resident := rfl
@[simp] theorem State.setOctet_pins (o : Nat) (x : Octet) : (s.setOctet o x).pins = s.pins := rfl
@[simp] theorem State.setOctet_clflags (o : Nat) (x : Octet) : (s.setOctet o x).clflags = s.clflags := rfl
@[simp] theorem State.setOctet_faults (o : Nat) (x : Octet) : (s.setOctet o x).faults = s.faults := rfl
@[simp] theorem State.setOctet_services (o : Nat) (x : Octet) : (s.setOctet o x).services = s.services := rfl
@[simp] theorem State.setOctet_fused (o : Nat) (x : Octet) : (s.setOctet o x).fused = s.fused := rfl
@[simp] theorem State.setOctet_wdog (o : Nat) (x : Octet) : (s.setOctet o x).wdog = s.wdog := rfl
@[simp] theorem State.setOctet_wdogFired (o : Nat) (x : Octet) : (s.setOctet o x).wdogFired = s.wdogFired := rfl
@[simp] theorem State.setOctet_takes (o : Nat) (x : Octet) : (s.setOctet o x).takes = s.takes := rfl
@[simp] theorem State.setOctet_takeBusy (o : Nat) (x : Octet) : (s.setOctet o x).takeBusy = s.takeBusy := rfl
@[simp] theorem State.setOctet_transoms (o : Nat) (x : Octet) : (s.setOctet o x).transoms = s.transoms := rfl
@[simp] theorem State.setOctet_chunks (o : Nat) (x : Octet) : (s.setOctet o x).chunks = s.chunks := rfl
@[simp] theorem State.setOctet_tenants (o : Nat) (x : Octet) : (s.setOctet o x).tenants = s.tenants := rfl
@[simp] theorem State.setOctet_launches (o : Nat) (x : Octet) : (s.setOctet o x).launches = s.launches := rfl
@[simp] theorem State.setOctet_nextLaunch (o : Nat) (x : Octet) : (s.setOctet o x).nextLaunch = s.nextLaunch := rfl
@[simp] theorem State.setOctet_posted (o : Nat) (x : Octet) : (s.setOctet o x).posted = s.posted := rfl
@[simp] theorem State.setOctet_queues (o : Nat) (x : Octet) : (s.setOctet o x).queues = s.queues := rfl
@[simp] theorem State.setOctet_cpTurn (o : Nat) (x : Octet) : (s.setOctet o x).cpTurn = s.cpTurn := rfl
@[simp] theorem State.setOctet_hazards (o : Nat) (x : Octet) : (s.setOctet o x).hazards = s.hazards := rfl
@[simp] theorem State.setOctet_slices (o : Nat) (x : Octet) : (s.setOctet o x).slices = s.slices := rfl
@[simp] theorem State.setOctet_lastSlice (o : Nat) (x : Octet) : (s.setOctet o x).lastSlice = s.lastSlice := rfl
@[simp] theorem State.setOctet_lnJobs (o : Nat) (x : Octet) : (s.setOctet o x).lnJobs = s.lnJobs := rfl
@[simp] theorem State.setOctet_net (o : Nat) (x : Octet) : (s.setOctet o x).net = s.net := rfl
@[simp] theorem State.setOctet_ingress (o : Nat) (x : Octet) : (s.setOctet o x).ingress = s.ingress := rfl
@[simp] theorem State.setOctet_ccores (o : Nat) (x : Octet) : (s.setOctet o x).ccores = s.ccores := rfl
@[simp] theorem State.setOctet_bootCnt (o : Nat) (x : Octet) : (s.setOctet o x).bootCnt = s.bootCnt := rfl
@[simp] theorem State.setOctet_attns (o : Nat) (x : Octet) : (s.setOctet o x).attns = s.attns := rfl
@[simp] theorem State.setOctet_irqs (o : Nat) (x : Octet) : (s.setOctet o x).irqs = s.irqs := rfl
@[simp] theorem State.setOctet_latches (o : Nat) (x : Octet) : (s.setOctet o x).latches = s.latches := rfl
@[simp] theorem State.setOctet_portDown (o : Nat) (x : Octet) : (s.setOctet o x).portDown = s.portDown := rfl
@[simp] theorem State.setOctet_peerStores (o : Nat) (x : Octet) : (s.setOctet o x).peerStores = s.peerStores := rfl
@[simp] theorem State.setOctet_thrCause (o : Nat) (x : Octet) : (s.setOctet o x).thrCause = s.thrCause := rfl
@[simp] theorem State.setOctet_thrLast (o : Nat) (x : Octet) : (s.setOctet o x).thrLast = s.thrLast := rfl
@[simp] theorem State.setOctet_ctl (o : Nat) (x : Octet) : (s.setOctet o x).ctl = s.ctl := rfl
@[simp] theorem State.setOctet_sysRegs (o : Nat) (x : Octet) : (s.setOctet o x).sysRegs = s.sysRegs := rfl
@[simp] theorem State.setOctet_fuses (o : Nat) (x : Octet) : (s.setOctet o x).fuses = s.fuses := rfl
@[simp] theorem State.setOctet_flash (o : Nat) (x : Octet) : (s.setOctet o x).flash = s.flash := rfl
@[simp] theorem State.setOctet_good (o : Nat) (x : Octet) : (s.setOctet o x).good = s.good := rfl
@[simp] theorem State.setOctet_routers (o : Nat) (x : Octet) : (s.setOctet o x).routers = s.routers := rfl
@[simp] theorem State.setOctet_logical (o : Nat) (x : Octet) : (s.setOctet o x).logical = s.logical := rfl
@[simp] theorem State.setOctet_omitted (o : Nat) (x : Octet) : (s.setOctet o x).omitted = s.omitted := rfl
@[simp] theorem State.setOctet_meas (o : Nat) (x : Octet) : (s.setOctet o x).meas = s.meas := rfl
@[simp] theorem State.setOctet_traceBuf (o : Nat) (x : Octet) : (s.setOctet o x).traceBuf = s.traceBuf := rfl
@[simp] theorem State.setOctet_slate (o : Nat) (x : Octet) : (s.setOctet o x).slate = s.slate := rfl
@[simp] theorem State.setOctet_reels (o : Nat) (x : Octet) : (s.setOctet o x).reels = s.reels := rfl
@[simp] theorem State.setOctet_replayPos (o : Nat) (x : Octet) : (s.setOctet o x).replayPos = s.replayPos := rfl
@[simp] theorem State.setOctet_fatal (o : Nat) (x : Octet) : (s.setOctet o x).fatal = s.fatal := rfl

/-! ### setSym -/

@[simp] theorem State.setSym_schedule (c i : Nat) (x : Option Sym) : (s.setSym c i x).schedule = s.schedule := rfl
@[simp] theorem State.setSym_hart (c i : Nat) (x : Option Sym) : (s.setSym c i x).hart = s.hart := rfl
@[simp] theorem State.setSym_freeCtr (c i : Nat) (x : Option Sym) : (s.setSym c i x).freeCtr = s.freeCtr := rfl
@[simp] theorem State.setSym_caught (c i : Nat) (x : Option Sym) : (s.setSym c i x).caught = s.caught := rfl
@[simp] theorem State.setSym_time (c i : Nat) (x : Option Sym) : (s.setSym c i x).time = s.time := rfl
@[simp] theorem State.setSym_aclk (c i : Nat) (x : Option Sym) : (s.setSym c i x).aclk = s.aclk := rfl
@[simp] theorem State.setSym_phase (c i : Nat) (x : Option Sym) : (s.setSym c i x).phase = s.phase := rfl
@[simp] theorem State.setSym_threads (c i : Nat) (x : Option Sym) : (s.setSym c i x).threads = s.threads := rfl
@[simp] theorem State.setSym_cores (c i : Nat) (x : Option Sym) : (s.setSym c i x).cores = s.cores := rfl
@[simp] theorem State.setSym_deques (c i : Nat) (x : Option Sym) : (s.setSym c i x).deques = s.deques := rfl
@[simp] theorem State.setSym_spills (c i : Nat) (x : Option Sym) : (s.setSym c i x).spills = s.spills := rfl
@[simp] theorem State.setSym_msgs (c i : Nat) (x : Option Sym) : (s.setSym c i x).msgs = s.msgs := rfl
@[simp] theorem State.setSym_tags (c i : Nat) (x : Option Sym) : (s.setSym c i x).tags = s.tags := rfl
@[simp] theorem State.setSym_chans (c i : Nat) (x : Option Sym) : (s.setSym c i x).chans = s.chans := rfl
@[simp] theorem State.setSym_claims (c i : Nat) (x : Option Sym) : (s.setSym c i x).claims = s.claims := rfl
@[simp] theorem State.setSym_bindings (c i : Nat) (x : Option Sym) : (s.setSym c i x).bindings = s.bindings := rfl
@[simp] theorem State.setSym_preempts (c i : Nat) (x : Option Sym) : (s.setSym c i x).preempts = s.preempts := rfl
@[simp] theorem State.setSym_undeliv (c i : Nat) (x : Option Sym) : (s.setSym c i x).undeliv = s.undeliv := rfl
@[simp] theorem State.setSym_l1 (c i : Nat) (x : Option Sym) : (s.setSym c i x).l1 = s.l1 := rfl
@[simp] theorem State.setSym_icache (c i : Nat) (x : Option Sym) : (s.setSym c i x).icache = s.icache := rfl
@[simp] theorem State.setSym_tlb (c i : Nat) (x : Option Sym) : (s.setSym c i x).tlb = s.tlb := rfl
@[simp] theorem State.setSym_mem (c i : Nat) (x : Option Sym) : (s.setSym c i x).mem = s.mem := rfl
@[simp] theorem State.setSym_poison (c i : Nat) (x : Option Sym) : (s.setSym c i x).poison = s.poison := rfl
@[simp] theorem State.setSym_owner (c i : Nat) (x : Option Sym) : (s.setSym c i x).owner = s.owner := rfl
@[simp] theorem State.setSym_scratch (c i : Nat) (x : Option Sym) : (s.setSym c i x).scratch = s.scratch := rfl
@[simp] theorem State.setSym_spoison (c i : Nat) (x : Option Sym) : (s.setSym c i x).spoison = s.spoison := rfl
@[simp] theorem State.setSym_resident (c i : Nat) (x : Option Sym) : (s.setSym c i x).resident = s.resident := rfl
@[simp] theorem State.setSym_pins (c i : Nat) (x : Option Sym) : (s.setSym c i x).pins = s.pins := rfl
@[simp] theorem State.setSym_octets (c i : Nat) (x : Option Sym) : (s.setSym c i x).octets = s.octets := rfl
@[simp] theorem State.setSym_clflags (c i : Nat) (x : Option Sym) : (s.setSym c i x).clflags = s.clflags := rfl
@[simp] theorem State.setSym_faults (c i : Nat) (x : Option Sym) : (s.setSym c i x).faults = s.faults := rfl
@[simp] theorem State.setSym_services (c i : Nat) (x : Option Sym) : (s.setSym c i x).services = s.services := rfl
@[simp] theorem State.setSym_fused (c i : Nat) (x : Option Sym) : (s.setSym c i x).fused = s.fused := rfl
@[simp] theorem State.setSym_wdog (c i : Nat) (x : Option Sym) : (s.setSym c i x).wdog = s.wdog := rfl
@[simp] theorem State.setSym_wdogFired (c i : Nat) (x : Option Sym) : (s.setSym c i x).wdogFired = s.wdogFired := rfl
@[simp] theorem State.setSym_takes (c i : Nat) (x : Option Sym) : (s.setSym c i x).takes = s.takes := rfl
@[simp] theorem State.setSym_takeBusy (c i : Nat) (x : Option Sym) : (s.setSym c i x).takeBusy = s.takeBusy := rfl
@[simp] theorem State.setSym_transoms (c i : Nat) (x : Option Sym) : (s.setSym c i x).transoms = s.transoms := rfl
@[simp] theorem State.setSym_chunks (c i : Nat) (x : Option Sym) : (s.setSym c i x).chunks = s.chunks := rfl
@[simp] theorem State.setSym_tenants (c i : Nat) (x : Option Sym) : (s.setSym c i x).tenants = s.tenants := rfl
@[simp] theorem State.setSym_launches (c i : Nat) (x : Option Sym) : (s.setSym c i x).launches = s.launches := rfl
@[simp] theorem State.setSym_nextLaunch (c i : Nat) (x : Option Sym) : (s.setSym c i x).nextLaunch = s.nextLaunch := rfl
@[simp] theorem State.setSym_posted (c i : Nat) (x : Option Sym) : (s.setSym c i x).posted = s.posted := rfl
@[simp] theorem State.setSym_queues (c i : Nat) (x : Option Sym) : (s.setSym c i x).queues = s.queues := rfl
@[simp] theorem State.setSym_cpTurn (c i : Nat) (x : Option Sym) : (s.setSym c i x).cpTurn = s.cpTurn := rfl
@[simp] theorem State.setSym_hazards (c i : Nat) (x : Option Sym) : (s.setSym c i x).hazards = s.hazards := rfl
@[simp] theorem State.setSym_slices (c i : Nat) (x : Option Sym) : (s.setSym c i x).slices = s.slices := rfl
@[simp] theorem State.setSym_lastSlice (c i : Nat) (x : Option Sym) : (s.setSym c i x).lastSlice = s.lastSlice := rfl
@[simp] theorem State.setSym_lnJobs (c i : Nat) (x : Option Sym) : (s.setSym c i x).lnJobs = s.lnJobs := rfl
@[simp] theorem State.setSym_net (c i : Nat) (x : Option Sym) : (s.setSym c i x).net = s.net := rfl
@[simp] theorem State.setSym_ingress (c i : Nat) (x : Option Sym) : (s.setSym c i x).ingress = s.ingress := rfl
@[simp] theorem State.setSym_ccores (c i : Nat) (x : Option Sym) : (s.setSym c i x).ccores = s.ccores := rfl
@[simp] theorem State.setSym_bootCnt (c i : Nat) (x : Option Sym) : (s.setSym c i x).bootCnt = s.bootCnt := rfl
@[simp] theorem State.setSym_attns (c i : Nat) (x : Option Sym) : (s.setSym c i x).attns = s.attns := rfl
@[simp] theorem State.setSym_irqs (c i : Nat) (x : Option Sym) : (s.setSym c i x).irqs = s.irqs := rfl
@[simp] theorem State.setSym_latches (c i : Nat) (x : Option Sym) : (s.setSym c i x).latches = s.latches := rfl
@[simp] theorem State.setSym_portDown (c i : Nat) (x : Option Sym) : (s.setSym c i x).portDown = s.portDown := rfl
@[simp] theorem State.setSym_peerStores (c i : Nat) (x : Option Sym) : (s.setSym c i x).peerStores = s.peerStores := rfl
@[simp] theorem State.setSym_thrCause (c i : Nat) (x : Option Sym) : (s.setSym c i x).thrCause = s.thrCause := rfl
@[simp] theorem State.setSym_thrLast (c i : Nat) (x : Option Sym) : (s.setSym c i x).thrLast = s.thrLast := rfl
@[simp] theorem State.setSym_ctl (c i : Nat) (x : Option Sym) : (s.setSym c i x).ctl = s.ctl := rfl
@[simp] theorem State.setSym_sysRegs (c i : Nat) (x : Option Sym) : (s.setSym c i x).sysRegs = s.sysRegs := rfl
@[simp] theorem State.setSym_fuses (c i : Nat) (x : Option Sym) : (s.setSym c i x).fuses = s.fuses := rfl
@[simp] theorem State.setSym_flash (c i : Nat) (x : Option Sym) : (s.setSym c i x).flash = s.flash := rfl
@[simp] theorem State.setSym_good (c i : Nat) (x : Option Sym) : (s.setSym c i x).good = s.good := rfl
@[simp] theorem State.setSym_routers (c i : Nat) (x : Option Sym) : (s.setSym c i x).routers = s.routers := rfl
@[simp] theorem State.setSym_logical (c i : Nat) (x : Option Sym) : (s.setSym c i x).logical = s.logical := rfl
@[simp] theorem State.setSym_omitted (c i : Nat) (x : Option Sym) : (s.setSym c i x).omitted = s.omitted := rfl
@[simp] theorem State.setSym_meas (c i : Nat) (x : Option Sym) : (s.setSym c i x).meas = s.meas := rfl
@[simp] theorem State.setSym_traceBuf (c i : Nat) (x : Option Sym) : (s.setSym c i x).traceBuf = s.traceBuf := rfl
@[simp] theorem State.setSym_slate (c i : Nat) (x : Option Sym) : (s.setSym c i x).slate = s.slate := rfl
@[simp] theorem State.setSym_reels (c i : Nat) (x : Option Sym) : (s.setSym c i x).reels = s.reels := rfl
@[simp] theorem State.setSym_replayPos (c i : Nat) (x : Option Sym) : (s.setSym c i x).replayPos = s.replayPos := rfl
@[simp] theorem State.setSym_fatal (c i : Nat) (x : Option Sym) : (s.setSym c i x).fatal = s.fatal := rfl

/-! ### setCtxOf -/

@[simp] theorem State.setCtxOf_schedule (h : HartId) (x : Ctx) : (s.setCtxOf h x).schedule = s.schedule := by cases h <;> rfl
@[simp] theorem State.setCtxOf_hart (h : HartId) (x : Ctx) : (s.setCtxOf h x).hart = s.hart := by cases h <;> rfl
@[simp] theorem State.setCtxOf_freeCtr (h : HartId) (x : Ctx) : (s.setCtxOf h x).freeCtr = s.freeCtr := by cases h <;> rfl
@[simp] theorem State.setCtxOf_caught (h : HartId) (x : Ctx) : (s.setCtxOf h x).caught = s.caught := by cases h <;> rfl
@[simp] theorem State.setCtxOf_time (h : HartId) (x : Ctx) : (s.setCtxOf h x).time = s.time := by cases h <;> rfl
@[simp] theorem State.setCtxOf_aclk (h : HartId) (x : Ctx) : (s.setCtxOf h x).aclk = s.aclk := by cases h <;> rfl
@[simp] theorem State.setCtxOf_phase (h : HartId) (x : Ctx) : (s.setCtxOf h x).phase = s.phase := by cases h <;> rfl
@[simp] theorem State.setCtxOf_cores (h : HartId) (x : Ctx) : (s.setCtxOf h x).cores = s.cores := by cases h <;> rfl
@[simp] theorem State.setCtxOf_deques (h : HartId) (x : Ctx) : (s.setCtxOf h x).deques = s.deques := by cases h <;> rfl
@[simp] theorem State.setCtxOf_spills (h : HartId) (x : Ctx) : (s.setCtxOf h x).spills = s.spills := by cases h <;> rfl
@[simp] theorem State.setCtxOf_msgs (h : HartId) (x : Ctx) : (s.setCtxOf h x).msgs = s.msgs := by cases h <;> rfl
@[simp] theorem State.setCtxOf_tags (h : HartId) (x : Ctx) : (s.setCtxOf h x).tags = s.tags := by cases h <;> rfl
@[simp] theorem State.setCtxOf_chans (h : HartId) (x : Ctx) : (s.setCtxOf h x).chans = s.chans := by cases h <;> rfl
@[simp] theorem State.setCtxOf_claims (h : HartId) (x : Ctx) : (s.setCtxOf h x).claims = s.claims := by cases h <;> rfl
@[simp] theorem State.setCtxOf_bindings (h : HartId) (x : Ctx) : (s.setCtxOf h x).bindings = s.bindings := by cases h <;> rfl
@[simp] theorem State.setCtxOf_preempts (h : HartId) (x : Ctx) : (s.setCtxOf h x).preempts = s.preempts := by cases h <;> rfl
@[simp] theorem State.setCtxOf_undeliv (h : HartId) (x : Ctx) : (s.setCtxOf h x).undeliv = s.undeliv := by cases h <;> rfl
@[simp] theorem State.setCtxOf_syms (h : HartId) (x : Ctx) : (s.setCtxOf h x).syms = s.syms := by cases h <;> rfl
@[simp] theorem State.setCtxOf_l1 (h : HartId) (x : Ctx) : (s.setCtxOf h x).l1 = s.l1 := by cases h <;> rfl
@[simp] theorem State.setCtxOf_icache (h : HartId) (x : Ctx) : (s.setCtxOf h x).icache = s.icache := by cases h <;> rfl
@[simp] theorem State.setCtxOf_tlb (h : HartId) (x : Ctx) : (s.setCtxOf h x).tlb = s.tlb := by cases h <;> rfl
@[simp] theorem State.setCtxOf_mem (h : HartId) (x : Ctx) : (s.setCtxOf h x).mem = s.mem := by cases h <;> rfl
@[simp] theorem State.setCtxOf_poison (h : HartId) (x : Ctx) : (s.setCtxOf h x).poison = s.poison := by cases h <;> rfl
@[simp] theorem State.setCtxOf_owner (h : HartId) (x : Ctx) : (s.setCtxOf h x).owner = s.owner := by cases h <;> rfl
@[simp] theorem State.setCtxOf_scratch (h : HartId) (x : Ctx) : (s.setCtxOf h x).scratch = s.scratch := by cases h <;> rfl
@[simp] theorem State.setCtxOf_spoison (h : HartId) (x : Ctx) : (s.setCtxOf h x).spoison = s.spoison := by cases h <;> rfl
@[simp] theorem State.setCtxOf_resident (h : HartId) (x : Ctx) : (s.setCtxOf h x).resident = s.resident := by cases h <;> rfl
@[simp] theorem State.setCtxOf_pins (h : HartId) (x : Ctx) : (s.setCtxOf h x).pins = s.pins := by cases h <;> rfl
@[simp] theorem State.setCtxOf_clflags (h : HartId) (x : Ctx) : (s.setCtxOf h x).clflags = s.clflags := by cases h <;> rfl
@[simp] theorem State.setCtxOf_faults (h : HartId) (x : Ctx) : (s.setCtxOf h x).faults = s.faults := by cases h <;> rfl
@[simp] theorem State.setCtxOf_services (h : HartId) (x : Ctx) : (s.setCtxOf h x).services = s.services := by cases h <;> rfl
@[simp] theorem State.setCtxOf_fused (h : HartId) (x : Ctx) : (s.setCtxOf h x).fused = s.fused := by cases h <;> rfl
@[simp] theorem State.setCtxOf_wdog (h : HartId) (x : Ctx) : (s.setCtxOf h x).wdog = s.wdog := by cases h <;> rfl
@[simp] theorem State.setCtxOf_wdogFired (h : HartId) (x : Ctx) : (s.setCtxOf h x).wdogFired = s.wdogFired := by cases h <;> rfl
@[simp] theorem State.setCtxOf_takes (h : HartId) (x : Ctx) : (s.setCtxOf h x).takes = s.takes := by cases h <;> rfl
@[simp] theorem State.setCtxOf_takeBusy (h : HartId) (x : Ctx) : (s.setCtxOf h x).takeBusy = s.takeBusy := by cases h <;> rfl
@[simp] theorem State.setCtxOf_transoms (h : HartId) (x : Ctx) : (s.setCtxOf h x).transoms = s.transoms := by cases h <;> rfl
@[simp] theorem State.setCtxOf_chunks (h : HartId) (x : Ctx) : (s.setCtxOf h x).chunks = s.chunks := by cases h <;> rfl
@[simp] theorem State.setCtxOf_tenants (h : HartId) (x : Ctx) : (s.setCtxOf h x).tenants = s.tenants := by cases h <;> rfl
@[simp] theorem State.setCtxOf_launches (h : HartId) (x : Ctx) : (s.setCtxOf h x).launches = s.launches := by cases h <;> rfl
@[simp] theorem State.setCtxOf_nextLaunch (h : HartId) (x : Ctx) : (s.setCtxOf h x).nextLaunch = s.nextLaunch := by cases h <;> rfl
@[simp] theorem State.setCtxOf_posted (h : HartId) (x : Ctx) : (s.setCtxOf h x).posted = s.posted := by cases h <;> rfl
@[simp] theorem State.setCtxOf_queues (h : HartId) (x : Ctx) : (s.setCtxOf h x).queues = s.queues := by cases h <;> rfl
@[simp] theorem State.setCtxOf_cpTurn (h : HartId) (x : Ctx) : (s.setCtxOf h x).cpTurn = s.cpTurn := by cases h <;> rfl
@[simp] theorem State.setCtxOf_hazards (h : HartId) (x : Ctx) : (s.setCtxOf h x).hazards = s.hazards := by cases h <;> rfl
@[simp] theorem State.setCtxOf_slices (h : HartId) (x : Ctx) : (s.setCtxOf h x).slices = s.slices := by cases h <;> rfl
@[simp] theorem State.setCtxOf_lastSlice (h : HartId) (x : Ctx) : (s.setCtxOf h x).lastSlice = s.lastSlice := by cases h <;> rfl
@[simp] theorem State.setCtxOf_lnJobs (h : HartId) (x : Ctx) : (s.setCtxOf h x).lnJobs = s.lnJobs := by cases h <;> rfl
@[simp] theorem State.setCtxOf_net (h : HartId) (x : Ctx) : (s.setCtxOf h x).net = s.net := by cases h <;> rfl
@[simp] theorem State.setCtxOf_ingress (h : HartId) (x : Ctx) : (s.setCtxOf h x).ingress = s.ingress := by cases h <;> rfl
@[simp] theorem State.setCtxOf_ccores (h : HartId) (x : Ctx) : (s.setCtxOf h x).ccores = s.ccores := by cases h <;> rfl
@[simp] theorem State.setCtxOf_bootCnt (h : HartId) (x : Ctx) : (s.setCtxOf h x).bootCnt = s.bootCnt := by cases h <;> rfl
@[simp] theorem State.setCtxOf_attns (h : HartId) (x : Ctx) : (s.setCtxOf h x).attns = s.attns := by cases h <;> rfl
@[simp] theorem State.setCtxOf_irqs (h : HartId) (x : Ctx) : (s.setCtxOf h x).irqs = s.irqs := by cases h <;> rfl
@[simp] theorem State.setCtxOf_latches (h : HartId) (x : Ctx) : (s.setCtxOf h x).latches = s.latches := by cases h <;> rfl
@[simp] theorem State.setCtxOf_portDown (h : HartId) (x : Ctx) : (s.setCtxOf h x).portDown = s.portDown := by cases h <;> rfl
@[simp] theorem State.setCtxOf_peerStores (h : HartId) (x : Ctx) : (s.setCtxOf h x).peerStores = s.peerStores := by cases h <;> rfl
@[simp] theorem State.setCtxOf_thrCause (h : HartId) (x : Ctx) : (s.setCtxOf h x).thrCause = s.thrCause := by cases h <;> rfl
@[simp] theorem State.setCtxOf_thrLast (h : HartId) (x : Ctx) : (s.setCtxOf h x).thrLast = s.thrLast := by cases h <;> rfl
@[simp] theorem State.setCtxOf_ctl (h : HartId) (x : Ctx) : (s.setCtxOf h x).ctl = s.ctl := by cases h <;> rfl
@[simp] theorem State.setCtxOf_sysRegs (h : HartId) (x : Ctx) : (s.setCtxOf h x).sysRegs = s.sysRegs := by cases h <;> rfl
@[simp] theorem State.setCtxOf_fuses (h : HartId) (x : Ctx) : (s.setCtxOf h x).fuses = s.fuses := by cases h <;> rfl
@[simp] theorem State.setCtxOf_flash (h : HartId) (x : Ctx) : (s.setCtxOf h x).flash = s.flash := by cases h <;> rfl
@[simp] theorem State.setCtxOf_good (h : HartId) (x : Ctx) : (s.setCtxOf h x).good = s.good := by cases h <;> rfl
@[simp] theorem State.setCtxOf_routers (h : HartId) (x : Ctx) : (s.setCtxOf h x).routers = s.routers := by cases h <;> rfl
@[simp] theorem State.setCtxOf_logical (h : HartId) (x : Ctx) : (s.setCtxOf h x).logical = s.logical := by cases h <;> rfl
@[simp] theorem State.setCtxOf_omitted (h : HartId) (x : Ctx) : (s.setCtxOf h x).omitted = s.omitted := by cases h <;> rfl
@[simp] theorem State.setCtxOf_meas (h : HartId) (x : Ctx) : (s.setCtxOf h x).meas = s.meas := by cases h <;> rfl
@[simp] theorem State.setCtxOf_traceBuf (h : HartId) (x : Ctx) : (s.setCtxOf h x).traceBuf = s.traceBuf := by cases h <;> rfl
@[simp] theorem State.setCtxOf_slate (h : HartId) (x : Ctx) : (s.setCtxOf h x).slate = s.slate := by cases h <;> rfl
@[simp] theorem State.setCtxOf_reels (h : HartId) (x : Ctx) : (s.setCtxOf h x).reels = s.reels := by cases h <;> rfl
@[simp] theorem State.setCtxOf_replayPos (h : HartId) (x : Ctx) : (s.setCtxOf h x).replayPos = s.replayPos := by cases h <;> rfl
@[simp] theorem State.setCtxOf_fatal (h : HartId) (x : Ctx) : (s.setCtxOf h x).fatal = s.fatal := by cases h <;> rfl

/-! ### setPc -/

@[simp] theorem State.setPc_schedule (h : HartId) (x : Word) : (s.setPc h x).schedule = s.schedule := by cases h <;> rfl
@[simp] theorem State.setPc_hart (h : HartId) (x : Word) : (s.setPc h x).hart = s.hart := by cases h <;> rfl
@[simp] theorem State.setPc_freeCtr (h : HartId) (x : Word) : (s.setPc h x).freeCtr = s.freeCtr := by cases h <;> rfl
@[simp] theorem State.setPc_caught (h : HartId) (x : Word) : (s.setPc h x).caught = s.caught := by cases h <;> rfl
@[simp] theorem State.setPc_time (h : HartId) (x : Word) : (s.setPc h x).time = s.time := by cases h <;> rfl
@[simp] theorem State.setPc_aclk (h : HartId) (x : Word) : (s.setPc h x).aclk = s.aclk := by cases h <;> rfl
@[simp] theorem State.setPc_phase (h : HartId) (x : Word) : (s.setPc h x).phase = s.phase := by cases h <;> rfl
@[simp] theorem State.setPc_cores (h : HartId) (x : Word) : (s.setPc h x).cores = s.cores := by cases h <;> rfl
@[simp] theorem State.setPc_deques (h : HartId) (x : Word) : (s.setPc h x).deques = s.deques := by cases h <;> rfl
@[simp] theorem State.setPc_spills (h : HartId) (x : Word) : (s.setPc h x).spills = s.spills := by cases h <;> rfl
@[simp] theorem State.setPc_msgs (h : HartId) (x : Word) : (s.setPc h x).msgs = s.msgs := by cases h <;> rfl
@[simp] theorem State.setPc_tags (h : HartId) (x : Word) : (s.setPc h x).tags = s.tags := by cases h <;> rfl
@[simp] theorem State.setPc_chans (h : HartId) (x : Word) : (s.setPc h x).chans = s.chans := by cases h <;> rfl
@[simp] theorem State.setPc_claims (h : HartId) (x : Word) : (s.setPc h x).claims = s.claims := by cases h <;> rfl
@[simp] theorem State.setPc_bindings (h : HartId) (x : Word) : (s.setPc h x).bindings = s.bindings := by cases h <;> rfl
@[simp] theorem State.setPc_preempts (h : HartId) (x : Word) : (s.setPc h x).preempts = s.preempts := by cases h <;> rfl
@[simp] theorem State.setPc_undeliv (h : HartId) (x : Word) : (s.setPc h x).undeliv = s.undeliv := by cases h <;> rfl
@[simp] theorem State.setPc_syms (h : HartId) (x : Word) : (s.setPc h x).syms = s.syms := by cases h <;> rfl
@[simp] theorem State.setPc_l1 (h : HartId) (x : Word) : (s.setPc h x).l1 = s.l1 := by cases h <;> rfl
@[simp] theorem State.setPc_icache (h : HartId) (x : Word) : (s.setPc h x).icache = s.icache := by cases h <;> rfl
@[simp] theorem State.setPc_tlb (h : HartId) (x : Word) : (s.setPc h x).tlb = s.tlb := by cases h <;> rfl
@[simp] theorem State.setPc_mem (h : HartId) (x : Word) : (s.setPc h x).mem = s.mem := by cases h <;> rfl
@[simp] theorem State.setPc_poison (h : HartId) (x : Word) : (s.setPc h x).poison = s.poison := by cases h <;> rfl
@[simp] theorem State.setPc_owner (h : HartId) (x : Word) : (s.setPc h x).owner = s.owner := by cases h <;> rfl
@[simp] theorem State.setPc_scratch (h : HartId) (x : Word) : (s.setPc h x).scratch = s.scratch := by cases h <;> rfl
@[simp] theorem State.setPc_spoison (h : HartId) (x : Word) : (s.setPc h x).spoison = s.spoison := by cases h <;> rfl
@[simp] theorem State.setPc_resident (h : HartId) (x : Word) : (s.setPc h x).resident = s.resident := by cases h <;> rfl
@[simp] theorem State.setPc_pins (h : HartId) (x : Word) : (s.setPc h x).pins = s.pins := by cases h <;> rfl
@[simp] theorem State.setPc_clflags (h : HartId) (x : Word) : (s.setPc h x).clflags = s.clflags := by cases h <;> rfl
@[simp] theorem State.setPc_faults (h : HartId) (x : Word) : (s.setPc h x).faults = s.faults := by cases h <;> rfl
@[simp] theorem State.setPc_services (h : HartId) (x : Word) : (s.setPc h x).services = s.services := by cases h <;> rfl
@[simp] theorem State.setPc_fused (h : HartId) (x : Word) : (s.setPc h x).fused = s.fused := by cases h <;> rfl
@[simp] theorem State.setPc_wdog (h : HartId) (x : Word) : (s.setPc h x).wdog = s.wdog := by cases h <;> rfl
@[simp] theorem State.setPc_wdogFired (h : HartId) (x : Word) : (s.setPc h x).wdogFired = s.wdogFired := by cases h <;> rfl
@[simp] theorem State.setPc_takes (h : HartId) (x : Word) : (s.setPc h x).takes = s.takes := by cases h <;> rfl
@[simp] theorem State.setPc_takeBusy (h : HartId) (x : Word) : (s.setPc h x).takeBusy = s.takeBusy := by cases h <;> rfl
@[simp] theorem State.setPc_transoms (h : HartId) (x : Word) : (s.setPc h x).transoms = s.transoms := by cases h <;> rfl
@[simp] theorem State.setPc_chunks (h : HartId) (x : Word) : (s.setPc h x).chunks = s.chunks := by cases h <;> rfl
@[simp] theorem State.setPc_tenants (h : HartId) (x : Word) : (s.setPc h x).tenants = s.tenants := by cases h <;> rfl
@[simp] theorem State.setPc_launches (h : HartId) (x : Word) : (s.setPc h x).launches = s.launches := by cases h <;> rfl
@[simp] theorem State.setPc_nextLaunch (h : HartId) (x : Word) : (s.setPc h x).nextLaunch = s.nextLaunch := by cases h <;> rfl
@[simp] theorem State.setPc_posted (h : HartId) (x : Word) : (s.setPc h x).posted = s.posted := by cases h <;> rfl
@[simp] theorem State.setPc_queues (h : HartId) (x : Word) : (s.setPc h x).queues = s.queues := by cases h <;> rfl
@[simp] theorem State.setPc_cpTurn (h : HartId) (x : Word) : (s.setPc h x).cpTurn = s.cpTurn := by cases h <;> rfl
@[simp] theorem State.setPc_hazards (h : HartId) (x : Word) : (s.setPc h x).hazards = s.hazards := by cases h <;> rfl
@[simp] theorem State.setPc_slices (h : HartId) (x : Word) : (s.setPc h x).slices = s.slices := by cases h <;> rfl
@[simp] theorem State.setPc_lastSlice (h : HartId) (x : Word) : (s.setPc h x).lastSlice = s.lastSlice := by cases h <;> rfl
@[simp] theorem State.setPc_lnJobs (h : HartId) (x : Word) : (s.setPc h x).lnJobs = s.lnJobs := by cases h <;> rfl
@[simp] theorem State.setPc_net (h : HartId) (x : Word) : (s.setPc h x).net = s.net := by cases h <;> rfl
@[simp] theorem State.setPc_ingress (h : HartId) (x : Word) : (s.setPc h x).ingress = s.ingress := by cases h <;> rfl
@[simp] theorem State.setPc_ccores (h : HartId) (x : Word) : (s.setPc h x).ccores = s.ccores := by cases h <;> rfl
@[simp] theorem State.setPc_bootCnt (h : HartId) (x : Word) : (s.setPc h x).bootCnt = s.bootCnt := by cases h <;> rfl
@[simp] theorem State.setPc_attns (h : HartId) (x : Word) : (s.setPc h x).attns = s.attns := by cases h <;> rfl
@[simp] theorem State.setPc_irqs (h : HartId) (x : Word) : (s.setPc h x).irqs = s.irqs := by cases h <;> rfl
@[simp] theorem State.setPc_latches (h : HartId) (x : Word) : (s.setPc h x).latches = s.latches := by cases h <;> rfl
@[simp] theorem State.setPc_portDown (h : HartId) (x : Word) : (s.setPc h x).portDown = s.portDown := by cases h <;> rfl
@[simp] theorem State.setPc_peerStores (h : HartId) (x : Word) : (s.setPc h x).peerStores = s.peerStores := by cases h <;> rfl
@[simp] theorem State.setPc_thrCause (h : HartId) (x : Word) : (s.setPc h x).thrCause = s.thrCause := by cases h <;> rfl
@[simp] theorem State.setPc_thrLast (h : HartId) (x : Word) : (s.setPc h x).thrLast = s.thrLast := by cases h <;> rfl
@[simp] theorem State.setPc_ctl (h : HartId) (x : Word) : (s.setPc h x).ctl = s.ctl := by cases h <;> rfl
@[simp] theorem State.setPc_sysRegs (h : HartId) (x : Word) : (s.setPc h x).sysRegs = s.sysRegs := by cases h <;> rfl
@[simp] theorem State.setPc_fuses (h : HartId) (x : Word) : (s.setPc h x).fuses = s.fuses := by cases h <;> rfl
@[simp] theorem State.setPc_flash (h : HartId) (x : Word) : (s.setPc h x).flash = s.flash := by cases h <;> rfl
@[simp] theorem State.setPc_good (h : HartId) (x : Word) : (s.setPc h x).good = s.good := by cases h <;> rfl
@[simp] theorem State.setPc_routers (h : HartId) (x : Word) : (s.setPc h x).routers = s.routers := by cases h <;> rfl
@[simp] theorem State.setPc_logical (h : HartId) (x : Word) : (s.setPc h x).logical = s.logical := by cases h <;> rfl
@[simp] theorem State.setPc_omitted (h : HartId) (x : Word) : (s.setPc h x).omitted = s.omitted := by cases h <;> rfl
@[simp] theorem State.setPc_meas (h : HartId) (x : Word) : (s.setPc h x).meas = s.meas := by cases h <;> rfl
@[simp] theorem State.setPc_traceBuf (h : HartId) (x : Word) : (s.setPc h x).traceBuf = s.traceBuf := by cases h <;> rfl
@[simp] theorem State.setPc_slate (h : HartId) (x : Word) : (s.setPc h x).slate = s.slate := by cases h <;> rfl
@[simp] theorem State.setPc_reels (h : HartId) (x : Word) : (s.setPc h x).reels = s.reels := by cases h <;> rfl
@[simp] theorem State.setPc_replayPos (h : HartId) (x : Word) : (s.setPc h x).replayPos = s.replayPos := by cases h <;> rfl
@[simp] theorem State.setPc_fatal (h : HartId) (x : Word) : (s.setPc h x).fatal = s.fatal := by cases h <;> rfl

/-! ### advance -/

@[simp] theorem State.advance_schedule (h : HartId) : (s.advance h).schedule = s.schedule := by cases h <;> rfl
@[simp] theorem State.advance_hart (h : HartId) : (s.advance h).hart = s.hart := by cases h <;> rfl
@[simp] theorem State.advance_freeCtr (h : HartId) : (s.advance h).freeCtr = s.freeCtr := by cases h <;> rfl
@[simp] theorem State.advance_caught (h : HartId) : (s.advance h).caught = s.caught := by cases h <;> rfl
@[simp] theorem State.advance_time (h : HartId) : (s.advance h).time = s.time := by cases h <;> rfl
@[simp] theorem State.advance_aclk (h : HartId) : (s.advance h).aclk = s.aclk := by cases h <;> rfl
@[simp] theorem State.advance_phase (h : HartId) : (s.advance h).phase = s.phase := by cases h <;> rfl
@[simp] theorem State.advance_cores (h : HartId) : (s.advance h).cores = s.cores := by cases h <;> rfl
@[simp] theorem State.advance_deques (h : HartId) : (s.advance h).deques = s.deques := by cases h <;> rfl
@[simp] theorem State.advance_spills (h : HartId) : (s.advance h).spills = s.spills := by cases h <;> rfl
@[simp] theorem State.advance_msgs (h : HartId) : (s.advance h).msgs = s.msgs := by cases h <;> rfl
@[simp] theorem State.advance_tags (h : HartId) : (s.advance h).tags = s.tags := by cases h <;> rfl
@[simp] theorem State.advance_chans (h : HartId) : (s.advance h).chans = s.chans := by cases h <;> rfl
@[simp] theorem State.advance_claims (h : HartId) : (s.advance h).claims = s.claims := by cases h <;> rfl
@[simp] theorem State.advance_bindings (h : HartId) : (s.advance h).bindings = s.bindings := by cases h <;> rfl
@[simp] theorem State.advance_preempts (h : HartId) : (s.advance h).preempts = s.preempts := by cases h <;> rfl
@[simp] theorem State.advance_undeliv (h : HartId) : (s.advance h).undeliv = s.undeliv := by cases h <;> rfl
@[simp] theorem State.advance_syms (h : HartId) : (s.advance h).syms = s.syms := by cases h <;> rfl
@[simp] theorem State.advance_l1 (h : HartId) : (s.advance h).l1 = s.l1 := by cases h <;> rfl
@[simp] theorem State.advance_icache (h : HartId) : (s.advance h).icache = s.icache := by cases h <;> rfl
@[simp] theorem State.advance_tlb (h : HartId) : (s.advance h).tlb = s.tlb := by cases h <;> rfl
@[simp] theorem State.advance_mem (h : HartId) : (s.advance h).mem = s.mem := by cases h <;> rfl
@[simp] theorem State.advance_poison (h : HartId) : (s.advance h).poison = s.poison := by cases h <;> rfl
@[simp] theorem State.advance_owner (h : HartId) : (s.advance h).owner = s.owner := by cases h <;> rfl
@[simp] theorem State.advance_scratch (h : HartId) : (s.advance h).scratch = s.scratch := by cases h <;> rfl
@[simp] theorem State.advance_spoison (h : HartId) : (s.advance h).spoison = s.spoison := by cases h <;> rfl
@[simp] theorem State.advance_resident (h : HartId) : (s.advance h).resident = s.resident := by cases h <;> rfl
@[simp] theorem State.advance_pins (h : HartId) : (s.advance h).pins = s.pins := by cases h <;> rfl
@[simp] theorem State.advance_clflags (h : HartId) : (s.advance h).clflags = s.clflags := by cases h <;> rfl
@[simp] theorem State.advance_faults (h : HartId) : (s.advance h).faults = s.faults := by cases h <;> rfl
@[simp] theorem State.advance_services (h : HartId) : (s.advance h).services = s.services := by cases h <;> rfl
@[simp] theorem State.advance_fused (h : HartId) : (s.advance h).fused = s.fused := by cases h <;> rfl
@[simp] theorem State.advance_wdog (h : HartId) : (s.advance h).wdog = s.wdog := by cases h <;> rfl
@[simp] theorem State.advance_wdogFired (h : HartId) : (s.advance h).wdogFired = s.wdogFired := by cases h <;> rfl
@[simp] theorem State.advance_takes (h : HartId) : (s.advance h).takes = s.takes := by cases h <;> rfl
@[simp] theorem State.advance_takeBusy (h : HartId) : (s.advance h).takeBusy = s.takeBusy := by cases h <;> rfl
@[simp] theorem State.advance_transoms (h : HartId) : (s.advance h).transoms = s.transoms := by cases h <;> rfl
@[simp] theorem State.advance_chunks (h : HartId) : (s.advance h).chunks = s.chunks := by cases h <;> rfl
@[simp] theorem State.advance_tenants (h : HartId) : (s.advance h).tenants = s.tenants := by cases h <;> rfl
@[simp] theorem State.advance_launches (h : HartId) : (s.advance h).launches = s.launches := by cases h <;> rfl
@[simp] theorem State.advance_nextLaunch (h : HartId) : (s.advance h).nextLaunch = s.nextLaunch := by cases h <;> rfl
@[simp] theorem State.advance_posted (h : HartId) : (s.advance h).posted = s.posted := by cases h <;> rfl
@[simp] theorem State.advance_queues (h : HartId) : (s.advance h).queues = s.queues := by cases h <;> rfl
@[simp] theorem State.advance_cpTurn (h : HartId) : (s.advance h).cpTurn = s.cpTurn := by cases h <;> rfl
@[simp] theorem State.advance_hazards (h : HartId) : (s.advance h).hazards = s.hazards := by cases h <;> rfl
@[simp] theorem State.advance_slices (h : HartId) : (s.advance h).slices = s.slices := by cases h <;> rfl
@[simp] theorem State.advance_lastSlice (h : HartId) : (s.advance h).lastSlice = s.lastSlice := by cases h <;> rfl
@[simp] theorem State.advance_lnJobs (h : HartId) : (s.advance h).lnJobs = s.lnJobs := by cases h <;> rfl
@[simp] theorem State.advance_net (h : HartId) : (s.advance h).net = s.net := by cases h <;> rfl
@[simp] theorem State.advance_ingress (h : HartId) : (s.advance h).ingress = s.ingress := by cases h <;> rfl
@[simp] theorem State.advance_ccores (h : HartId) : (s.advance h).ccores = s.ccores := by cases h <;> rfl
@[simp] theorem State.advance_bootCnt (h : HartId) : (s.advance h).bootCnt = s.bootCnt := by cases h <;> rfl
@[simp] theorem State.advance_attns (h : HartId) : (s.advance h).attns = s.attns := by cases h <;> rfl
@[simp] theorem State.advance_irqs (h : HartId) : (s.advance h).irqs = s.irqs := by cases h <;> rfl
@[simp] theorem State.advance_latches (h : HartId) : (s.advance h).latches = s.latches := by cases h <;> rfl
@[simp] theorem State.advance_portDown (h : HartId) : (s.advance h).portDown = s.portDown := by cases h <;> rfl
@[simp] theorem State.advance_peerStores (h : HartId) : (s.advance h).peerStores = s.peerStores := by cases h <;> rfl
@[simp] theorem State.advance_thrCause (h : HartId) : (s.advance h).thrCause = s.thrCause := by cases h <;> rfl
@[simp] theorem State.advance_thrLast (h : HartId) : (s.advance h).thrLast = s.thrLast := by cases h <;> rfl
@[simp] theorem State.advance_ctl (h : HartId) : (s.advance h).ctl = s.ctl := by cases h <;> rfl
@[simp] theorem State.advance_sysRegs (h : HartId) : (s.advance h).sysRegs = s.sysRegs := by cases h <;> rfl
@[simp] theorem State.advance_fuses (h : HartId) : (s.advance h).fuses = s.fuses := by cases h <;> rfl
@[simp] theorem State.advance_flash (h : HartId) : (s.advance h).flash = s.flash := by cases h <;> rfl
@[simp] theorem State.advance_good (h : HartId) : (s.advance h).good = s.good := by cases h <;> rfl
@[simp] theorem State.advance_routers (h : HartId) : (s.advance h).routers = s.routers := by cases h <;> rfl
@[simp] theorem State.advance_logical (h : HartId) : (s.advance h).logical = s.logical := by cases h <;> rfl
@[simp] theorem State.advance_omitted (h : HartId) : (s.advance h).omitted = s.omitted := by cases h <;> rfl
@[simp] theorem State.advance_meas (h : HartId) : (s.advance h).meas = s.meas := by cases h <;> rfl
@[simp] theorem State.advance_traceBuf (h : HartId) : (s.advance h).traceBuf = s.traceBuf := by cases h <;> rfl
@[simp] theorem State.advance_slate (h : HartId) : (s.advance h).slate = s.slate := by cases h <;> rfl
@[simp] theorem State.advance_reels (h : HartId) : (s.advance h).reels = s.reels := by cases h <;> rfl
@[simp] theorem State.advance_replayPos (h : HartId) : (s.advance h).replayPos = s.replayPos := by cases h <;> rfl
@[simp] theorem State.advance_fatal (h : HartId) : (s.advance h).fatal = s.fatal := by cases h <;> rfl

/-! ### enter -/

@[simp] theorem State.enter_schedule (h : HartId) : (s.enter h).schedule = s.schedule := by cases h <;> rfl
@[simp] theorem State.enter_hart (h : HartId) : (s.enter h).hart = s.hart := by cases h <;> rfl
@[simp] theorem State.enter_freeCtr (h : HartId) : (s.enter h).freeCtr = s.freeCtr := by cases h <;> rfl
@[simp] theorem State.enter_caught (h : HartId) : (s.enter h).caught = s.caught := by cases h <;> rfl
@[simp] theorem State.enter_time (h : HartId) : (s.enter h).time = s.time := by cases h <;> rfl
@[simp] theorem State.enter_aclk (h : HartId) : (s.enter h).aclk = s.aclk := by cases h <;> rfl
@[simp] theorem State.enter_phase (h : HartId) : (s.enter h).phase = s.phase := by cases h <;> rfl
@[simp] theorem State.enter_cores (h : HartId) : (s.enter h).cores = s.cores := by cases h <;> rfl
@[simp] theorem State.enter_deques (h : HartId) : (s.enter h).deques = s.deques := by cases h <;> rfl
@[simp] theorem State.enter_spills (h : HartId) : (s.enter h).spills = s.spills := by cases h <;> rfl
@[simp] theorem State.enter_msgs (h : HartId) : (s.enter h).msgs = s.msgs := by cases h <;> rfl
@[simp] theorem State.enter_tags (h : HartId) : (s.enter h).tags = s.tags := by cases h <;> rfl
@[simp] theorem State.enter_chans (h : HartId) : (s.enter h).chans = s.chans := by cases h <;> rfl
@[simp] theorem State.enter_claims (h : HartId) : (s.enter h).claims = s.claims := by cases h <;> rfl
@[simp] theorem State.enter_bindings (h : HartId) : (s.enter h).bindings = s.bindings := by cases h <;> rfl
@[simp] theorem State.enter_preempts (h : HartId) : (s.enter h).preempts = s.preempts := by cases h <;> rfl
@[simp] theorem State.enter_undeliv (h : HartId) : (s.enter h).undeliv = s.undeliv := by cases h <;> rfl
@[simp] theorem State.enter_syms (h : HartId) : (s.enter h).syms = s.syms := by cases h <;> rfl
@[simp] theorem State.enter_l1 (h : HartId) : (s.enter h).l1 = s.l1 := by cases h <;> rfl
@[simp] theorem State.enter_icache (h : HartId) : (s.enter h).icache = s.icache := by cases h <;> rfl
@[simp] theorem State.enter_tlb (h : HartId) : (s.enter h).tlb = s.tlb := by cases h <;> rfl
@[simp] theorem State.enter_mem (h : HartId) : (s.enter h).mem = s.mem := by cases h <;> rfl
@[simp] theorem State.enter_poison (h : HartId) : (s.enter h).poison = s.poison := by cases h <;> rfl
@[simp] theorem State.enter_owner (h : HartId) : (s.enter h).owner = s.owner := by cases h <;> rfl
@[simp] theorem State.enter_scratch (h : HartId) : (s.enter h).scratch = s.scratch := by cases h <;> rfl
@[simp] theorem State.enter_spoison (h : HartId) : (s.enter h).spoison = s.spoison := by cases h <;> rfl
@[simp] theorem State.enter_resident (h : HartId) : (s.enter h).resident = s.resident := by cases h <;> rfl
@[simp] theorem State.enter_pins (h : HartId) : (s.enter h).pins = s.pins := by cases h <;> rfl
@[simp] theorem State.enter_clflags (h : HartId) : (s.enter h).clflags = s.clflags := by cases h <;> rfl
@[simp] theorem State.enter_faults (h : HartId) : (s.enter h).faults = s.faults := by cases h <;> rfl
@[simp] theorem State.enter_services (h : HartId) : (s.enter h).services = s.services := by cases h <;> rfl
@[simp] theorem State.enter_fused (h : HartId) : (s.enter h).fused = s.fused := by cases h <;> rfl
@[simp] theorem State.enter_wdog (h : HartId) : (s.enter h).wdog = s.wdog := by cases h <;> rfl
@[simp] theorem State.enter_wdogFired (h : HartId) : (s.enter h).wdogFired = s.wdogFired := by cases h <;> rfl
@[simp] theorem State.enter_takes (h : HartId) : (s.enter h).takes = s.takes := by cases h <;> rfl
@[simp] theorem State.enter_takeBusy (h : HartId) : (s.enter h).takeBusy = s.takeBusy := by cases h <;> rfl
@[simp] theorem State.enter_transoms (h : HartId) : (s.enter h).transoms = s.transoms := by cases h <;> rfl
@[simp] theorem State.enter_chunks (h : HartId) : (s.enter h).chunks = s.chunks := by cases h <;> rfl
@[simp] theorem State.enter_tenants (h : HartId) : (s.enter h).tenants = s.tenants := by cases h <;> rfl
@[simp] theorem State.enter_launches (h : HartId) : (s.enter h).launches = s.launches := by cases h <;> rfl
@[simp] theorem State.enter_nextLaunch (h : HartId) : (s.enter h).nextLaunch = s.nextLaunch := by cases h <;> rfl
@[simp] theorem State.enter_posted (h : HartId) : (s.enter h).posted = s.posted := by cases h <;> rfl
@[simp] theorem State.enter_queues (h : HartId) : (s.enter h).queues = s.queues := by cases h <;> rfl
@[simp] theorem State.enter_cpTurn (h : HartId) : (s.enter h).cpTurn = s.cpTurn := by cases h <;> rfl
@[simp] theorem State.enter_hazards (h : HartId) : (s.enter h).hazards = s.hazards := by cases h <;> rfl
@[simp] theorem State.enter_slices (h : HartId) : (s.enter h).slices = s.slices := by cases h <;> rfl
@[simp] theorem State.enter_lastSlice (h : HartId) : (s.enter h).lastSlice = s.lastSlice := by cases h <;> rfl
@[simp] theorem State.enter_lnJobs (h : HartId) : (s.enter h).lnJobs = s.lnJobs := by cases h <;> rfl
@[simp] theorem State.enter_net (h : HartId) : (s.enter h).net = s.net := by cases h <;> rfl
@[simp] theorem State.enter_ingress (h : HartId) : (s.enter h).ingress = s.ingress := by cases h <;> rfl
@[simp] theorem State.enter_ccores (h : HartId) : (s.enter h).ccores = s.ccores := by cases h <;> rfl
@[simp] theorem State.enter_bootCnt (h : HartId) : (s.enter h).bootCnt = s.bootCnt := by cases h <;> rfl
@[simp] theorem State.enter_attns (h : HartId) : (s.enter h).attns = s.attns := by cases h <;> rfl
@[simp] theorem State.enter_irqs (h : HartId) : (s.enter h).irqs = s.irqs := by cases h <;> rfl
@[simp] theorem State.enter_latches (h : HartId) : (s.enter h).latches = s.latches := by cases h <;> rfl
@[simp] theorem State.enter_portDown (h : HartId) : (s.enter h).portDown = s.portDown := by cases h <;> rfl
@[simp] theorem State.enter_peerStores (h : HartId) : (s.enter h).peerStores = s.peerStores := by cases h <;> rfl
@[simp] theorem State.enter_thrCause (h : HartId) : (s.enter h).thrCause = s.thrCause := by cases h <;> rfl
@[simp] theorem State.enter_thrLast (h : HartId) : (s.enter h).thrLast = s.thrLast := by cases h <;> rfl
@[simp] theorem State.enter_ctl (h : HartId) : (s.enter h).ctl = s.ctl := by cases h <;> rfl
@[simp] theorem State.enter_sysRegs (h : HartId) : (s.enter h).sysRegs = s.sysRegs := by cases h <;> rfl
@[simp] theorem State.enter_fuses (h : HartId) : (s.enter h).fuses = s.fuses := by cases h <;> rfl
@[simp] theorem State.enter_flash (h : HartId) : (s.enter h).flash = s.flash := by cases h <;> rfl
@[simp] theorem State.enter_good (h : HartId) : (s.enter h).good = s.good := by cases h <;> rfl
@[simp] theorem State.enter_routers (h : HartId) : (s.enter h).routers = s.routers := by cases h <;> rfl
@[simp] theorem State.enter_logical (h : HartId) : (s.enter h).logical = s.logical := by cases h <;> rfl
@[simp] theorem State.enter_omitted (h : HartId) : (s.enter h).omitted = s.omitted := by cases h <;> rfl
@[simp] theorem State.enter_meas (h : HartId) : (s.enter h).meas = s.meas := by cases h <;> rfl
@[simp] theorem State.enter_traceBuf (h : HartId) : (s.enter h).traceBuf = s.traceBuf := by cases h <;> rfl
@[simp] theorem State.enter_slate (h : HartId) : (s.enter h).slate = s.slate := by cases h <;> rfl
@[simp] theorem State.enter_reels (h : HartId) : (s.enter h).reels = s.reels := by cases h <;> rfl
@[simp] theorem State.enter_replayPos (h : HartId) : (s.enter h).replayPos = s.replayPos := by cases h <;> rfl
@[simp] theorem State.enter_fatal (h : HartId) : (s.enter h).fatal = s.fatal := by cases h <;> rfl

/-! ### Records after an update -/

@[simp] theorem State.setCore_core (c d : Nat) (x : Core) : (s.setCore c x).core d = if d = c then x else s.core d := by
  simp [State.core, State.setCore, SMap.get_set]

@[simp] theorem State.setThread_core (c t d : Nat) (x : Thread) : (s.setThread c t x).core d = s.core d := rfl
@[simp] theorem State.setOctet_core (o d : Nat) (x : Octet) : (s.setOctet o x).core d = s.core d := rfl
@[simp] theorem State.setCtxOf_core (h : HartId) (x : Ctx) (d : Nat) : (s.setCtxOf h x).core d = s.core d := by cases h <;> rfl
@[simp] theorem State.setThread_octet (c t o : Nat) (x : Thread) : (s.setThread c t x).octet o = s.octet o := rfl
@[simp] theorem State.setOctet_octet (o p : Nat) (x : Octet) : (s.setOctet o x).octet p = if p = o then x else s.octet p := by
  simp [State.octet, State.setOctet, SMap.get_set]
@[simp] theorem State.setOctet_thread (o c t : Nat) (x : Octet) : (s.setOctet o x).thread c t = s.thread c t := rfl
@[simp] theorem State.setThread_thread_self (c t : Nat) (x : Thread) : (s.setThread c t x).thread c t = x := by
  simp [State.thread, State.setThread, State.core]

/-- A hart reads the registers that were written to it. -/
@[simp] theorem State.ctxOf_setCtxOf_self (h : HartId) (x : Ctx) : (s.setCtxOf h x).ctxOf h = x := by
  cases h <;> simp [State.ctxOf, State.setCtxOf]

@[simp] theorem State.setCtxOf_tenOf (h g : HartId) (x : Ctx) : (s.setCtxOf h x).tenOf g = s.tenOf g := by
  cases h <;> cases g <;> simp only [State.tenOf, State.setCtxOf, State.setThread_core, State.setThread_octet,
    State.setOctet_core, State.setOctet_octet]
  all_goals (rename_i o _ p _; by_cases hp : p = o <;> simp [hp])

/-- The registers after entering: the hart is ready. -/
@[simp] theorem State.ctxOf_enter (h : HartId) : (s.enter h).ctxOf h = { s.ctxOf h with run := .ready } := by
  cases h <;> simp [State.ctxOf, State.enter, State.setCtxOf]

@[simp] theorem State.ctxOf_setPc (h : HartId) (p : Word) : (s.setPc h p).ctxOf h = { s.ctxOf h with pc := p } := by
  simp [State.setPc]

@[simp] theorem State.ctxOf_advance (h : HartId) :
    (s.advance h).ctxOf h = { s.ctxOf h with pc := BitVec.ofNat 64 (nextPc (s.ctxOf h).pc.toNat) } := by
  simp [State.advance]


end Sys2Proof.Machine
end

