-- ==== Sys2Proof/Laws/Hart.lean ====
section
/-! SUPPORT. An instruction's frame: when the hart is ready, exec runs the effect from the state entered. What reading
an operand answers, and what writing one changes. -/

namespace Sys2Proof.Machine

open Sys2Proof.Safety

variable {s : State}

/-! ### The frame of an instruction -/

theorem runWait_ready {op : Nat} {f : TFields} {body : Bool → M Unit} (hc : s.hartChecks s.hart op f = none)
    (hg : guardTrue f.g (s.ctxOf s.hart) = true) :
    runWait op f body s = .next (s.settle s.hart op f (body (s.resumes s.hart op f) (entered s))) := by
  simp [runWait, hc, hg, entered]

/-- A body that completes gives the next state. -/
theorem runT_ok {op : Nat} {f : TFields} {body : M Unit} {t : State} (hc : s.hartChecks s.hart op f = none)
    (hg : guardTrue f.g (s.ctxOf s.hart) = true) (hb : body (entered s) = .ok ((), t)) :
    runT op f body s = .next t := by
  simp [runT, runWait_ready hc hg, hb, State.settle]

/-- A body that traps with no other effect gives the trap. -/
theorem runT_trap {op k v : Nat} {f : TFields} {body : M Unit} (hc : s.hartChecks s.hart op f = none)
    (hg : guardTrue f.g (s.ctxOf s.hart) = true) (hb : body (entered s) = .error (.trap k v)) :
    runT op f body s = .next (s.takeTrap s.hart k v .plain (ignorableOf op k) (destsOf op f)) := by
  simp [runT, runWait_ready hc hg, hb, State.settle]

/-- A body that waits leaves only the record of the wait. -/
theorem runT_wait {op obj cnt : Nat} {run : RunState} {f : TFields} {body : M Unit} (hc : s.hartChecks s.hart op f = none)
    (hg : guardTrue f.g (s.ctxOf s.hart) = true) (hb : body (entered s) = .error (.wait run obj cnt)) :
    runT op f body s = .next (s.setWait s.hart op f run obj cnt) := by
  simp [runT, runWait_ready hc hg, hb, State.settle]

/-- A false guard: the instruction has no effect but the pc (04 R78). -/
theorem runWait_guarded {op : Nat} {f : TFields} {body : Bool → M Unit} (hc : s.hartChecks s.hart op f = none)
    (hg : guardTrue f.g (s.ctxOf s.hart) = false) : runWait op f body s = .next (entered s) := by
  simp [runWait, hc, hg, entered]

theorem ready_checks {i : Instr} {op : Nat} {f : TFields} (h : ready i s = true) (hf : fieldsOf i = some (op, f)) :
    validHart s.hart = true ∧ s.hartChecks s.hart op f = none ∧ guardTrue f.g (s.ctxOf s.hart) = true := by
  simp only [ready, hf, Bool.and_eq_true, Option.isNone_iff_eq_none] at h
  exact h

/-! ### The state entered -/

@[simp] theorem entered_hart : (entered s).hart = s.hart := by simp [entered]

@[simp] theorem ctxOf_entered : (entered s).ctxOf s.hart = base s := by simp [entered, base]

/-! ### The registers of other harts -/

theorem thKey_inj {a b c d t u : Nat} (hc : c < 1024) (hd : d < 1024) (ht : t < 16) (hu : u < 16)
    (h : thKey a c t = thKey b d u) : a = b ∧ c = d ∧ t = u := by
  simp only [thKey, tcKey] at h; omega

theorem ctxOf_setCtxOf_ne {u : State} {g h : HartId} (x : Ctx) (hg : validHart g = true) (hh : validHart h = true)
    (hne : g ≠ h) : (u.setCtxOf h x).ctxOf g = u.ctxOf g := by
  cases h with
  | core c t =>
    cases g with
    | core d w =>
      simp only [validHart, Bool.and_eq_true, decide_eq_true_eq] at hg hh
      have : thKey (u.core d).tenant d w ≠ thKey (u.core c).tenant c t := by
        intro e
        obtain ⟨-, rfl, rfl⟩ := thKey_inj hg.1 hh.1 hg.2 hh.2 e
        exact hne rfl
      simp [State.ctxOf, State.setCtxOf, State.thread, State.setThread]
      simp [State.core]
      rw [SMap.get_set_ne]
      exact this
    | me _ _ => simp [State.ctxOf, State.setCtxOf]
    | cu _ _ => simp [State.ctxOf, State.setCtxOf]
  | me o q =>
    cases g with
    | core _ _ => simp [State.ctxOf, State.setCtxOf]
    | me p r =>
      by_cases hp : p = o
      · subst hp
        have : r ≠ q := by rintro rfl; exact hne rfl
        simp [State.ctxOf, State.setCtxOf, SMap.get_set_ne _ _ _ this]
      · simp [State.ctxOf, State.setCtxOf, hp]
    | cu p r => by_cases hp : p = o <;> simp [State.ctxOf, State.setCtxOf, hp]
  | cu o q =>
    cases g with
    | core _ _ => simp [State.ctxOf, State.setCtxOf]
    | cu p r =>
      by_cases hp : p = o
      · subst hp
        have : r ≠ q := by rintro rfl; exact hne rfl
        simp [State.ctxOf, State.setCtxOf, SMap.get_set_ne _ _ _ this]
      · simp [State.ctxOf, State.setCtxOf, hp]
    | me p r => by_cases hp : p = o <;> simp [State.ctxOf, State.setCtxOf, hp]

/-! ### Reading operands -/

theorem needPresent_ok {u : State} {k : Nat} (h : (u.ctxOf u.hart).late.get none k = none) :
    needPresent k u = .ok ((), u) := by simp [needPresent, h]

theorem readS_ok {u : State} {n : Nat} {x : Word} (h : scalarOf (u.ctxOf u.hart) n = some x) :
    readS n u = .ok (x, u) := by
  unfold readS
  by_cases hn : n = 0
  · subst hn; simp [scalarOf] at h; subst h; rfl
  · simp only [scalarOf, hn, if_false] at h
    split at h
    · rename_i hl
      simp only [Option.isNone_iff_eq_none] at hl
      injection h with h
      rw [if_neg hn]
      simp only [bind, StateT.bind, Except.bind, needPresent_ok (k := lateKeyS n) hl, getCtx, Ctx.getS, hn, if_false,
        pure, StateT.pure, Except.pure]
      rw [← h]
    · cases h

theorem readOp_ok {u : State} {o : Operand} {x : Word} (h : srcOf u o = some x) : readOp o u = .ok (x, u) := by
  cases o with
  | s n => exact readS_ok h
  | x n =>
    simp only [srcOf] at h
    split at h
    · cases h
    · rename_i ho
      injection h with h
      simp [readOp, readSpecial, bind, StateT.bind, Except.bind, getHart, ho, h]
  | imm v => simp only [srcOf] at h; injection h with h; subst h; rfl
  | _ => cases h

@[simp] theorem octet_setCtxOf_mewt (u : State) (h : HartId) (x : Ctx) (o : Nat) :
    ((u.setCtxOf h x).octet o).mewt = (u.octet o).mewt := by
  cases h <;> simp [State.setCtxOf] <;> split <;> simp_all

@[simp] theorem octet_setCtxOf_tiles (u : State) (h : HartId) (x : Ctx) (o : Nat) :
    ((u.setCtxOf h x).octet o).tiles = (u.octet o).tiles := by
  cases h <;> simp [State.setCtxOf] <;> split <;> simp_all

/-- What the special registers depend on. -/
theorem special_congr {t : State} {h : HartId} (n : Nat)
    (hc : t.ctxOf h = { s.ctxOf h with run := (t.ctxOf h).run, pc := (t.ctxOf h).pc })
    (ht : t.tenOf h = s.tenOf h) (h1 : t.cores = s.cores) (h2 : t.logical = s.logical) (h3 : t.aclk = s.aclk)
    (h4 : t.time = s.time) (h5 : t.syms = s.syms) (h6 : t.clflags = s.clflags) (h7 : t.slices = s.slices)
    (h8 : t.preempts = s.preempts) (h9 : t.undeliv = s.undeliv) (h10 : t.sysRegs = s.sysRegs)
    (h11 : ∀ o, (t.octet o).mewt = (s.octet o).mewt) (h12 : ∀ o, (t.octet o).tiles = (s.octet o).tiles)
    (h13 : t.tenants = s.tenants) (h14 : t.mem = s.mem) :
    t.special h n = s.special h n := by
  have hm : t.mapped = s.mapped := by simp [State.mapped, h10]
  have hcid : ∀ c, t.cidOf c = s.cidOf c := by intro c; simp [State.cidOf, hm]
  have hcore : ∀ c, t.core c = s.core c := by intro c; simp [State.core, h1]
  have hnode : ∀ a b, t.node a b = s.node a b := by
    intro a b
    simp [State.node, State.nodeAddr, State.nodeTable, State.descWord, State.homeNat, State.homeBytes, State.homeByte, h13, h14]
  have hres : ∀ o, t.residentTiles o = s.residentTiles o := by intro o; simp [State.residentTiles, State.tileStale, h12, hnode]
  have hsf : t.symFree h = s.symFree h := by
    cases h <;> simp [State.symFree, coreThread, State.symsUsed, State.sym, h5]
    rw [hc]; rfl
  unfold State.special
  simp only [hcid, hcore, hres, hsf, ht, State.timeNow, h2, h3, h4, h6, h7, h8, h9, h11, State.sysReg, h10]
  rw [hc]

@[simp] theorem enter_tenOf (h g : HartId) : (s.enter h).tenOf g = s.tenOf g := by
  cases h <;> simp only [State.enter, State.setCtxOf_tenOf]
  cases g <;> simp [State.tenOf]

@[simp] theorem entered_tenOf (g : HartId) : (entered s).tenOf g = s.tenOf g := by
  simp [entered, State.advance, State.setPc]

@[simp] theorem enter_octet_mewt (h : HartId) (o : Nat) : ((s.enter h).octet o).mewt = (s.octet o).mewt := by
  cases h <;> simp [State.enter]

@[simp] theorem enter_octet_tiles (h : HartId) (o : Nat) : ((s.enter h).octet o).tiles = (s.octet o).tiles := by
  cases h <;> simp [State.enter]

theorem special_entered (n : Nat) : (entered s).special s.hart n = s.special s.hart n := by
  apply special_congr <;> simp [entered, State.advance, State.setPc]

/-- A source reads the same before and after the hart enters. -/
theorem srcOf_entered (o : Operand) : srcOf (entered s) o = srcOf s o := by
  cases o <;> simp [srcOf, special_entered, base]
  rfl

end Sys2Proof.Machine
end

