-- ==== Sys2Proof/Laws/Memory.lean ====
section
/-! SUPPORT. Home memory: bytes after a write, and the canonical form that every memory operation keeps. -/

namespace Sys2Proof.Machine

/-! ### Bytes -/

theorem writeBytes_wf (m : List Host.Cell) (a : Nat) (bs : List Byte) (h : Memory.wf m = true) :
    Memory.wf (writeBytes m a bs) = true := by
  induction bs generalizing m a with
  | nil => exact h
  | cons b r ih => exact ih _ _ (SMap.wf_set unlistedByte m a b h)

theorem get_writeBytes (m : List Host.Cell) (a : Nat) (bs : List Byte) (x : Nat) :
    SMap.get unlistedByte (writeBytes m a bs) x =
      if a ≤ x ∧ x < a + bs.length then bs.getD (x - a) 0 else SMap.get unlistedByte m x := by
  induction bs generalizing m a with
  | nil => simp [writeBytes]
  | cons b r ih =>
    simp only [writeBytes, ih, SMap.get_set, List.length_cons]
    by_cases hx : x = a
    · subst hx; simp
    · by_cases h : a + 1 ≤ x ∧ x < a + 1 + r.length
      · have h' : a ≤ x ∧ x < a + (r.length + 1) := by omega
        have e : x - a = (x - (a + 1)) + 1 := by omega
        rw [if_pos h, if_pos h', e]; simp
      · have h' : ¬ (a ≤ x ∧ x < a + (r.length + 1)) := by omega
        rw [if_neg h, if_neg h', if_neg hx]

theorem getD_map_range (f : Nat → Byte) (n i : Nat) (d : Byte) (h : i < n) :
    ((List.range n).map f).getD i d = f i := by simp [List.getD, h]

@[simp] theorem bytesOf_length (n x : Nat) : (bytesOf n x).length = n := by
  induction n generalizing x with
  | zero => rfl
  | succ n ih => simp [bytesOf, ih]

/-- The bytes of a number give the number back (00 R5). -/
theorem ofBytes_bytesOf (n x : Nat) : ofBytes (bytesOf n x) = x % 256 ^ n := by
  induction n generalizing x with
  | zero => simp [bytesOf, ofBytes, Nat.mod_one]
  | succ n ih =>
    simp only [bytesOf, ofBytes, ih, BitVec.toNat_ofNat]
    rw [show (256 : Nat) ^ (n + 1) = 256 * 256 ^ n by ring, Nat.mod_mul]
    simp

/-! ### The operations of home memory -/

section
variable (s : State)

@[simp] theorem State.lossNotice_mem (c w : Nat) : (s.lossNotice c w).mem = s.mem := by
  unfold State.lossNotice; simp only []; split <;> rfl

@[simp] theorem State.takeOwner_mem (ag w : Nat) : (s.takeOwner ag w).mem = s.mem := by
  unfold State.takeOwner
  simp only []
  split
  · split <;> simp
  · rfl

theorem foldl_takeOwner_mem (ag : Nat) (ws : List Nat) :
    (ws.foldl (fun s w => State.takeOwner s ag w) s).mem = s.mem := by
  induction ws generalizing s with
  | nil => rfl
  | cons w r ih => simp [List.foldl, ih]

/-- A write at the homes writes exactly its bytes (10 R219). -/
theorem State.homeWrite_mem (ag a : Nat) (bs : List Byte) : (s.homeWrite ag a bs).mem = writeBytes s.mem a bs := by
  simp [State.homeWrite, foldl_takeOwner_mem]

theorem State.homeByte_homeWrite (ag a : Nat) (bs : List Byte) (x : Nat) :
    (s.homeWrite ag a bs).homeByte x = if a ≤ x ∧ x < a + bs.length then bs.getD (x - a) 0 else s.homeByte x := by
  simp [State.homeByte, State.homeWrite_mem, get_writeBytes]

theorem State.homeWrite_wf (ag a : Nat) (bs : List Byte) (h : Memory.wf s.mem = true) :
    Memory.wf (s.homeWrite ag a bs).mem = true := by
  rw [State.homeWrite_mem]; exact writeBytes_wf _ _ _ h

theorem State.homeWriteNat_wf (ag a n x : Nat) (h : Memory.wf s.mem = true) :
    Memory.wf (s.homeWriteNat ag a n x).mem = true := s.homeWrite_wf _ _ _ h

@[simp] theorem State.fillWord_mem (c ten w : Nat) : (s.fillWord c ten w).mem = s.mem := by
  unfold State.fillWord; simp only []; split <;> rfl

@[simp] theorem State.fill_mem (c ten w : Nat) : (s.fill c ten w).mem = s.mem := by
  unfold State.fill
  generalize List.range 16 = l
  induction l generalizing s with
  | nil => rfl
  | cons i r ih => simp [List.foldl, ih]

@[simp] theorem State.l1Store_mem (c ten w off : Nat) (bs : List Byte) : (s.l1Store c ten w off bs).mem = s.mem := by
  unfold State.l1Store; simp only []; split <;> simp

@[simp] theorem State.selfInvalKey_mem (k : Nat) : (s.selfInvalKey k).mem = s.mem := by
  unfold State.selfInvalKey
  split
  · split <;> rfl
  · rfl

@[simp] theorem State.scrWrite_mem (k off : Nat) (bs : List Byte) : (s.scrWrite k off bs).mem = s.mem := rfl

theorem State.writeBackKey_wf (k : Nat) (h : Memory.wf s.mem = true) : Memory.wf (s.writeBackKey k).mem = true := by
  unfold State.writeBackKey
  simp only []
  split
  · split
    · simpa using writeBytes_wf _ _ _ h
    · exact h
  · exact h

/-- A fold of updates that keep the canonical form keeps it. -/
theorem foldl_mem_wf {α : Type} (f : State → α → State) (hf : ∀ s a, Memory.wf s.mem = true → Memory.wf (f s a).mem = true)
    (l : List α) (h : Memory.wf s.mem = true) : Memory.wf (l.foldl f s).mem = true := by
  induction l generalizing s with
  | nil => exact h
  | cons a r ih => exact ih _ (hf s a h)

theorem State.evictLine_wf (l1 line : Nat) (h : Memory.wf s.mem = true) : Memory.wf (s.evictLine l1 line).mem = true := by
  unfold State.evictLine
  simp only []
  generalize (List.range 32).map _ = ks
  exact foldl_mem_wf s State.writeBackKey (fun s k => s.writeBackKey_wf k) _ h

/-- Memory is canonical after reset. -/
theorem reset_memory_wf : Safety.MemoryCanonical State.reset := by
  unfold Safety.MemoryCanonical State.reset; decide

end

end Sys2Proof.Machine
end

