-- ==== Sys2Proof/Laws/Writes.lean ====
section
/-! SUPPORT. What the writes of an instruction change: from the state entered, each write of a register or flag changes
the hart's registers and nothing else. -/

namespace Sys2Proof.Machine

open Sys2Proof.Safety

variable {s : State}

/-! ### The symbols that a context refers to -/

theorem symRefs_go (l : SMap (Option Late)) (acc : List Nat) (j : Nat) :
    (l.foldl (fun a e => match e.2 with | some x => if a.contains x.sym then a else a ++ [x.sym] | none => a) acc).contains j
      = true ↔ acc.contains j = true ∨ ∃ e ∈ l, ∃ x, e.2 = some x ∧ x.sym = j := by
  induction l generalizing acc with
  | nil => simp
  | cons e r ih =>
    rw [List.foldl_cons, ih]
    cases he : e.2 with
    | none => simp [he]
    | some x =>
      by_cases hx : acc.contains x.sym = true
      · simp only [hx, if_true]
        constructor
        · rintro (h | h)
          · exact .inl h
          · obtain ⟨a, ha, y, hy, rfl⟩ := h; exact .inr ⟨a, by simp [ha], y, hy, rfl⟩
        · rintro (h | ⟨a, ha, y, hy, rfl⟩)
          · exact .inl h
          · rcases List.mem_cons.1 ha with rfl | ha
            · rw [he] at hy; injection hy with hy; subst hy; exact .inl hx
            · exact .inr ⟨a, ha, y, hy, rfl⟩
      · simp only [hx]
        constructor
        · rintro (h | ⟨a, ha, y, hy, rfl⟩)
          · simp only [Bool.false_eq_true, if_false, List.contains_append, Bool.or_eq_true] at h
            rcases h with h | h
            · exact .inl h
            · simp at h; exact .inr ⟨e, by simp, x, he, h.symm⟩
          · exact .inr ⟨a, by simp [ha], y, hy, rfl⟩
        · rintro (h | ⟨a, ha, y, hy, rfl⟩)
          · left; simp at h ⊢; exact .inl h
          · rcases List.mem_cons.1 ha with rfl | ha
            · rw [he] at hy; injection hy with hy; subst hy; left; simp
            · exact .inr ⟨a, ha, y, hy, rfl⟩

theorem mem_symRefs (c : Ctx) (j : Nat) : c.symRefs.contains j = true ↔ ∃ e ∈ c.late, ∃ x, e.2 = some x ∧ x.sym = j := by
  exact (symRefs_go c.late [] j).trans (by simp)

theorem mem_of_get {α : Type} {m : SMap (Option α)} {k : Nat} {x : α} (h : SMap.get none m k = some x) :
    (k, some x) ∈ m := by
  induction m with
  | nil => cases h
  | cons e r ih =>
    obtain ⟨j, v⟩ := e
    simp only [SMap.get] at h
    split at h
    · rename_i hk; subst hk; simp [h]
    · exact List.mem_cons_of_mem _ (ih h)

theorem mem_del {α : Type} {m : SMap α} {k : Nat} {e : Nat × α} (h : e ∈ SMap.del m k) : e ∈ m := by
  induction m with
  | nil => cases h
  | cons a r ih =>
    obtain ⟨j, v⟩ := a
    simp only [SMap.del] at h
    split at h
    · exact List.mem_cons_of_mem _ (ih h)
    · rcases List.mem_cons.1 h with h | h
      · simp [h]
      · exact List.mem_cons_of_mem _ (ih h)

theorem symRefs_clear {c : Ctx} {k j : Nat} (h : ({ c with late := c.late.set none k none } : Ctx).symRefs.contains j = true) :
    c.symRefs.contains j = true := by
  rw [mem_symRefs] at h ⊢
  obtain ⟨e, he, x, hx⟩ := h
  exact ⟨e, mem_del (by simpa [SMap.set] using he), x, hx⟩

/-! ### Steps of an effect that change the hart's registers only -/

/-- `HartOnly`, with the fact that the registers refer to no symbol that they did not refer to before. -/
structure HartStep (s t : State) (c : Ctx) (fl : Flags) : Prop where
  only : HartOnly s t c fl
  refs : ∀ j, c.symRefs.contains j = true → (s.ctxOf s.hart).symRefs.contains j = true

theorem rest_field {t : State} {c : Ctx} {fl : Flags} (h : HartOnly s t c fl) {α : Type} (p : State → α)
    (hp : p { t with threads := s.threads, octets := s.octets, syms := s.syms, clflags := s.clflags } = p t) : p t = p s := by
  rw [← hp, h.rest]

theorem hartOnly_hart {t : State} {c : Ctx} {fl : Flags} (h : HartOnly s t c fl) : t.hart = s.hart := rest_field h State.hart rfl
theorem hartOnly_cores {t : State} {c : Ctx} {fl : Flags} (h : HartOnly s t c fl) : t.cores = s.cores := rest_field h State.cores rfl

theorem hartOnly_tenOf {t : State} {c : Ctx} {fl : Flags} (h : HartOnly s t c fl) (g : HartId) : t.tenOf g = s.tenOf g := by
  cases g with
  | core d n => simp [State.tenOf, State.core, hartOnly_cores h]
  | me o q =>
    have := congrArg Octet.queues (h.octets o)
    simp only at this
    simp [State.tenOf, this]
  | cu o q =>
    have := congrArg Octet.chans (h.octets o)
    simp only at this
    simp [State.tenOf, this]

/-- Entering an instruction changes the hart's registers only. -/
theorem hartStep_entered (hv : validHart s.hart = true) : HartStep s (entered s) (base s) 0 := by
  refine ⟨⟨ctxOf_entered, ?_, ?_, ?_, ?_, ?_, ?_, ?_, ?_, ?_, ?_⟩, ?_⟩
  · intro g hg hne
    simp only [entered, State.advance, State.setPc]
    rw [ctxOf_setCtxOf_ne _ hg hv hne]
    cases hh : s.hart with
    | core c t =>
      simp only [State.enter]
      cases g with
      | core d w =>
        rw [hh] at hv hne
        have := ctxOf_setCtxOf_ne (u := s) { s.ctxOf (.core c t) with run := .ready } hg hv hne
        simp only [State.ctxOf, State.setCtxOf] at this ⊢
        simp only [validHart, Bool.and_eq_true, decide_eq_true_eq] at hg hv
        have hk : thKey (s.core d).tenant d w ≠ thKey (s.core c).tenant c t := by
          intro e
          obtain ⟨-, rfl, rfl⟩ := thKey_inj hg.1 hv.1 hg.2 hv.2 e
          exact hne rfl
        simp only [State.thread, State.setThread, State.core] at hk ⊢
        rw [SMap.get_set_ne _ _ _ hk]
      | me _ _ => simp [State.ctxOf]
      | cu _ _ => simp [State.ctxOf]
    | me o q => rw [hh] at hv hne; exact ctxOf_setCtxOf_ne _ hg hv hne
    | cu o q => rw [hh] at hv hne; exact ctxOf_setCtxOf_ne _ hg hv hne
  · intro k
    cases hh : s.hart with
    | core c t =>
      simp only [entered, hh, State.enter, State.advance, State.setPc, State.setCtxOf, State.setThread, SMap.get_set, State.core, State.thread, State.ctxOf]
      split <;> rename_i hk
      · subst hk; simp
      · rfl
    | me o q => simp [entered, hh, State.enter, State.advance, State.setPc, State.setCtxOf]
    | cu o q => simp [entered, hh, State.enter, State.advance, State.setPc, State.setCtxOf]
  · intro hw k
    cases hh : s.hart with
    | core c t =>
      rw [hh] at hw
      simp only [State.ctxOf, State.thread] at hw
      simp only [entered, hh, State.enter, State.advance, State.setPc, State.setCtxOf, State.setThread, SMap.get_set, State.core, State.thread, State.ctxOf] at hw ⊢
      split <;> rename_i hk
      · subst hk; simp [hw]
      · rfl
    | me o q => simp [entered, hh, State.enter, State.advance, State.setPc, State.setCtxOf]
    | cu o q => simp [entered, hh, State.enter, State.advance, State.setPc, State.setCtxOf]
  · intro o
    cases hh : s.hart with
    | core c t => simp [entered, hh, State.enter, State.advance, State.setPc, State.setCtxOf]
    | me p q =>
      by_cases hp : o = p
      · subst hp; simp [entered, hh, State.enter, State.advance, State.setPc, State.setCtxOf]
      · simp [entered, hh, State.enter, State.advance, State.setPc, State.setCtxOf, hp]
    | cu p q =>
      by_cases hp : o = p
      · subst hp; simp [entered, hh, State.enter, State.advance, State.setPc, State.setCtxOf]
      · simp [entered, hh, State.enter, State.advance, State.setPc, State.setCtxOf, hp]
  · cases hh : s.hart <;> simp only [entered, hh, State.enter, State.advance, State.setPc, State.setCtxOf, State.setThread, State.setOctet] <;> cases s <;> simp_all
  · intro k; simp [entered]
  · intro k; left; simp [entered]
  · intro a; simp [State.homeByte, entered]
  · intro d w; simp [State.l1Get, State.l1Of, entered]
  · intro k off n; simp [State.scrBytes, entered]
  · intro j h; exact h

/-- Changing the hart's registers, their late entries kept. -/
theorem HartStep_setCtx {t : State} {c : Ctx} {fl : Flags} (hv : validHart s.hart = true) (h : HartStep s t c fl) (d : Ctx)
    (hd : d.late = c.late) : HartStep s (t.setCtxOf s.hart d) d fl := by
  have hr : d.symRefs = c.symRefs := by simp [Ctx.symRefs, hd]
  have ho := h.only
  refine ⟨⟨by simp, ?_, ?_, ?_, ?_, ?_, ?_, ?_, ?_, ?_, ?_⟩, ?_⟩
  · intro g hg hne; rw [ctxOf_setCtxOf_ne _ hg hv hne]; exact ho.others g hg hne
  · intro k
    rw [← ho.threads k]
    cases hh : s.hart with
    | core a b =>
      simp only [State.setCtxOf, State.setThread, SMap.get_set, State.thread]
      split <;> rename_i hk
      · subst hk; rfl
      · rfl
    | me _ _ => rfl
    | cu _ _ => rfl
  · intro hw k
    rw [← ho.stamps hw k]
    cases hh : s.hart with
    | core a b =>
      simp only [State.setCtxOf, State.setThread, SMap.get_set, State.thread]
      split <;> rename_i hk
      · subst hk; rfl
      · rfl
    | me _ _ => rfl
    | cu _ _ => rfl
  · intro o
    rw [← ho.octets o]
    cases hh : s.hart with
    | core a b => rfl
    | me p q =>
      by_cases hp : o = p
      · subst hp; simp [State.setCtxOf]
      · simp [State.setCtxOf, hp]
    | cu p q =>
      by_cases hp : o = p
      · subst hp; simp [State.setCtxOf]
      · simp [State.setCtxOf, hp]
  · refine Eq.trans ?_ ho.rest
    cases s.hart <;> rfl
  · intro k; simpa using ho.flags k
  · intro k; simpa [hr] using ho.symbols k
  · intro a; simpa [State.homeByte] using ho.bytes a
  · intro a w; simpa [State.l1Get, State.l1Of] using ho.cached a w
  · intro k off n; simpa [State.scrBytes] using ho.scratch k off n
  · intro j hj; exact h.refs j (hr ▸ hj)

/-- The flags of a hart that is no core thread reach no accumulator. -/
theorem HartStep_reflag {t : State} {c : Ctx} {fl : Flags} (h : HartStep s t c fl) (hc : isCore s.hart = false) (g : Flags) :
    HartStep s t c g :=
  ⟨{ h.only with flags := by intro k; have := h.only.flags k; simpa [hc] using this }, h.refs⟩

/-- Raising flags. -/
theorem HartStep_raise {t : State} {c : Ctx} {fl : Flags} (hv : validHart s.hart = true) (h : HartStep s t c fl) (g : Flags) :
    HartStep s (t.raiseFlags s.hart g) (addFlags c g) (fl ||| g) := by
  by_cases hg : g = 0
  · subst hg; simpa [State.raiseFlags, addFlags] using h
  · have hc := h.only.regs
    have h1 := HartStep_setCtx hv h (addFlags c g) rfl
    have ht : t.tenOf s.hart = s.tenOf s.hart := hartOnly_tenOf h.only _
    have hf := h.only.flags
    rcases hh : s.hart with ⟨a, b⟩ | ⟨a, b⟩ | ⟨a, b⟩
    · rw [hh] at h1 ht hf hc
      have key : t.raiseFlags (.core a b) g = { t.setCtxOf (.core a b) (addFlags c g) with
          clflags := t.clflags.set 0 (clusterOf (.core a b) * 32 + t.tenOf (.core a b))
            (t.clflags.get 0 (clusterOf (.core a b) * 32 + t.tenOf (.core a b)) ||| g) } := by
        unfold State.raiseFlags; rw [if_neg hg]; simp only [hc]; rfl
      rw [key]
      have ho := h1.only
      refine ⟨⟨?_, ?_, ho.threads, ho.stamps, ho.octets, ?_, ?_, ho.symbols, ho.bytes, ho.cached, ho.scratch⟩, h1.refs⟩
      · exact ho.regs
      · exact ho.others
      · exact ho.rest
      · intro k
        simp only [hh, SMap.get_set, ht, isCore, true_and] at hf ⊢
        split <;> rename_i hk
        · subst hk; rw [hf]; simp [BitVec.or_assoc]
        · rw [hf]; simp [hk]
    · have key : t.raiseFlags (.me a b) g = t.setCtxOf (.me a b) (addFlags c g) := by
        rw [hh] at hc; unfold State.raiseFlags; rw [if_neg hg]; simp only [hc]; rfl
      rw [key]
      exact HartStep_reflag (hh ▸ h1) (by rw [hh]; rfl) _
    · have key : t.raiseFlags (.cu a b) g = t.setCtxOf (.cu a b) (addFlags c g) := by
        rw [hh] at hc; unfold State.raiseFlags; rw [if_neg hg]; simp only [hc]; rfl
      rw [key]
      exact HartStep_reflag (hh ▸ h1) (by rw [hh]; rfl) _

/-- Clearing a late entry: a symbol that loses its last reference is freed. -/
theorem HartStep_clearLate {t : State} {c : Ctx} {fl : Flags} (hv : validHart s.hart = true) (h : HartStep s t c fl) (k : Nat) :
    HartStep s (t.setLate s.hart k none) { c with late := c.late.set none k none } fl := by
  have hc := h.only.regs
  -- the entry is cleared first
  have h0 : ∀ j, ({ c with late := c.late.set none k none } : Ctx).symRefs.contains j = true → c.symRefs.contains j = true :=
    fun j => symRefs_clear
  have h1 : HartStep s (t.setCtxOf s.hart { c with late := c.late.set none k none }) { c with late := c.late.set none k none } fl := by
    have key : HartOnly s (t.setCtxOf s.hart { c with late := c.late.set none k none }) { c with late := c.late.set none k none } fl := by
      have ho := h.only
      refine ⟨by simp, ?_, ?_, ?_, ?_, ?_, ?_, ?_, ?_, ?_, ?_⟩
      · intro g hg hne; rw [ctxOf_setCtxOf_ne _ hg hv hne]; exact ho.others g hg hne
      · intro i
        rw [← ho.threads i]
        cases hh : s.hart with
        | core a b =>
          simp only [State.setCtxOf, State.setThread, SMap.get_set, State.thread]
          split <;> rename_i hk
          · subst hk; rfl
          · rfl
        | me _ _ => rfl
        | cu _ _ => rfl
      · intro hw i
        rw [← ho.stamps hw i]
        cases hh : s.hart with
        | core a b =>
          simp only [State.setCtxOf, State.setThread, SMap.get_set, State.thread]
          split <;> rename_i hk
          · subst hk; rfl
          · rfl
        | me _ _ => rfl
        | cu _ _ => rfl
      · intro o
        rw [← ho.octets o]
        cases hh : s.hart with
        | core a b => rfl
        | me p q =>
          by_cases hp : o = p
          · subst hp; simp [State.setCtxOf]
          · simp [State.setCtxOf, hp]
        | cu p q =>
          by_cases hp : o = p
          · subst hp; simp [State.setCtxOf]
          · simp [State.setCtxOf, hp]
      · refine Eq.trans ?_ ho.rest
        cases s.hart <;> rfl
      · intro i; simpa using ho.flags i
      · intro i
        rcases ho.symbols i with h2 | ⟨h2, d, n, j, h3, h4, h5, h6⟩
        · left; simpa using h2
        · right
          refine ⟨by simpa using h2, d, n, j, h3, h4, h5, ?_⟩
          by_contra hx
          have := h0 j (by simpa using hx)
          rw [this] at h6; cases h6
      · intro a; simpa [State.homeByte] using ho.bytes a
      · intro a w; simpa [State.l1Get, State.l1Of] using ho.cached a w
      · intro i off n; simpa [State.scrBytes] using ho.scratch i off n
    exact ⟨key, fun j hj => h.refs j (h0 j hj)⟩
  -- then the symbol is freed where nothing refers to it
  unfold State.setLate
  simp only [hc]
  cases hl : c.late.get none k with
  | none => exact h1
  | some l =>
    have hin : (s.ctxOf s.hart).symRefs.contains l.sym = true := by
      apply h.refs; rw [mem_symRefs]; exact ⟨_, mem_of_get hl, l, rfl, rfl⟩
    simp only [State.freeUnref]
    rcases hh : s.hart with ⟨a, b⟩ | ⟨a, b⟩ | ⟨a, b⟩
    · rw [hh] at h1
      simp only [coreThread]
      split
      · exact h1
      · rename_i hn
        have hreg : ((t.setCtxOf (.core a b) { c with late := c.late.set none k none }).ctxOf (.core a b)) = { c with late := c.late.set none k none } := by simp
        rw [hreg] at hn
        have ho := h1.only
        refine ⟨⟨?_, ho.others, ho.threads, ho.stamps, ho.octets, ho.rest, ho.flags, ?_, ho.bytes, ho.cached, ho.scratch⟩, h1.refs⟩
        · exact ho.regs
        · intro i
          simp only [State.setSym, SMap.get_set]
          by_cases hi : i = a * 256 + l.sym
          · right; simp only [hi, if_true, true_and]
            exact ⟨a, b, l.sym, hh, rfl, hin, by simpa using hn⟩
          · simp only [hi, if_false]; exact ho.symbols i
    · rw [hh] at h1; exact h1
    · rw [hh] at h1; exact h1

theorem HartStep_writeS {t : State} {c : Ctx} {fl : Flags} (hv : validHart s.hart = true) (h : HartStep s t c fl) (n : Nat) (x : Word) :
    HartStep s (t.writeS s.hart n x) (setS c n x) fl := by
  unfold State.writeS setS
  split
  · exact h
  · have h1 := HartStep_clearLate hv h n
    have h2 := HartStep_setCtx hv h1 { c with s := c.s.set 0 n x, late := c.late.set none n none } rfl
    simpa [lateKeyS, h1.only.regs] using h2

theorem HartStep_writeV {t : State} {c : Ctx} {fl : Flags} (hv : validHart s.hart = true) (h : HartStep s t c fl) (n : Nat) (x : Vec) :
    HartStep s (t.writeV s.hart n x) (setV c n x) fl := by
  unfold State.writeV setV
  have h1 := HartStep_clearLate hv h (64 + n)
  have h2 := HartStep_setCtx hv h1 { c with v := c.v.set 0 n x, late := c.late.set none (64 + n) none } rfl
  simpa [lateKeyV, h1.only.regs] using h2

theorem HartStep_writeP {t : State} {c : Ctx} {fl : Flags} (hv : validHart s.hart = true) (h : HartStep s t c fl) (n : Nat) (x : Pred) :
    HartStep s (t.writeP s.hart n x) (setP c n x) fl := by
  unfold State.writeP setP
  split
  · exact h
  · simpa [h.only.regs] using HartStep_setCtx hv h { c with p := c.p.set 0 n x } rfl

/-! ### An integer destination -/

@[simp] theorem raiseFlags_hart (u : State) (h : HartId) (fl : Flags) : (u.raiseFlags h fl).hart = u.hart := by
  unfold State.raiseFlags
  split
  · rfl
  · cases h <;> simp

@[simp] theorem raiseFlags_zero (u : State) (h : HartId) : u.raiseFlags h 0 = u := by simp [State.raiseFlags]

theorem hartStep_raised (hv : validHart s.hart = true) (fl : Flags) :
    HartStep s ((entered s).raiseFlags s.hart fl) (addFlags (base s) fl) fl := by
  simpa using HartStep_raise hv (hartStep_entered hv) fl

theorem writeSpecial_ok {u : State} {n : Nat} {x : Word} (h : specialOk u n x = true) :
    ∃ t, writeSpecial n x u = .ok ((), t) ∧ u.setSpecial u.hart n x = some t := by
  simp only [specialOk, Bool.and_eq_true, Bool.not_eq_true'] at h
  obtain ⟨h1, h2⟩ := h
  obtain ⟨t, ht⟩ := Option.isSome_iff_exists.1 h2
  refine ⟨t, ?_, ht⟩
  have h3 : (decide (n = 0x001) && (u.ctxOf u.hart).anyLateV) = false := by
    by_cases hn : n = 1 <;> simp_all
  simp only [writeSpecial, bind, StateT.bind, Except.bind, getHart, getCtx]
  rw [if_neg (by simpa using h3)]
  simp [ht]

/-- Writing an integer destination completes, and changes what `Wrote` says. -/
theorem writeOp_ok {fl : Flags} {o : Operand} {x : Word} (hv : validHart s.hart = true) (h : canWrite s fl o x = true) :
    ∃ t, writeOp o x ((entered s).raiseFlags s.hart fl) = .ok ((), t) ∧ Wrote s t fl o x := by
  cases o with
  | s n => exact ⟨_, rfl, by simpa [Wrote] using (HartStep_writeS hv (hartStep_raised hv fl) n.toNat x).only⟩
  | x n =>
    obtain ⟨t, h1, h2⟩ := writeSpecial_ok (u := (entered s).raiseFlags s.hart fl) h
    exact ⟨t, h1, by simpa [Wrote] using h2⟩
  | _ => cases h

/-- The same where no flag is raised. -/
theorem writeOp_ok0 {o : Operand} {x : Word} (hv : validHart s.hart = true) (h : canWrite s 0 o x = true) :
    ∃ t, writeOp o x (entered s) = .ok ((), t) ∧ Wrote s t 0 o x := by
  have := writeOp_ok hv h
  rwa [raiseFlags_zero] at this

end Sys2Proof.Machine
end

