-- ==== Sys2Proof/Laws/Operands.lean ====
section
/-! SUPPORT. Reading the sources of an instruction, and the two shapes of the integer instructions. -/

open Sys2Proof Sys2Proof.Machine Sys2Proof.Safety

namespace Sys2Proof.Laws

/-- A part that succeeds hands its value and its state on. -/
theorem M_bind {α β : Type} {m : M α} {k : α → M β} {u v : State} {a : α} (h : m u = .ok (a, v)) : (m >>= k) u = k a v := by
  simp [bind, StateT.bind, Except.bind, h]

/-- A present source is read from before the instruction, and the read changes nothing. -/
theorem src_ok {s : State} {o : Operand} {x : Word} (h : srcOf s o = some x) : readOp o (entered s) = .ok (x, entered s) :=
  readOp_ok (by rw [srcOf_entered]; exact h)

/-- A field without an operand reads as 0. -/
theorem field_ok {s : State} {o : Operand} {x : Word} (h : (if o = .none then some 0 else srcOf s o) = some x) :
    readOp o (entered s) = .ok (x, entered s) := by
  split at h
  · subst_vars; injection h with h; subst h; rfl
  · exact src_ok h

/-- An instruction of two sources writes the value of its function to D, where D can take it. -/
theorem intBinary_ok {s : State} {f : TFields} {g : Word → Word → Word} {a b : Word} {op : Nat} {i : Instr}
    (hf : fieldsOf i = some (op, f)) (hr : ready i s = true)
    (ha : (if f.a = .none then some 0 else srcOf s f.a) = some a) (hb : (if f.b = .none then some 0 else srcOf s f.b) = some b)
    (hw : canWrite s 0 f.d (g a b) = true) :
    ∃ t, runT op f (intBinary f g) s = .next t ∧ Wrote s t 0 f.d (g a b) := by
  obtain ⟨hv, hc, hg⟩ := ready_checks hr hf
  obtain ⟨t, ht, hwr⟩ := writeOp_ok0 hv hw
  refine ⟨t, runT_ok hc hg ?_, hwr⟩
  unfold intBinary
  rw [M_bind (field_ok ha), M_bind (field_ok hb), ht]

/-- An instruction of one source writes the value of its function to D, where D can take it. -/
theorem intUnary_ok {s : State} {f : TFields} {g : Word → Word} {a : Word} {op : Nat} {i : Instr}
    (hf : fieldsOf i = some (op, f)) (hr : ready i s = true)
    (ha : (if f.a = .none then some 0 else srcOf s f.a) = some a) (hw : canWrite s 0 f.d (g a) = true) :
    ∃ t, runT op f (intUnary f g) s = .next t ∧ Wrote s t 0 f.d (g a) := by
  obtain ⟨hv, hc, hg⟩ := ready_checks hr hf
  obtain ⟨t, ht, hwr⟩ := writeOp_ok0 hv hw
  refine ⟨t, runT_ok hc hg ?_, hwr⟩
  unfold intUnary
  rw [M_bind (field_ok ha), ht]

/-- A scalar source of a floating-point instruction is the low half of its register, or its immediate converted. -/
theorem readFp_ok {s : State} {o : Operand} {x : Nat} (h : fpOf s o = some x) : readFp o (entered s) = .ok (x, entered s) := by
  cases o with
  | s n =>
    simp only [fpOf, Option.map_eq_some_iff] at h
    obtain ⟨y, hy, rfl⟩ := h
    have : readS n.toNat (entered s) = .ok (y, entered s) := readS_ok (by rw [entered_hart, ctxOf_entered]; exact hy)
    show (readS n.toNat >>= fun y => pure (y.toNat % 2 ^ 32)) (entered s) = _
    rw [M_bind this]; rfl
  | imm v => simp only [fpOf] at h; injection h with h; subst h; rfl
  | _ => cases h

end Sys2Proof.Laws
end

