-- ==== Sys2Proof/Laws/PerInstr.lean ====
section
/-! SUPPORT. Each instruction is the one that its opcode, its format and its M bits select (04 R87). -/

open Sys2Proof Sys2Proof.Machine

namespace Sys2Proof.Laws.Form

/-- The opcode and the fields of an instruction select it, where its M bits are those of its row. -/
def Statement (i : Instr) : Prop :=
  ∀ (op : Nat) (fs : Fields), opFields i = some (op, fs) → formOk i = true → instrOf op fs = some i

/-- What gives the constructor back from the opcode's entry. -/
theorem of_entry (i : Instr) (op : Nat) (fs : Fields) (h : opFields i = some (op, fs)) (e : formOk i = true → instrOf op fs = some i) :
    Statement i := by
  intro o g k w
  rw [h] at k
  cases k
  exact e w

/-- A step of another agent has no opcode. -/
theorem of_none (i : Instr) (h : opFields i = none) : Statement i := by
  intro o g k
  rw [h] at k
  cases k

theorem add (f : TFields) : Statement (.add f) := of_entry (.add f) 0x000 (.t f) rfl (fun _ => rfl)
theorem sub (f : TFields) : Statement (.sub f) := of_entry (.sub f) 0x001 (.t f) rfl (fun _ => rfl)
theorem mul (f : TFields) : Statement (.mul f) := of_entry (.mul f) 0x002 (.t f) rfl (fun _ => rfl)
theorem mulh (f : TFields) : Statement (.mulh f) := of_entry (.mulh f) 0x003 (.t f) rfl (fun _ => rfl)
theorem mulhu (f : TFields) : Statement (.mulhu f) := of_entry (.mulhu f) 0x004 (.t f) rfl (fun _ => rfl)
theorem div (f : TFields) : Statement (.div f) := of_entry (.div f) 0x005 (.t f) rfl (fun _ => rfl)
theorem divu (f : TFields) : Statement (.divu f) := of_entry (.divu f) 0x006 (.t f) rfl (fun _ => rfl)
theorem rem (f : TFields) : Statement (.rem f) := of_entry (.rem f) 0x007 (.t f) rfl (fun _ => rfl)
theorem remu (f : TFields) : Statement (.remu f) := of_entry (.remu f) 0x008 (.t f) rfl (fun _ => rfl)
theorem and (f : TFields) : Statement (.and f) := of_entry (.and f) 0x009 (.t f) rfl (fun _ => rfl)
theorem or (f : TFields) : Statement (.or f) := of_entry (.or f) 0x00A (.t f) rfl (fun _ => rfl)
theorem xor (f : TFields) : Statement (.xor f) := of_entry (.xor f) 0x00B (.t f) rfl (fun _ => rfl)
theorem andn (f : TFields) : Statement (.andn f) := of_entry (.andn f) 0x00C (.t f) rfl (fun _ => rfl)
theorem shl (f : TFields) : Statement (.shl f) := of_entry (.shl f) 0x00D (.t f) rfl (fun _ => rfl)
theorem shr (f : TFields) : Statement (.shr f) := of_entry (.shr f) 0x00E (.t f) rfl (fun _ => rfl)
theorem sra (f : TFields) : Statement (.sra f) := of_entry (.sra f) 0x00F (.t f) rfl (fun _ => rfl)
theorem rol (f : TFields) : Statement (.rol f) := of_entry (.rol f) 0x010 (.t f) rfl (fun _ => rfl)
theorem min (f : TFields) : Statement (.min f) := of_entry (.min f) 0x011 (.t f) rfl (fun _ => rfl)
theorem max (f : TFields) : Statement (.max f) := of_entry (.max f) 0x012 (.t f) rfl (fun _ => rfl)
theorem minu (f : TFields) : Statement (.minu f) := of_entry (.minu f) 0x013 (.t f) rfl (fun _ => rfl)
theorem maxu (f : TFields) : Statement (.maxu f) := of_entry (.maxu f) 0x014 (.t f) rfl (fun _ => rfl)
theorem abs (f : TFields) : Statement (.abs f) := of_entry (.abs f) 0x015 (.t f) rfl (fun _ => rfl)
theorem neg (f : TFields) : Statement (.neg f) := of_entry (.neg f) 0x016 (.t f) rfl (fun _ => rfl)
theorem clz (f : TFields) : Statement (.clz f) := of_entry (.clz f) 0x017 (.t f) rfl (fun _ => rfl)
theorem ctz (f : TFields) : Statement (.ctz f) := of_entry (.ctz f) 0x018 (.t f) rfl (fun _ => rfl)
theorem popc (f : TFields) : Statement (.popc f) := of_entry (.popc f) 0x019 (.t f) rfl (fun _ => rfl)
theorem brev (f : TFields) : Statement (.brev f) := of_entry (.brev f) 0x01A (.t f) rfl (fun _ => rfl)
theorem bswap (f : TFields) : Statement (.bswap f) := of_entry (.bswap f) 0x01B (.t f) rfl (fun _ => rfl)
theorem sext (f : TFields) : Statement (.sext f) := of_entry (.sext f) 0x01C (.t f) rfl (fun _ => rfl)
theorem zext (f : TFields) : Statement (.zext f) := of_entry (.zext f) 0x01D (.t f) rfl (fun _ => rfl)
theorem mov (f : TFields) : Statement (.mov f) := of_entry (.mov f) 0x01E (.t f) rfl (fun _ => rfl)
theorem sel (f : TFields) : Statement (.sel f) := of_entry (.sel f) 0x01F (.t f) rfl (fun _ => rfl)
theorem li (f : LFields) : Statement (.li f) := of_entry (.li f) 0x020 (.l f) rfl (fun _ => rfl)
theorem lih (f : LFields) : Statement (.lih f) := of_entry (.lih f) 0x021 (.l f) rfl (fun _ => rfl)
theorem addW (f : TFields) : Statement (.addW f) := of_entry (.addW f) 0x022 (.t f) rfl (fun _ => rfl)
theorem subW (f : TFields) : Statement (.subW f) := of_entry (.subW f) 0x023 (.t f) rfl (fun _ => rfl)
theorem mulW (f : TFields) : Statement (.mulW f) := of_entry (.mulW f) 0x024 (.t f) rfl (fun _ => rfl)
theorem madd (f : TFields) : Statement (.madd f) := of_entry (.madd f) 0x025 (.t f) rfl (fun _ => rfl)
theorem cmp (f : TFields) : Statement (.cmp f) := of_entry (.cmp f) 0x026 (.t f) rfl (fun _ => rfl)
theorem cmpu (f : TFields) : Statement (.cmpu f) := of_entry (.cmpu f) 0x027 (.t f) rfl (fun _ => rfl)
theorem test (f : TFields) : Statement (.test f) := of_entry (.test f) 0x028 (.t f) rfl (fun _ => rfl)
theorem lea (f : TFields) : Statement (.lea f) := of_entry (.lea f) 0x029 (.t f) rfl (fun _ => rfl)
theorem bfx (f : TFields) : Statement (.bfx f) := of_entry (.bfx f) 0x02A (.t f) rfl (fun _ => rfl)
theorem bfi (f : TFields) : Statement (.bfi f) := of_entry (.bfi f) 0x02B (.t f) rfl (fun _ => rfl)
theorem br (f : LFields) : Statement (.br f) := of_entry (.br f) 0x040 (.l f) rfl (fun _ => rfl)
theorem jmp (f : LFields) : Statement (.jmp f) := of_entry (.jmp f) 0x041 (.l f) rfl (fun _ => rfl)
theorem call (f : LFields) : Statement (.call f) := of_entry (.call f) 0x042 (.l f) rfl (fun _ => rfl)
theorem callr (f : TFields) : Statement (.callr f) := of_entry (.callr f) 0x043 (.t f) rfl (fun _ => rfl)
theorem ret (f : TFields) : Statement (.ret f) := of_entry (.ret f) 0x044 (.t f) rfl (fun _ => rfl)
theorem loop (f : LFields) : Statement (.loop f) := of_entry (.loop f) 0x045 (.l f) rfl (fun _ => rfl)
theorem brt (f : LFields) : Statement (.brt f) := of_entry (.brt f) 0x046 (.l f) rfl (fun _ => rfl)
theorem nop (f : TFields) : Statement (.nop f) := of_entry (.nop f) 0x047 (.t f) rfl (fun _ => rfl)
theorem yield (f : TFields) : Statement (.yield f) := of_entry (.yield f) 0x048 (.t f) rfl (fun _ => rfl)
theorem exit (f : TFields) : Statement (.exit f) := of_entry (.exit f) 0x049 (.t f) rfl (fun _ => rfl)
theorem bkpt (f : TFields) : Statement (.bkpt f) := of_entry (.bkpt f) 0x04A (.t f) rfl (fun _ => rfl)
theorem waitt (f : TFields) : Statement (.waitt f) := of_entry (.waitt f) 0x04B (.t f) rfl (fun _ => rfl)
theorem pand (f : TFields) : Statement (.pand f) := of_entry (.pand f) 0x04C (.t f) rfl (fun _ => rfl)
theorem por (f : TFields) : Statement (.por f) := of_entry (.por f) 0x04D (.t f) rfl (fun _ => rfl)
theorem pxor (f : TFields) : Statement (.pxor f) := of_entry (.pxor f) 0x04E (.t f) rfl (fun _ => rfl)
theorem pnot (f : TFields) : Statement (.pnot f) := of_entry (.pnot f) 0x04F (.t f) rfl (fun _ => rfl)
theorem pmov (f : TFields) : Statement (.pmov f) := of_entry (.pmov f) 0x050 (.t f) rfl (fun _ => rfl)
theorem pset (f : TFields) : Statement (.pset f) := of_entry (.pset f) 0x051 (.t f) rfl (fun _ => rfl)
theorem pany (f : TFields) : Statement (.pany f) := of_entry (.pany f) 0x052 (.t f) rfl (fun _ => rfl)
theorem pall (f : TFields) : Statement (.pall f) := of_entry (.pall f) 0x053 (.t f) rfl (fun _ => rfl)
theorem pcnt (f : TFields) : Statement (.pcnt f) := of_entry (.pcnt f) 0x054 (.t f) rfl (fun _ => rfl)
theorem pfirst (f : TFields) : Statement (.pfirst f) := of_entry (.pfirst f) 0x055 (.t f) rfl (fun _ => rfl)
theorem fadd (f : TFields) : Statement (.fadd f) := of_entry (.fadd f) 0x060 (.t f) rfl (fun _ => rfl)
theorem fsub (f : TFields) : Statement (.fsub f) := of_entry (.fsub f) 0x061 (.t f) rfl (fun _ => rfl)
theorem fmul (f : TFields) : Statement (.fmul f) := of_entry (.fmul f) 0x062 (.t f) rfl (fun _ => rfl)
theorem fdiv (f : TFields) : Statement (.fdiv f) := of_entry (.fdiv f) 0x063 (.t f) rfl (fun _ => rfl)
theorem fsqrt (f : TFields) : Statement (.fsqrt f) := of_entry (.fsqrt f) 0x064 (.t f) rfl (fun _ => rfl)
theorem fma (f : TFields) : Statement (.fma f) := of_entry (.fma f) 0x065 (.t f) rfl (fun _ => rfl)
theorem fms (f : TFields) : Statement (.fms f) := of_entry (.fms f) 0x066 (.t f) rfl (fun _ => rfl)
theorem fnma (f : TFields) : Statement (.fnma f) := of_entry (.fnma f) 0x067 (.t f) rfl (fun _ => rfl)
theorem fmin (f : TFields) : Statement (.fmin f) := of_entry (.fmin f) 0x068 (.t f) rfl (fun _ => rfl)
theorem fmax (f : TFields) : Statement (.fmax f) := of_entry (.fmax f) 0x069 (.t f) rfl (fun _ => rfl)
theorem fabs (f : TFields) : Statement (.fabs f) := of_entry (.fabs f) 0x06A (.t f) rfl (fun _ => rfl)
theorem fneg (f : TFields) : Statement (.fneg f) := of_entry (.fneg f) 0x06B (.t f) rfl (fun _ => rfl)
theorem fsgn (f : TFields) : Statement (.fsgn f) := of_entry (.fsgn f) 0x06C (.t f) rfl (fun _ => rfl)
theorem fabd (f : TFields) : Statement (.fabd f) := of_entry (.fabd f) 0x06D (.t f) rfl (fun _ => rfl)
theorem fcmp (f : TFields) : Statement (.fcmp f) := of_entry (.fcmp f) 0x06E (.t f) rfl (fun _ => rfl)
theorem fclass (f : TFields) : Statement (.fclass f) := of_entry (.fclass f) 0x06F (.t f) rfl (fun _ => rfl)
theorem frint (f : TFields) : Statement (.frint f) := of_entry (.frint f) 0x070 (.t f) rfl (fun _ => rfl)
theorem f2i (f : TFields) : Statement (.f2i f) := of_entry (.f2i f) 0x071 (.t f) rfl (fun _ => rfl)
theorem f2u (f : TFields) : Statement (.f2u f) := of_entry (.f2u f) 0x072 (.t f) rfl (fun _ => rfl)
theorem i2f (f : TFields) : Statement (.i2f f) := of_entry (.i2f f) 0x073 (.t f) rfl (fun _ => rfl)
theorem u2f (f : TFields) : Statement (.u2f f) := of_entry (.u2f f) 0x074 (.t f) rfl (fun _ => rfl)
theorem fcvt (f : TFields) : Statement (.fcvt f) := of_entry (.fcvt f) 0x075 (.t f) rfl (fun _ => rfl)
theorem fexp2 (f : TFields) : Statement (.fexp2 f) := of_entry (.fexp2 f) 0x076 (.t f) rfl (fun _ => rfl)
theorem flog2 (f : TFields) : Statement (.flog2 f) := of_entry (.flog2 f) 0x077 (.t f) rfl (fun _ => rfl)
theorem frcp (f : TFields) : Statement (.frcp f) := of_entry (.frcp f) 0x078 (.t f) rfl (fun _ => rfl)
theorem frsq (f : TFields) : Statement (.frsq f) := of_entry (.frsq f) 0x079 (.t f) rfl (fun _ => rfl)
theorem ftanh (f : TFields) : Statement (.ftanh f) := of_entry (.ftanh f) 0x07A (.t f) rfl (fun _ => rfl)
theorem fsigm (f : TFields) : Statement (.fsigm f) := of_entry (.fsigm f) 0x07B (.t f) rfl (fun _ => rfl)
theorem fscalb (f : TFields) : Statement (.fscalb f) := of_entry (.fscalb f) 0x07C (.t f) rfl (fun _ => rfl)
theorem fgetexp (f : TFields) : Statement (.fgetexp f) := of_entry (.fgetexp f) 0x07D (.t f) rfl (fun _ => rfl)
theorem scenc (f : TFields) : Statement (.scenc f) := of_entry (.scenc f) 0x07E (.t f) rfl (fun _ => rfl)
theorem scdec (f : TFields) : Statement (.scdec f) := of_entry (.scdec f) 0x07F (.t f) rfl (fun _ => rfl)
theorem fq8 (f : TFields) : Statement (.fq8 f) := of_entry (.fq8 f) 0x080 (.t f) rfl (fun _ => rfl)
theorem fdq8 (f : TFields) : Statement (.fdq8 f) := of_entry (.fdq8 f) 0x081 (.t f) rfl (fun _ => rfl)
theorem vadd (f : TFields) : Statement (.vadd f) := of_entry (.vadd f) 0x0A0 (.t f) rfl (fun _ => rfl)
theorem vsub (f : TFields) : Statement (.vsub f) := of_entry (.vsub f) 0x0A1 (.t f) rfl (fun _ => rfl)
theorem vmul (f : TFields) : Statement (.vmul f) := of_entry (.vmul f) 0x0A2 (.t f) rfl (fun _ => rfl)
theorem vmulh (f : TFields) : Statement (.vmulh f) := of_entry (.vmulh f) 0x0A3 (.t f) rfl (fun _ => rfl)
theorem vmadd (f : TFields) : Statement (.vmadd f) := of_entry (.vmadd f) 0x0A4 (.t f) rfl (fun _ => rfl)
theorem vmin (f : TFields) : Statement (.vmin f) := of_entry (.vmin f) 0x0A5 (.t f) rfl (fun _ => rfl)
theorem vmax (f : TFields) : Statement (.vmax f) := of_entry (.vmax f) 0x0A6 (.t f) rfl (fun _ => rfl)
theorem vabs (f : TFields) : Statement (.vabs f) := of_entry (.vabs f) 0x0A7 (.t f) rfl (fun _ => rfl)
theorem vneg (f : TFields) : Statement (.vneg f) := of_entry (.vneg f) 0x0A8 (.t f) rfl (fun _ => rfl)
theorem vand (f : TFields) : Statement (.vand f) := of_entry (.vand f) 0x0A9 (.t f) rfl (fun _ => rfl)
theorem vor (f : TFields) : Statement (.vor f) := of_entry (.vor f) 0x0AA (.t f) rfl (fun _ => rfl)
theorem vxor (f : TFields) : Statement (.vxor f) := of_entry (.vxor f) 0x0AB (.t f) rfl (fun _ => rfl)
theorem vshl (f : TFields) : Statement (.vshl f) := of_entry (.vshl f) 0x0AC (.t f) rfl (fun _ => rfl)
theorem vshr (f : TFields) : Statement (.vshr f) := of_entry (.vshr f) 0x0AD (.t f) rfl (fun _ => rfl)
theorem vsra (f : TFields) : Statement (.vsra f) := of_entry (.vsra f) 0x0AE (.t f) rfl (fun _ => rfl)
theorem vcmp (f : TFields) : Statement (.vcmp f) := of_entry (.vcmp f) 0x0AF (.t f) rfl (fun _ => rfl)
theorem vsel (f : TFields) : Statement (.vsel f) := of_entry (.vsel f) 0x0B0 (.t f) rfl (fun _ => rfl)
theorem vfadd (f : TFields) : Statement (.vfadd f) := of_entry (.vfadd f) 0x0B1 (.t f) rfl (fun _ => rfl)
theorem vfsub (f : TFields) : Statement (.vfsub f) := of_entry (.vfsub f) 0x0B2 (.t f) rfl (fun _ => rfl)
theorem vfmul (f : TFields) : Statement (.vfmul f) := of_entry (.vfmul f) 0x0B3 (.t f) rfl (fun _ => rfl)
theorem vfma (f : TFields) : Statement (.vfma f) := of_entry (.vfma f) 0x0B4 (.t f) rfl (fun _ => rfl)
theorem vfms (f : TFields) : Statement (.vfms f) := of_entry (.vfms f) 0x0B5 (.t f) rfl (fun _ => rfl)
theorem vfmin (f : TFields) : Statement (.vfmin f) := of_entry (.vfmin f) 0x0B6 (.t f) rfl (fun _ => rfl)
theorem vfmax (f : TFields) : Statement (.vfmax f) := of_entry (.vfmax f) 0x0B7 (.t f) rfl (fun _ => rfl)
theorem vfabs (f : TFields) : Statement (.vfabs f) := of_entry (.vfabs f) 0x0B8 (.t f) rfl (fun _ => rfl)
theorem vfneg (f : TFields) : Statement (.vfneg f) := of_entry (.vfneg f) 0x0B9 (.t f) rfl (fun _ => rfl)
theorem vfcmp (f : TFields) : Statement (.vfcmp f) := of_entry (.vfcmp f) 0x0BA (.t f) rfl (fun _ => rfl)
theorem vfexp2 (f : TFields) : Statement (.vfexp2 f) := of_entry (.vfexp2 f) 0x0BB (.t f) rfl (fun _ => rfl)
theorem vfrcp (f : TFields) : Statement (.vfrcp f) := of_entry (.vfrcp f) 0x0BC (.t f) rfl (fun _ => rfl)
theorem vfrsq (f : TFields) : Statement (.vfrsq f) := of_entry (.vfrsq f) 0x0BD (.t f) rfl (fun _ => rfl)
theorem vftanh (f : TFields) : Statement (.vftanh f) := of_entry (.vftanh f) 0x0BE (.t f) rfl (fun _ => rfl)
theorem vfsigm (f : TFields) : Statement (.vfsigm f) := of_entry (.vfsigm f) 0x0BF (.t f) rfl (fun _ => rfl)
theorem vfcvt (f : TFields) : Statement (.vfcvt f) := of_entry (.vfcvt f) 0x0C0 (.t f) rfl (fun _ => rfl)
theorem vradd (f : TFields) : Statement (.vradd f) := of_entry (.vradd f) 0x0C1 (.t f) rfl (fun _ => rfl)
theorem vrfadd (f : TFields) : Statement (.vrfadd f) := of_entry (.vrfadd f) 0x0C2 (.t f) rfl (fun _ => rfl)
theorem vrmax (f : TFields) : Statement (.vrmax f) := of_entry (.vrmax f) 0x0C3 (.t f) rfl (fun _ => rfl)
theorem vrmin (f : TFields) : Statement (.vrmin f) := of_entry (.vrmin f) 0x0C4 (.t f) rfl (fun _ => rfl)
theorem vrfmax (f : TFields) : Statement (.vrfmax f) := of_entry (.vrfmax f) 0x0C5 (.t f) rfl (fun _ => rfl)
theorem vrfmin (f : TFields) : Statement (.vrfmin f) := of_entry (.vrfmin f) 0x0C6 (.t f) rfl (fun _ => rfl)
theorem vdot (f : TFields) : Statement (.vdot f) := of_entry (.vdot f) 0x0C7 (.t f) rfl (fun _ => rfl)
theorem vfdot (f : TFields) : Statement (.vfdot f) := of_entry (.vfdot f) 0x0C8 (.t f) rfl (fun _ => rfl)
theorem vmov (f : TFields) : Statement (.vmov f) := of_entry (.vmov f) 0x0C9 (.t f) rfl (fun _ => rfl)
theorem vbcast (f : TFields) : Statement (.vbcast f) := of_entry (.vbcast f) 0x0CA (.t f) rfl (fun _ => rfl)
theorem vext (f : TFields) : Statement (.vext f) := of_entry (.vext f) 0x0CB (.t f) rfl (fun _ => rfl)
theorem vins (f : TFields) : Statement (.vins f) := of_entry (.vins f) 0x0CC (.t f) rfl (fun _ => rfl)
theorem vperm (f : TFields) : Statement (.vperm f) := of_entry (.vperm f) 0x0CD (.t f) rfl (fun _ => rfl)
theorem vshuf (f : TFields) : Statement (.vshuf f) := of_entry (.vshuf f) 0x0CE (.t f) rfl (fun _ => rfl)
theorem vslide (f : TFields) : Statement (.vslide f) := of_entry (.vslide f) 0x0CF (.t f) rfl (fun _ => rfl)
theorem vcompress (f : TFields) : Statement (.vcompress f) := of_entry (.vcompress f) 0x0D0 (.t f) rfl (fun _ => rfl)
theorem vexpand (f : TFields) : Statement (.vexpand f) := of_entry (.vexpand f) 0x0D1 (.t f) rfl (fun _ => rfl)
theorem viota (f : TFields) : Statement (.viota f) := of_entry (.viota f) 0x0D2 (.t f) rfl (fun _ => rfl)
theorem vbsenc (f : TFields) : Statement (.vbsenc f) := of_entry (.vbsenc f) 0x0D3 (.t f) rfl (fun _ => rfl)
theorem vbsdec (f : TFields) : Statement (.vbsdec f) := of_entry (.vbsdec f) 0x0D4 (.t f) rfl (fun _ => rfl)
theorem vq8 (f : TFields) : Statement (.vq8 f) := of_entry (.vq8 f) 0x0D5 (.t f) rfl (fun _ => rfl)
theorem vdq8 (f : TFields) : Statement (.vdq8 f) := of_entry (.vdq8 f) 0x0D6 (.t f) rfl (fun _ => rfl)
theorem vamax (f : TFields) : Statement (.vamax f) := of_entry (.vamax f) 0x0D7 (.t f) rfl (fun _ => rfl)
theorem vsplit (f : TFields) : Statement (.vsplit f) := of_entry (.vsplit f) 0x0D8 (.t f) rfl (fun _ => rfl)
theorem vonline (f : TFields) : Statement (.vonline f) := of_entry (.vonline f) 0x0D9 (.t f) rfl (fun _ => rfl)
theorem vclamp (f : TFields) : Statement (.vclamp f) := of_entry (.vclamp f) 0x0DA (.t f) rfl (fun _ => rfl)
theorem vscan (f : TFields) : Statement (.vscan f) := of_entry (.vscan f) 0x0DB (.t f) rfl (fun _ => rfl)
theorem vrng (f : TFields) : Statement (.vrng f) := of_entry (.vrng f) 0x0DC (.t f) rfl (fun _ => rfl)
theorem vavg (f : TFields) : Statement (.vavg f) := of_entry (.vavg f) 0x0DD (.t f) rfl (fun _ => rfl)
theorem ld (f : TFields) : Statement (.ld f) :=
  of_entry (.ld f) 0x100 (.t f) rfl (fun h => by
    have e : instrOf 0x100 (.t f) = some (if f.m.getLsbD 3 then .ldDec f else .ld f) := rfl
    rw [e]
    simp_all [formOk])
theorem ldDec (f : TFields) : Statement (.ldDec f) :=
  of_entry (.ldDec f) 0x100 (.t f) rfl (fun h => by
    have e : instrOf 0x100 (.t f) = some (if f.m.getLsbD 3 then .ldDec f else .ld f) := rfl
    rw [e]
    simp_all [formOk])
theorem ldb (f : TFields) : Statement (.ldb f) := of_entry (.ldb f) 0x101 (.t f) rfl (fun _ => rfl)
theorem ldl (f : TFields) : Statement (.ldl f) := of_entry (.ldl f) 0x102 (.t f) rfl (fun _ => rfl)
theorem st (f : TFields) : Statement (.st f) := of_entry (.st f) 0x103 (.t f) rfl (fun _ => rfl)
theorem stwt (f : TFields) : Statement (.stwt f) := of_entry (.stwt f) 0x104 (.t f) rfl (fun _ => rfl)
theorem vld (f : TFields) : Statement (.vld f) := of_entry (.vld f) 0x105 (.t f) rfl (fun _ => rfl)
theorem vldb (f : TFields) : Statement (.vldb f) := of_entry (.vldb f) 0x106 (.t f) rfl (fun _ => rfl)
theorem vldl (f : TFields) : Statement (.vldl f) := of_entry (.vldl f) 0x107 (.t f) rfl (fun _ => rfl)
theorem vst (f : TFields) : Statement (.vst f) := of_entry (.vst f) 0x108 (.t f) rfl (fun _ => rfl)
theorem vlds (f : TFields) : Statement (.vlds f) := of_entry (.vlds f) 0x109 (.t f) rfl (fun _ => rfl)
theorem vsts (f : TFields) : Statement (.vsts f) := of_entry (.vsts f) 0x10A (.t f) rfl (fun _ => rfl)
theorem vldx (f : TFields) : Statement (.vldx f) := of_entry (.vldx f) 0x10B (.t f) rfl (fun _ => rfl)
theorem vstx (f : TFields) : Statement (.vstx f) := of_entry (.vstx f) 0x10C (.t f) rfl (fun _ => rfl)
theorem pref (f : TFields) : Statement (.pref f) := of_entry (.pref f) 0x10D (.t f) rfl (fun _ => rfl)
theorem flushl (f : TFields) : Statement (.flushl f) := of_entry (.flushl f) 0x10E (.t f) rfl (fun _ => rfl)
theorem invl (f : TFields) : Statement (.invl f) := of_entry (.invl f) 0x10F (.t f) rfl (fun _ => rfl)
theorem aadd (f : TFields) : Statement (.aadd f) := of_entry (.aadd f) 0x110 (.t f) rfl (fun _ => rfl)
theorem amin (f : TFields) : Statement (.amin f) := of_entry (.amin f) 0x111 (.t f) rfl (fun _ => rfl)
theorem amax (f : TFields) : Statement (.amax f) := of_entry (.amax f) 0x112 (.t f) rfl (fun _ => rfl)
theorem aand (f : TFields) : Statement (.aand f) := of_entry (.aand f) 0x113 (.t f) rfl (fun _ => rfl)
theorem aor (f : TFields) : Statement (.aor f) := of_entry (.aor f) 0x114 (.t f) rfl (fun _ => rfl)
theorem axor (f : TFields) : Statement (.axor f) := of_entry (.axor f) 0x115 (.t f) rfl (fun _ => rfl)
theorem aswap (f : TFields) : Statement (.aswap f) := of_entry (.aswap f) 0x116 (.t f) rfl (fun _ => rfl)
theorem acas (f : TFields) : Statement (.acas f) := of_entry (.acas f) 0x117 (.t f) rfl (fun _ => rfl)
theorem ainc (f : TFields) : Statement (.ainc f) := of_entry (.ainc f) 0x118 (.t f) rfl (fun _ => rfl)
theorem afadd (f : TFields) : Statement (.afadd f) := of_entry (.afadd f) 0x119 (.t f) rfl (fun _ => rfl)
theorem bind (f : TFields) : Statement (.bind f) := of_entry (.bind f) 0x11A (.t f) rfl (fun _ => rfl)
theorem unbind (f : TFields) : Statement (.unbind f) := of_entry (.unbind f) 0x11B (.t f) rfl (fun _ => rfl)
theorem acq (f : TFields) : Statement (.acq f) := of_entry (.acq f) 0x11C (.t f) rfl (fun _ => rfl)
theorem rel (f : TFields) : Statement (.rel f) := of_entry (.rel f) 0x11D (.t f) rfl (fun _ => rfl)
theorem fence (f : TFields) : Statement (.fence f) := of_entry (.fence f) 0x11E (.t f) rfl (fun _ => rfl)
theorem lda (f : TFields) : Statement (.lda f) := of_entry (.lda f) 0x11F (.t f) rfl (fun _ => rfl)
theorem str (f : TFields) : Statement (.str f) := of_entry (.str f) 0x120 (.t f) rfl (fun _ => rfl)
theorem waitw (f : TFields) : Statement (.waitw f) :=
  of_entry (.waitw f) 0x121 (.t f) rfl (fun h => by
    have e : instrOf 0x121 (.t f) = some (if f.m.getLsbD 2 then .waitwWake f else .waitw f) := rfl
    rw [e]
    simp_all [formOk])
theorem waitwWake (f : TFields) : Statement (.waitwWake f) :=
  of_entry (.waitwWake f) 0x121 (.t f) rfl (fun h => by
    have e : instrOf 0x121 (.t f) = some (if f.m.getLsbD 2 then .waitwWake f else .waitw f) := rfl
    rw [e]
    simp_all [formOk])
theorem pinsp (f : TFields) : Statement (.pinsp f) := of_entry (.pinsp f) 0x122 (.t f) rfl (fun _ => rfl)
theorem unpinsp (f : TFields) : Statement (.unpinsp f) := of_entry (.unpinsp f) 0x123 (.t f) rfl (fun _ => rfl)
theorem spawn (f : LFields) : Statement (.spawn f) := of_entry (.spawn f) 0x140 (.l f) rfl (fun _ => rfl)
theorem spawnr (f : LFields) : Statement (.spawnr f) := of_entry (.spawnr f) 0x141 (.l f) rfl (fun _ => rfl)
theorem join (f : TFields) : Statement (.join f) := of_entry (.join f) 0x142 (.t f) rfl (fun _ => rfl)
theorem send (f : TFields) : Statement (.send f) := of_entry (.send f) 0x143 (.t f) rfl (fun _ => rfl)
theorem sendv (f : TFields) : Statement (.sendv f) := of_entry (.sendv f) 0x144 (.t f) rfl (fun _ => rfl)
theorem mcast (f : TFields) : Statement (.mcast f) := of_entry (.mcast f) 0x145 (.t f) rfl (fun _ => rfl)
theorem bindtag (f : TFields) : Statement (.bindtag f) := of_entry (.bindtag f) 0x146 (.t f) rfl (fun _ => rfl)
theorem unbindtag (f : TFields) : Statement (.unbindtag f) := of_entry (.unbindtag f) 0x147 (.t f) rfl (fun _ => rfl)
theorem hcfgBind (f : TFields) : Statement (.hcfgBind f) :=
  of_entry (.hcfgBind f) 0x148 (.t f) rfl (fun h => by
    have e : instrOf 0x148 (.t f) = some (hcfgOf f) := rfl
    rw [e]
    simp_all [formOk, hcfgOf])
theorem hcfgNew (f : TFields) : Statement (.hcfgNew f) :=
  of_entry (.hcfgNew f) 0x148 (.t f) rfl (fun h => by
    have e : instrOf 0x148 (.t f) = some (hcfgOf f) := rfl
    rw [e]
    simp_all [formOk, hcfgOf])
theorem hcfgUnbind (f : TFields) : Statement (.hcfgUnbind f) :=
  of_entry (.hcfgUnbind f) 0x148 (.t f) rfl (fun h => by
    have e : instrOf 0x148 (.t f) = some (hcfgOf f) := rfl
    rw [e]
    simp_all [formOk, hcfgOf])
theorem hcfgFree (f : TFields) : Statement (.hcfgFree f) :=
  of_entry (.hcfgFree f) 0x148 (.t f) rfl (fun h => by
    have e : instrOf 0x148 (.t f) = some (hcfgOf f) := rfl
    rw [e]
    simp_all [formOk, hcfgOf])
theorem hadv (f : TFields) : Statement (.hadv f) := of_entry (.hadv f) 0x149 (.t f) rfl (fun _ => rfl)
theorem hadvw (f : TFields) : Statement (.hadvw f) := of_entry (.hadvw f) 0x14A (.t f) rfl (fun _ => rfl)
theorem hq (f : TFields) : Statement (.hq f) := of_entry (.hq f) 0x14B (.t f) rfl (fun _ => rfl)
theorem policy (f : TFields) : Statement (.policy f) := of_entry (.policy f) 0x14C (.t f) rfl (fun _ => rfl)
theorem raise (f : TFields) : Statement (.raise f) := of_entry (.raise f) 0x14D (.t f) rfl (fun _ => rfl)
theorem waitj (f : TFields) : Statement (.waitj f) := of_entry (.waitj f) 0x14E (.t f) rfl (fun _ => rfl)
theorem jobq (f : TFields) : Statement (.jobq f) := of_entry (.jobq f) 0x14F (.t f) rfl (fun _ => rfl)
theorem sleep (f : TFields) : Statement (.sleep f) := of_entry (.sleep f) 0x150 (.t f) rfl (fun _ => rfl)
theorem wake (f : TFields) : Statement (.wake f) := of_entry (.wake f) 0x151 (.t f) rfl (fun _ => rfl)
theorem symq (f : TFields) : Statement (.symq f) := of_entry (.symq f) 0x160 (.t f) rfl (fun _ => rfl)
theorem symwait (f : TFields) : Statement (.symwait f) := of_entry (.symwait f) 0x161 (.t f) rfl (fun _ => rfl)
theorem symid (f : TFields) : Statement (.symid f) := of_entry (.symid f) 0x162 (.t f) rfl (fun _ => rfl)
theorem symdrop (f : TFields) : Statement (.symdrop f) := of_entry (.symdrop f) 0x163 (.t f) rfl (fun _ => rfl)
theorem jobl (f : TFields) : Statement (.jobl f) := of_entry (.jobl f) 0x164 (.t f) rfl (fun _ => rfl)
theorem rcvl (f : TFields) : Statement (.rcvl f) := of_entry (.rcvl f) 0x165 (.t f) rfl (fun _ => rfl)
theorem symlim (f : TFields) : Statement (.symlim f) := of_entry (.symlim f) 0x166 (.t f) rfl (fun _ => rfl)
theorem sympeek (f : TFields) : Statement (.sympeek f) := of_entry (.sympeek f) 0x167 (.t f) rfl (fun _ => rfl)
theorem lnfork (f : TFields) : Statement (.lnfork f) := of_entry (.lnfork f) 0x170 (.t f) rfl (fun _ => rfl)
theorem lnforkAf (f : TFields) : Statement (.lnforkAf f) := of_entry (.lnforkAf f) 0x171 (.t f) rfl (fun _ => rfl)
theorem lnpatch (f : TFields) : Statement (.lnpatch f) := of_entry (.lnpatch f) 0x172 (.t f) rfl (fun _ => rfl)
theorem lnrebase (f : TFields) : Statement (.lnrebase f) := of_entry (.lnrebase f) 0x173 (.t f) rfl (fun _ => rfl)
theorem lnrebaseChk (f : TFields) : Statement (.lnrebaseChk f) := of_entry (.lnrebaseChk f) 0x174 (.t f) rfl (fun _ => rfl)
theorem lnflat (f : TFields) : Statement (.lnflat f) := of_entry (.lnflat f) 0x175 (.t f) rfl (fun _ => rfl)
theorem lndrop (f : TFields) : Statement (.lndrop f) := of_entry (.lndrop f) 0x176 (.t f) rfl (fun _ => rfl)
theorem lndropFold (f : TFields) : Statement (.lndropFold f) := of_entry (.lndropFold f) 0x177 (.t f) rfl (fun _ => rfl)
theorem lninfo (f : TFields) : Statement (.lninfo f) := of_entry (.lninfo f) 0x178 (.t f) rfl (fun _ => rfl)
theorem lnres (f : TFields) : Statement (.lnres f) := of_entry (.lnres f) 0x179 (.t f) rfl (fun _ => rfl)
theorem meload (f : TFields) : Statement (.meload f) := of_entry (.meload f) 0x180 (.t f) rfl (fun _ => rfl)
theorem memm (f : TFields) : Statement (.memm f) := of_entry (.memm f) 0x181 (.t f) rfl (fun _ => rfl)
theorem melin (f : TFields) : Statement (.melin f) := of_entry (.melin f) 0x182 (.t f) rfl (fun _ => rfl)
theorem medl (f : TFields) : Statement (.medl f) := of_entry (.medl f) 0x183 (.t f) rfl (fun _ => rfl)
theorem medrop (f : TFields) : Statement (.medrop f) := of_entry (.medrop f) 0x184 (.t f) rfl (fun _ => rfl)
theorem meburst (f : TFields) : Statement (.meburst f) := of_entry (.meburst f) 0x185 (.t f) rfl (fun _ => rfl)
theorem cuq (f : TFields) : Statement (.cuq f) := of_entry (.cuq f) 0x186 (.t f) rfl (fun _ => rfl)
theorem cuwp (f : TFields) : Statement (.cuwp f) := of_entry (.cuwp f) 0x187 (.t f) rfl (fun _ => rfl)
theorem cucq (f : TFields) : Statement (.cucq f) := of_entry (.cucq f) 0x188 (.t f) rfl (fun _ => rfl)
theorem coll (f : TFields) : Statement (.coll f) := of_entry (.coll f) 0x189 (.t f) rfl (fun _ => rfl)
theorem gather (f : TFields) : Statement (.gather f) := of_entry (.gather f) 0x192 (.t f) rfl (fun _ => rfl)
theorem cuwait (f : TFields) : Statement (.cuwait f) := of_entry (.cuwait f) 0x193 (.t f) rfl (fun _ => rfl)
theorem kvmap (f : TFields) : Statement (.kvmap f) := of_entry (.kvmap f) 0x18B (.t f) rfl (fun _ => rfl)
theorem kvgrow (f : TFields) : Statement (.kvgrow f) := of_entry (.kvgrow f) 0x18C (.t f) rfl (fun _ => rfl)
theorem attn (f : TFields) : Statement (.attn f) := of_entry (.attn f) 0x18A (.t f) rfl (fun _ => rfl)
theorem pfxh (f : TFields) : Statement (.pfxh f) := of_entry (.pfxh f) 0x18D (.t f) rfl (fun _ => rfl)
theorem pfxl (f : TFields) : Statement (.pfxl f) := of_entry (.pfxl f) 0x18E (.t f) rfl (fun _ => rfl)
theorem pfxins (f : TFields) : Statement (.pfxins f) := of_entry (.pfxins f) 0x18F (.t f) rfl (fun _ => rfl)
theorem pfxpin (f : TFields) : Statement (.pfxpin f) := of_entry (.pfxpin f) 0x190 (.t f) rfl (fun _ => rfl)
theorem pfxdel (f : TFields) : Statement (.pfxdel f) := of_entry (.pfxdel f) 0x191 (.t f) rfl (fun _ => rfl)
theorem sysc (f : TFields) : Statement (.sysc f) := of_entry (.sysc f) 0x1B0 (.t f) rfl (fun _ => rfl)
theorem intr (f : TFields) : Statement (.intr f) := of_entry (.intr f) 0x1B1 (.t f) rfl (fun _ => rfl)
theorem trap (f : TFields) : Statement (.trap f) := of_entry (.trap f) 0x1B2 (.t f) rfl (fun _ => rfl)
theorem eret (f : TFields) : Statement (.eret f) := of_entry (.eret f) 0x1B3 (.t f) rfl (fun _ => rfl)
theorem rdx (f : TFields) : Statement (.rdx f) := of_entry (.rdx f) 0x1B4 (.t f) rfl (fun _ => rfl)
theorem wrx (f : TFields) : Statement (.wrx f) := of_entry (.wrx f) 0x1B5 (.t f) rfl (fun _ => rfl)
theorem tlbi (f : TFields) : Statement (.tlbi f) := of_entry (.tlbi f) 0x1B6 (.t f) rfl (fun _ => rfl)
theorem time (f : TFields) : Statement (.time f) := of_entry (.time f) 0x1B7 (.t f) rfl (fun _ => rfl)
theorem tmark (f : TFields) : Statement (.tmark f) := of_entry (.tmark f) 0x1B8 (.t f) rfl (fun _ => rfl)
theorem hlt (f : TFields) : Statement (.hlt f) := of_entry (.hlt f) 0x1B9 (.t f) rfl (fun _ => rfl)
theorem ckpt (f : TFields) : Statement (.ckpt f) := of_entry (.ckpt f) 0x1BA (.t f) rfl (fun _ => rfl)
theorem ifence (f : TFields) : Statement (.ifence f) := of_entry (.ifence f) 0x1BB (.t f) rfl (fun _ => rfl)
theorem cctl (f : TFields) : Statement (.cctl f) := of_entry (.cctl f) 0x1BC (.t f) rfl (fun _ => rfl)
theorem perf (f : TFields) : Statement (.perf f) := of_entry (.perf f) 0x1BD (.t f) rfl (fun _ => rfl)
theorem logx (f : TFields) : Statement (.logx f) := of_entry (.logx f) 0x1BE (.t f) rfl (fun _ => rfl)
theorem spadmap (f : TFields) : Statement (.spadmap f) := of_entry (.spadmap f) 0x1BF (.t f) rfl (fun _ => rfl)
theorem cimw (f : TFields) : Statement (.cimw f) := of_entry (.cimw f) 0x1E0 (.t f) rfl (fun _ => rfl)
theorem cimr (f : TFields) : Statement (.cimr f) := of_entry (.cimr f) 0x1E1 (.t f) rfl (fun _ => rfl)
theorem bpl (f : TFields) : Statement (.bpl f) := of_entry (.bpl f) 0x1E2 (.t f) rfl (fun _ => rfl)
theorem rbld (f : TFields) : Statement (.rbld f) := of_entry (.rbld f) 0x1E3 (.t f) rfl (fun _ => rfl)
theorem accrd (f : TFields) : Statement (.accrd f) := of_entry (.accrd f) 0x1E4 (.t f) rfl (fun _ => rfl)
theorem accclr (f : TFields) : Statement (.accclr f) := of_entry (.accclr f) 0x1E5 (.t f) rfl (fun _ => rfl)
theorem planes (f : TFields) : Statement (.planes f) := of_entry (.planes f) 0x1E6 (.t f) rfl (fun _ => rfl)
theorem dupf (f : TFields) : Statement (.dupf f) := of_entry (.dupf f) 0x1E7 (.t f) rfl (fun _ => rfl)
theorem delta (f : TFields) : Statement (.delta f) := of_entry (.delta f) 0x1E8 (.t f) rfl (fun _ => rfl)
theorem takew (f : TFields) : Statement (.takew f) := of_entry (.takew f) 0x1E9 (.t f) rfl (fun _ => rfl)
theorem taker (f : TFields) : Statement (.taker f) := of_entry (.taker f) 0x1EA (.t f) rfl (fun _ => rfl)
theorem beatrd (f : TFields) : Statement (.beatrd f) := of_entry (.beatrd f) 0x1EB (.t f) rfl (fun _ => rfl)
theorem beatwr (f : TFields) : Statement (.beatwr f) := of_entry (.beatwr f) 0x1EC (.t f) rfl (fun _ => rfl)
theorem conv (f : TFields) : Statement (.conv f) := of_entry (.conv f) 0x1ED (.t f) rfl (fun _ => rfl)
theorem wpset (f : TFields) : Statement (.wpset f) := of_entry (.wpset f) 0x1EE (.t f) rfl (fun _ => rfl)
theorem cmpl (f : TFields) : Statement (.cmpl f) := of_entry (.cmpl f) 0x1EF (.t f) rfl (fun _ => rfl)
theorem pktnext (f : TFields) : Statement (.pktnext f) := of_entry (.pktnext f) 0x1F0 (.t f) rfl (fun _ => rfl)
theorem scatr (f : TFields) : Statement (.scatr f) := of_entry (.scatr f) 0x1F1 (.t f) rfl (fun _ => rfl)
theorem map (cl i pteAddr : Nat) (pte : Word) : Statement (.map cl i pteAddr pte) := of_none (.map cl i pteAddr pte) rfl
theorem decline (cl i : Nat) : Statement (.decline cl i) := of_none (.decline cl i) rfl
theorem valueArrival (core sym : Nat) : Statement (.valueArrival core sym) := of_none (.valueArrival core sym) rfl
theorem symbolPoison (core sym cause : Nat) : Statement (.symbolPoison core sym cause) := of_none (.symbolPoison core sym cause) rfl
theorem waitResume (core thread : Nat) : Statement (.waitResume core thread) := of_none (.waitResume core thread) rfl
theorem waittDeadline (core thread : Nat) : Statement (.waittDeadline core thread) := of_none (.waittDeadline core thread) rfl
theorem sleepTimeout (core thread : Nat) : Statement (.sleepTimeout core thread) := of_none (.sleepTimeout core thread) rfl
theorem stealRequest (thief : Nat) : Statement (.stealRequest thief) := of_none (.stealRequest thief) rfl
theorem stealRetry (thief : Nat) : Statement (.stealRetry thief) := of_none (.stealRetry thief) rfl
theorem chunkCountPublish (die : Nat) : Statement (.chunkCountPublish die) := of_none (.chunkCountPublish die) rfl
theorem activationStart (i : Nat) : Statement (.activationStart i) := of_none (.activationStart i) rfl
theorem deposit (i : Nat) : Statement (.deposit i) := of_none (.deposit i) rfl
theorem bootCountAdd (core : Nat) : Statement (.bootCountAdd core) := of_none (.bootCountAdd core) rfl
theorem jobStart (octet : Nat) (micro : Bool) : Statement (.jobStart octet micro) := of_none (.jobStart octet micro) rfl
theorem rampDown (octet : Nat) : Statement (.rampDown octet) := of_none (.rampDown octet) rfl
theorem burstRampStart (octet : Nat) : Statement (.burstRampStart octet) := of_none (.burstRampStart octet) rfl
theorem burstEnd (octet : Nat) : Statement (.burstEnd octet) := of_none (.burstEnd octet) rfl
theorem takeLookup (octet : Nat) : Statement (.takeLookup octet) := of_none (.takeLookup octet) rfl
theorem packetTake (octet q : Nat) (micro : Bool) : Statement (.packetTake octet q micro) := of_none (.packetTake octet q micro) rfl
theorem copy (octet chan : Nat) : Statement (.copy octet chan) := of_none (.copy octet chan) rfl
theorem fill (octet chan : Nat) : Statement (.fill octet chan) := of_none (.fill octet chan) rfl
theorem gatherPacket (octet chan : Nat) : Statement (.gatherPacket octet chan) := of_none (.gatherPacket octet chan) rfl
theorem gatherRowReturn (octet chan row : Nat) : Statement (.gatherRowReturn octet chan row) := of_none (.gatherRowReturn octet chan row) rfl
theorem collPacket (octet chan : Nat) : Statement (.collPacket octet chan) := of_none (.collPacket octet chan) rfl
theorem reloc (octet chan bytes : Nat) : Statement (.reloc octet chan bytes) := of_none (.reloc octet chan bytes) rfl
theorem kvgrowComplete (die pair : Nat) : Statement (.kvgrowComplete die pair) := of_none (.kvgrowComplete die pair) rfl
theorem lineageJobEnd (i : Nat) : Statement (.lineageJobEnd i) := of_none (.lineageJobEnd i) rfl
theorem sauPartial (a page : Nat) : Statement (.sauPartial a page) := of_none (.sauPartial a page) rfl
theorem routerMerge (a i j : Nat) : Statement (.routerMerge a i j) := of_none (.routerMerge a i j) rfl
theorem partialArrival (a i : Nat) : Statement (.partialArrival a i) := of_none (.partialArrival a i) rfl
theorem launch (cl qa : Nat) : Statement (.launch cl qa) := of_none (.launch cl qa) rfl
theorem launchStart (l root : Nat) : Statement (.launchStart l root) := of_none (.launchStart l root) rfl
theorem launchEnd (l : Nat) : Statement (.launchEnd l) := of_none (.launchEnd l) rfl
theorem wrsig (cl qa : Nat) : Statement (.wrsig cl qa) := of_none (.wrsig cl qa) rfl
theorem wait (cl qa : Nat) : Statement (.wait cl qa) := of_none (.wait cl qa) rfl
theorem barrier (cl qa : Nat) : Statement (.barrier cl qa) := of_none (.barrier cl qa) rfl
theorem reset (cl qa : Nat) : Statement (.reset cl qa) := of_none (.reset cl qa) rfl
theorem queuePoll (cl qa : Nat) : Statement (.queuePoll cl qa) := of_none (.queuePoll cl qa) rfl
theorem colocationClassify (l busy bytes : Nat) : Statement (.colocationClassify l busy bytes) := of_none (.colocationClassify l busy bytes) rfl
theorem sliceEnd (cl : Nat) (ten : Nat) : Statement (.sliceEnd cl ten) := of_none (.sliceEnd cl ten) rfl
theorem saveRequest (core thread : Nat) : Statement (.saveRequest core thread) := of_none (.saveRequest core thread) rfl
theorem svcrep (cl : Nat) (r : BitVec 256) : Statement (.svcrep cl r) := of_none (.svcrep cl r) rfl
theorem svcrst (cl : Nat) (seq : BitVec 32) : Statement (.svcrst cl seq) := of_none (.svcrst cl seq) rfl
theorem attestRequest (req : Nat) : Statement (.attestRequest req) := of_none (.attestRequest req) rfl
theorem resetNRelease (fusesAgree : Bool) (failed : List Nat) : Statement (.resetNRelease fusesAgree failed) := of_none (.resetNRelease fusesAgree failed) rfl
theorem hbmTrainingEnd (failed : Option Nat) : Statement (.hbmTrainingEnd failed) := of_none (.hbmTrainingEnd failed) rfl
theorem go (core : Nat) : Statement (.go core) := of_none (.go core) rfl
theorem discoveryDone : Statement .discoveryDone := of_none .discoveryDone rfl
theorem commit (core : Nat) : Statement (.commit core) := of_none (.commit core) rfl
theorem ccrel (v : Word) : Statement (.ccrel v) := of_none (.ccrel v) rfl
theorem measx (v : Word) : Statement (.measx v) := of_none (.measx v) rfl
theorem registerWrite (off : Nat) (v : Word) : Statement (.registerWrite off v) := of_none (.registerWrite off v) rfl
theorem watchdogExpiry (cl l : Nat) : Statement (.watchdogExpiry cl l) := of_none (.watchdogExpiry cl l) rfl
theorem throttleStep (die : Nat) : Statement (.throttleStep die) := of_none (.throttleStep die) rfl
theorem throttleRaise (die : Nat) : Statement (.throttleRaise die) := of_none (.throttleRaise die) rfl
theorem scrubPass (word : Nat) (uncorrectable : Bool) : Statement (.scrubPass word uncorrectable) := of_none (.scrubPass word uncorrectable) rfl
theorem correctableError (cls pos : Nat) : Statement (.correctableError cls pos) := of_none (.correctableError cls pos) rfl
theorem uncorrectableError (u : ErrUnit) : Statement (.uncorrectableError u) := of_none (.uncorrectableError u) rfl
theorem fatalError (cls pos : Nat) : Statement (.fatalError cls pos) := of_none (.fatalError cls pos) rfl
theorem coreFailed (core : Nat) (lost : List Nat) : Statement (.coreFailed core lost) := of_none (.coreFailed core lost) rfl
theorem engineFailed (octet : Nat) (copyUnit : Bool) : Statement (.engineFailed octet copyUnit) := of_none (.engineFailed octet copyUnit) rfl
theorem inboundWrite (die addr : Nat) (bytes : List Byte) (secure : Bool) : Statement (.inboundWrite die addr bytes secure) := of_none (.inboundWrite die addr bytes secure) rfl
theorem flitReplay (port : Nat) : Statement (.flitReplay port) := of_none (.flitReplay port) rfl
theorem cxlTimeout (core sym : Nat) : Statement (.cxlTimeout core sym) := of_none (.cxlTimeout core sym) rfl
theorem domainAckTimeout (core thread addr : Nat) : Statement (.domainAckTimeout core thread addr) := of_none (.domainAckTimeout core thread addr) rfl
theorem latchWrite (dom : Nat) (addr : Nat) (v : Word) : Statement (.latchWrite dom addr v) := of_none (.latchWrite dom addr v) rfl
theorem latchReplay (dom : Nat) : Statement (.latchReplay dom) := of_none (.latchReplay dom) rfl
theorem halt : Statement .halt := of_none .halt rfl
theorem resume : Statement .resume := of_none .resume rfl
theorem slate : Statement .slate := of_none .slate rfl
theorem slateLatch : Statement .slateLatch := of_none .slateLatch rfl
theorem pcBreakpoint (core thread : Nat) : Statement (.pcBreakpoint core thread) := of_none (.pcBreakpoint core thread) rfl
theorem activationBreakpoint (i : Nat) : Statement (.activationBreakpoint i) := of_none (.activationBreakpoint i) rfl
theorem sessionOpen (n : Nat) : Statement (.sessionOpen n) := of_none (.sessionOpen n) rfl
theorem sessionClose (n : Nat) : Statement (.sessionClose n) := of_none (.sessionClose n) rfl
theorem checkpoint (reel : Nat) : Statement (.checkpoint reel) := of_none (.checkpoint reel) rfl
theorem entropyRead (cc : Nat) : Statement (.entropyRead cc) := of_none (.entropyRead cc) rfl
theorem logInject : Statement .logInject := of_none .logInject rfl
theorem unassignedOpcode (w : BitVec 96) : Statement (.unassignedOpcode w) := of_none (.unassignedOpcode w) rfl
theorem l1LineEviction (l1 line : Nat) : Statement (.l1LineEviction l1 line) := of_none (.l1LineEviction l1 line) rfl
theorem l2LineEviction (line : Nat) : Statement (.l2LineEviction line) := of_none (.l2LineEviction line) rfl
theorem scratchpadPageMove (ten core page : Nat) : Statement (.scratchpadPageMove ten core page) := of_none (.scratchpadPageMove ten core page) rfl
theorem registerLineEviction (core thread line : Nat) : Statement (.registerLineEviction core thread line) := of_none (.registerLineEviction core thread line) rfl
theorem resetNAssert : Statement .resetNAssert := of_none .resetNAssert rfl
theorem peerStoreArrival (port addr : Nat) (bytes : List Byte) : Statement (.peerStoreArrival port addr bytes) := of_none (.peerStoreArrival port addr bytes) rfl
theorem portDown (port : Nat) : Statement (.portDown port) := of_none (.portDown port) rfl
theorem controlCoreStore (cc addr : Nat) (bytes : List Byte) : Statement (.controlCoreStore cc addr bytes) := of_none (.controlCoreStore cc addr bytes) rfl

end Sys2Proof.Laws.Form
end

