-- ==== Sys2Proof/Tests/Slice0.lean ====
section
/-! SUPPORT. Small tests of the decoder, of well-formedness and of single steps, and for each statement a state and
operands that meet its hypotheses. -/

set_option Elab.async false

open Sys2Proof Sys2Proof.Machine Sys2Proof.Safety

/-! ### Small states -/

namespace Sys2Proof.Tests

/-- Format T fields with the guard that is always true and no hint. -/
def tf (m : Nat) (d a b : Operand) : TFields := { g := ⟨false, 0⟩, h := 0, m := BitVec.ofNat 14 m, d := d, a := a, b := b }

/-- Format L fields in the same way. -/
def lf (m : Nat) (d : Operand) (imm : Int) : LFields := { g := ⟨false, 0⟩, h := 0, m := BitVec.ofNat 14 m, d := d, imm := BitVec.ofInt 40 imm }

/-- Thread 0 of core 0 in the boot context with registers. -/
def onCore (c : Ctx) : State := (({ State.reset with hart := .core 0 0 } : State)).setThread 0 0 { Thread.zero with ctx := c, sys := true }

/-- Registers at pc 0x1000 with scalars and predicate p2. -/
def regs (l : List (Nat × Word)) : Ctx := { Ctx.zero with run := .ready, pc := 0x1000, s := l, p := [(2, 1)] }

/-- A state with scalars and a few predicates. -/
def st (l : List (Nat × Word)) : State := onCore (regs l)

/-- A scalar after an instruction. -/
def sAfter (i : Instr) (s : State) (n : Nat) : Option Word :=
  match exec i s with
  | .next t => some ((t.ctxOf s.hart).getS n)
  | _ => none

/-- A predicate after an instruction. -/
def pAfter (i : Instr) (s : State) (n : Nat) : Option Pred :=
  match exec i s with
  | .next t => some ((t.ctxOf s.hart).getP n)
  | _ => none

/-- The registers after an instruction. -/
def after (i : Instr) (s : State) : Option Ctx :=
  match exec i s with
  | .next t => some (t.ctxOf s.hart)
  | _ => none

/-! ### Well-formedness: each check refuses a term -/

/-- Operand kinds, an unnamed M bit, and the accepted term beside them (04 R76, R81). -/
theorem test_wf_kinds : (Instr.add (tf 0 (.s 1) (.s 2) (.imm 3))).wf = true ∧ (Instr.add (tf 0 (.v 1) (.s 2) (.imm 3))).wf = false
    ∧ (Instr.add (tf 0 (.s 1) (.p 2) (.imm 3))).wf = false ∧ (Instr.add (tf 0 (.s 1) (.s 2) .none)).wf = false
    ∧ (Instr.add (tf 1 (.s 1) (.s 2) (.imm 3))).wf = false := by decide +kernel

/-- The checks of named M fields: RND, field bounds, ranges, NB, a guard, ORD, SZ of DEC, COND, VFCVT, PLANES, CONV. -/
theorem test_wf_fields : (Instr.fadd (tf 0x3800 (.s 1) (.s 2) (.s 3))).wf = false ∧ (Instr.bfx (tf 0xFFF (.s 1) (.s 2) .none)).wf = false
    ∧ (Instr.sext (tf 3 (.s 1) (.s 2) .none)).wf = false ∧ (Instr.hadv (tf 0x10 (.h 1 0) (.imm 1) .none)).wf = false
    ∧ (Instr.sympeek (tf 0 (.s 1) (.s 2) .none)).wf = false ∧ (Instr.send (tf 0x100 (.s 1) (.s 2) .none)).wf = false
    ∧ (Instr.ldDec (tf 9 (.s 1) (.s 2) (.imm 0))).wf = false ∧ (Instr.acq (tf 1 .none (.s 2) (.imm 0))).wf = false
    ∧ (Instr.vfcvt (tf 0x400 (.v 1) (.v 2) .none)).wf = false ∧ (Instr.vfcvt (tf 0x8 (.v 1) (.v 2) .none)).wf = false
    ∧ (Instr.planes (tf 0 (.s 1) (.imm 0) .none)).wf = false ∧ (Instr.conv (tf 0 (.v 1) (.v 2) (.s 3))).wf = false
    ∧ (Instr.memm (tf 0x10 (.s 1) (.v 2) .none)).wf = false := by decide +kernel

/-- The checks of operand fields: special registers, WAITW's D, BINDTAG's D and B, a handle count, HCFG's A and B, VONLINE's A. -/
theorem test_wf_operands : (Instr.mov (tf 0 (.x 0x20) (.s 2) .none)).wf = false ∧ (Instr.add (tf 0 (.s 1) (.x 0x300) (.imm 0))).wf = false
    ∧ (Instr.waitw (tf 0 .none (.s 2) (.imm 0))).wf = false ∧ (Instr.bindtag (tf 1 .none (.s 2) .none)).wf = false
    ∧ (Instr.bindtag (tf 0 .none (.s 2) .none)).wf = false ∧ (Instr.hadv (tf 0 (.h 1 2) (.imm 1) .none)).wf = false
    ∧ (Instr.hcfgBind (tf 0 (.h 1 0) .none .none)).wf = false ∧ (Instr.hcfgNew (tf 1 (.h 1 0) (.s 2) .none)).wf = false
    ∧ (Instr.vonline (tf 0 (.v 1) .none (.w 2))).wf = false := by decide +kernel

/-- Rows of one opcode, format L, and words with an unassigned opcode. -/
theorem test_wf_rows : (Instr.ld (tf 8 (.s 1) (.s 2) (.imm 0))).wf = false ∧ (Instr.ldDec (tf 0 (.s 1) (.s 2) (.imm 0))).wf = false
    ∧ (Instr.hcfgFree (tf 2 (.h 1 0) .none .none)).wf = false ∧ (Instr.br (lf 0 (.s 1) 2)).wf = false
    ∧ (Instr.lih (lf 0 (.s 1) (2 ^ 24))).wf = false ∧ (Instr.brt (lf 6 (.s 1) 1)).wf = false ∧ (Instr.br (lf 1 .none 2)).wf = false
    ∧ (Instr.spawn (lf 8 (.w 1) 2)).wf = false ∧ (Instr.unassignedOpcode 0).wf = false ∧ (Instr.unassignedOpcode (0x1FF * 2 ^ 87)).wf = true
    ∧ (Instr.brt (lf 0 (.x 0x300) 1)).wf = false := by decide +kernel

/-! ### Words written out from the encodings of the spec -/

/-- The branch of 04's worked encoding: @!p1 br +2. -/
theorem test_word_br : decode 0x204400000000000000000002 = .ok (.br ⟨⟨true, 1⟩, 0, 0, .none, 2⟩) := by decide +kernel
/-- The words of 07's worked encodings: st.n, and ldb, acq in its ordering example. -/
theorem test_word_st : decode 0x818000000100061000460008 = .ok (.st (tf 0 (.s 6) (.s 4) (.imm 8))) := by decide +kernel
theorem test_word_ldb : decode 0x808000000100071000460000 = .ok (.ldb (tf 0 (.s 7) (.s 4) (.imm 0))) := by decide +kernel
theorem test_word_acq : decode 0x8E1000015100051000460000 = .ok (.acq { tf 0x15 (.s 5) (.s 4) (.imm 0) with g := ⟨false, 4⟩ }) := by decide +kernel
/-- The word of 08's worked encoding. -/
theorem test_word_memm : decode 0xC09400030100072000900000 = .ok (.memm ⟨⟨false, 5⟩, 0, 0x30, .s 7, .v 9, .none⟩) := by decide +kernel
/-- The worked fields of 05 R98 and 06. -/
theorem test_word_bfx : decode 0x150001203100071000200000 = .ok (.bfx (tf 0x1203 (.s 7) (.s 2) .none)) := by decide +kernel
theorem test_word_vfadd : decode 0x588800A60200052000610007 = .ok (.vfadd ⟨⟨false, 2⟩, 0, 0xA60, .v 5, .v 6, .s 7⟩) := by decide +kernel
/-- One word of each other family, laid out by 04 R72 to R75. -/
theorem test_word_medl : decode 0xC18000020100111000B00000 = .ok (.medl (tf 0x20 (.s 17) (.s 11) .none)) := by decide +kernel
theorem test_word_pfxl : decode 0xC70000001100131000D70014 = .ok (.pfxl (tf 1 (.s 19) (.s 13) (.w 10))) := by decide +kernel
theorem test_word_lnfork : decode 0xB800000001000A1000400000 = .ok (.lnfork (tf 0 (.s 10) (.s 4) .none)) := by decide +kernel
theorem test_word_lnpatch : decode 0xB900000001000A100056FFFB = .ok (.lnpatch (tf 0 (.s 10) (.s 5) (.imm 0xFFFB))) := by decide +kernel
theorem test_word_mcast : decode 0xA28000080100092000160100 = .ok (.mcast (tf 0x80 (.s 9) (.v 1) (.imm 0x100))) := by decide +kernel
/-- NOP is opcode 0x047 and every other bit zero; FADD is 0x060; SYMQ 0x160; RDX 0x1B4; CIMW 0x1E0. -/
theorem test_word_nop : decode (0x047 * 2 ^ 87) = .ok (.nop (tf 0 .none .none .none)) := by decide +kernel
theorem test_word_fadd : decode (0x060 * 2 ^ 87 + 0x10003 * 2 ^ 40 + 0x10001 * 2 ^ 20 + 0x10002) = .ok (.fadd (tf 0 (.s 3) (.s 1) (.s 2))) := by
  decide +kernel
theorem test_word_symq : decode (0x160 * 2 ^ 87 + 0x30003 * 2 ^ 40 + 0x10001 * 2 ^ 20) = .ok (.symq (tf 0 (.p 3) (.s 1) .none)) := by
  decide +kernel
theorem test_word_rdx : decode (0x1B4 * 2 ^ 87 + 0x10003 * 2 ^ 40 + 0x50010 * 2 ^ 20) = .ok (.rdx (tf 0 (.s 3) (.x 0x10) .none)) := by
  decide +kernel
theorem test_word_cimw : decode (0x1E0 * 2 ^ 87 + 0x10003 * 2 ^ 40 + 0x20001 * 2 ^ 20) = .ok (.cimw (tf 0 (.s 3) (.v 1) .none)) := by
  decide +kernel
/-- A word that the order of decode refuses: LIH with IMM 2^24 fails in step 3 with FBIT 0; KIND 9 in D fails in step 2. -/
theorem test_word_refused : decode (0x021 * 2 ^ 87 + 0x10003 * 2 ^ 40 + 2 ^ 24) = .error ⟨3, 0⟩
    ∧ decode (0x000 * 2 ^ 87 + 0x90003 * 2 ^ 40) = .error ⟨2, 40⟩ := by decide +kernel

/-! ### Results that the spec works out -/

/-- The table of 05 R94. -/
theorem test_div : sAfter (.div (tf 0 (.s 3) (.s 1) (.s 2))) (st [(1, -7), (2, 2)]) 3 = some (-3)
    ∧ sAfter (.rem (tf 0 (.s 3) (.s 1) (.s 2))) (st [(1, 7), (2, -2)]) 3 = some 1
    ∧ sAfter (.divu (tf 0 (.s 3) (.s 1) (.s 2))) (st [(1, -7), (2, 2)]) 3 = some 0x7FFFFFFFFFFFFFFC
    ∧ sAfter (.remu (tf 0 (.s 3) (.s 1) (.s 2))) (st [(1, 0x8000000000000000), (2, -1)]) 3 = some 0x8000000000000000
    ∧ sAfter (.div (tf 0 (.s 3) (.s 1) (.s 2))) (st [(1, 9)]) 3 = some (-1) := by decide +kernel
/-- 05 R93: ABS.SAT of -2^63 writes 2^63 - 1 and raises SAT, ABS writes -2^63. -/
theorem test_abs : sAfter (.abs (tf 0x400 (.s 3) (.s 1) .none)) (st [(1, 0x8000000000000000)]) 3 = some 0x7FFFFFFFFFFFFFFF
    ∧ (after (.abs (tf 0x400 (.s 3) (.s 1) .none)) (st [(1, 0x8000000000000000)])).map (fun c => c.flags) = some fSAT
    ∧ sAfter (.abs (tf 0 (.s 3) (.s 1) .none)) (st [(1, 0x8000000000000000)]) 3 = some 0x8000000000000000 := by decide +kernel
/-- 05 R98: BFX of s2 = 0x0A5F gives -6. -/
theorem test_bfx : sAfter (.bfx (tf 0x1203 (.s 7) (.s 2) .none)) (st [(2, 0x0A5F)]) 7 = some (-6) := by decide +kernel
/-- 05 R103: under 64 lanes PCNT of p0 gives 64, and PSET of 20 sets bits 19:0. -/
theorem test_pcnt : sAfter (.pcnt (tf 0 (.s 3) (.p 0) .none)) (st []) 3 = some 64
    ∧ pAfter (.pset (tf 0 (.p 3) (.imm 20) .none)) (st []) 3 = some 0xFFFFF := by decide +kernel
/-- 04 R69: the branch at block 0x1000, slot 3. -/
theorem test_branch_target : branchTarget 0x1003 4 = 0x1042 ∧ branchTarget 0x1003 (-4) = 0x0FC4 := by decide +kernel

/-! ### The hypotheses of the statements on integers, control and predicates -/

/-- ADD.SAT beyond the range, MADD that reads D, SHL by 63, and CLZ of 0 (IntegerResults). -/
theorem witness_IntegerResults :
    let s := st [(1, 0x7FFFFFFFFFFFFFFF), (2, 1), (3, 5)]
    (∃ i f, i = Instr.add f ∧ f = tf 0x400 (.s 3) (.s 1) (.s 2) ∧ fieldsOf i = some (0x000, f) ∧ ready i s = true
      ∧ Claims.fieldOf s f.a = some 0x7FFFFFFFFFFFFFFF ∧ Claims.fieldOf s f.b = some 1 ∧ Claims.saturates i = true
      ∧ Claims.exactOf 0x7FFFFFFFFFFFFFFF 1 0 i = some (2 ^ 63) ∧ canWrite s fSAT f.d 0x7FFFFFFFFFFFFFFF = true)
    ∧ (∃ i f, i = Instr.madd f ∧ f = tf 0 (.s 3) (.s 1) (.s 2) ∧ ready i s = true ∧ srcOf s f.d = some 5
      ∧ Claims.exactOf 0x7FFFFFFFFFFFFFFF 1 5 i = some (2 ^ 63 + 4))
    ∧ (∃ i f, i = Instr.shl f ∧ f = tf 0 (.s 0) (.s 1) (.imm 63) ∧ ready i s = true ∧ Claims.fieldOf s f.b = some 63
      ∧ Claims.plainOf 0x7FFFFFFFFFFFFFFF 63 i = some 0x8000000000000000 ∧ canWrite s 0 f.d 0x8000000000000000 = true)
    ∧ (∃ i f, i = Instr.clz f ∧ f = tf 0 (.s 3) (.s 0) .none ∧ ready i s = true ∧ Claims.fieldOf s f.b = some 0
      ∧ Claims.countsOf 0 64 i) := by
  refine ⟨⟨_, _, rfl, rfl, by decide +kernel⟩, ⟨_, _, rfl, rfl, by decide +kernel⟩, ⟨_, _, rfl, rfl, by decide +kernel⟩,
    ⟨_, _, rfl, rfl, by decide +kernel, rfl, ?_⟩⟩
  simp [Claims.countsOf]

/-- DIV of -2^63 by -1, and division by 0 in each form (DivisionResults). -/
theorem witness_DivisionResults :
    let s := st [(1, 0x8000000000000000), (2, -1)]
    let f := tf 0 (.s 3) (.s 1) (.s 2)
    let z := tf 0 (.s 3) (.s 1) (.s 0)
    ready (.div f) s = true ∧ srcOf s f.a = some 0x8000000000000000 ∧ srcOf s f.b = some (-1)
    ∧ (0x8000000000000000 : Word).toInt = -2 ^ 63 ∧ canWrite s 0 f.d 0x8000000000000000 = true
    ∧ ready (.divu z) s = true ∧ ready (.rem z) s = true ∧ ready (.remu z) s = true ∧ srcOf s z.b = some 0
    ∧ canWrite s 0 z.d (-1) = true := by decide +kernel

/-- LEA at SH 8, a signed field, and an insertion at the top (AddressAndFieldResults). -/
theorem witness_AddressAndFieldResults :
    let s := st [(1, 0xFFFFFFFFFFFFFFFF), (2, 0x0A5F), (3, 7)]
    ready (.lea (tf 8 (.s 3) (.s 1) (.s 2))) s = true ∧ canWrite s 0 (.s 3) 0xA5EFF = true
    ∧ ready (.bfx (tf 0x1203 (.s 7) (.s 2) .none)) s = true ∧ srcOf s (.s 2) = some 0x0A5F
    ∧ ready (.bfi (tf (63 * 64) (.s 3) (.s 1) .none)) s = true ∧ srcOf s (.s 3) = some 7 := by decide +kernel

/-- A move to %rm and a reserved value for it, SEL, LI, LIH and each comparison (MovesAndCompares). -/
theorem witness_MovesAndCompares :
    let s := st [(1, 2), (2, 1), (3, 9)]
    ready (.mov (tf 0 (.x 2) (.s 1) .none)) s = true ∧ srcOf s (.s 1) = some 2 ∧ canWrite s 0 (.x 2) 2 = true
    ∧ srcOf s (.s 3) = some 9 ∧ (entered s).setSpecial s.hart 2 9 = none ∧ (s.ctxOf s.hart).anyLateV = false
    ∧ ready (.sel (tf 0x12 (.s 4) (.s 1) (.imm 5))) s = true ∧ ready (.li (lf 0 (.s 4) (-1))) s = true
    ∧ ready (.lih (lf 0 (.s 3) 5)) s = true
    ∧ ready (.cmp (tf 2 (.p 3) (.s 1) (.s 2))) s = true ∧ ready (.cmpu (tf 5 (.p 3) (.s 1) (.s 2))) s = true
    ∧ ready (.test (tf 1 (.p 0) (.s 1) (.s 2))) s = true ∧ mField (tf 5 .none .none .none).m 3 0 ≤ 5 := by decide +kernel

/-- Pairs whose sum leaves the range, an immediate as B, and a product (WideResults). -/
theorem witness_WideResults :
    let s := st [(2, -1), (3, 0x7FFFFFFFFFFFFFFF), (4, 1)]
    ready (.addW (tf 0x400 (.w 1) (.w 1) (.w 2))) s = true ∧ Claims.wideOf s (.w 1) = some 0x7FFFFFFFFFFFFFFFFFFFFFFFFFFFFFFF
    ∧ Claims.wideOf s (.w 2) = some 1 ∧ ready (.subW (tf 0 (.w 0) (.w 1) (.imm 0xFFFF))) s = true
    ∧ Claims.wideOf s (.imm 0xFFFF) = some (-1) ∧ ready (.mulW (tf 1 (.w 1) (.s 2) (.s 3))) s = true
    ∧ srcOf s (.s 2) = some (-1) := by decide +kernel

/-- The last slot of the last block (PcArithmetic). -/
theorem witness_PcArithmetic : (2 ^ 42 - 1 : Nat) < 2 ^ 42 ∧ 4 < 5
    ∧ ((5 * (2 ^ 42 - 1) + 4 : Nat) : Int) + 1 ≡ (5 * 0 + 0 : Nat) [ZMOD 5 * 2 ^ 42] := by decide

/-- Each control transfer, with a target that is a PC and one that is none (ControlTransfers). -/
theorem witness_ControlTransfers :
    let s := st [(1, 0x1004), (2, 0x1005), (3, 1), (4, 2 ^ 48)]
    ready (.br (lf 0 .none (-5))) s = true ∧ ready (.jmp (lf 0 (.s 1) 3)) s = true ∧ srcOf s (.s 1) = some 0x1004
    ∧ Claims.wellFormedPc 0x1004 ∧ srcOf s (.s 2) = some 0x1005 ∧ ¬ Claims.wellFormedPc 0x1005 ∧ ¬ Claims.wellFormedPc 0x1000000000000
    ∧ ready (.call (lf 0 (.s 62) 3)) s = true ∧ ready (.callr (tf 0 (.s 62) (.s 1) .none)) s = true
    ∧ ready (.ret (tf 0 .none (.s 1) .none)) s = true ∧ ready (.loop (lf 0 (.s 3) (-1))) s = true ∧ srcOf s (.s 3) = some 1
    ∧ ready (.brt (lf 5 (.s 3) 9)) s = true := by
  simp only [Claims.wellFormedPc]; decide +kernel

/-- A guard that selects p1, which is zero (FalseGuard). -/
theorem witness_FalseGuard :
    let s := st []
    let f := { tf 0 (.s 1) (.s 2) (.s 3) with g := ⟨false, 1⟩ }
    fieldsOf (.add f) = some (0, f) ∧ validHart s.hart = true ∧ s.hartChecks s.hart 0 f = none
    ∧ guardTrue f.g (s.ctxOf s.hart) = false := by decide +kernel

/-- Each on the boot core, with a deadline that has been reached and one that has not (ThreadControl). -/
theorem witness_ThreadControl :
    let s := st [(1, 5)]
    let n := tf 0 .none .none .none
    ready (.nop n) s = true ∧ ready (.yield n) s = true ∧ s.hart = .core 0 0 ∧ ready (.bkpt (tf 0 .none .none (.imm 3))) s = true
    ∧ ready (.waitt (tf 0 .none (.s 1) .none)) s = true ∧ srcOf s (.s 1) = some 5
    ∧ s.resumes s.hart 0x04B (tf 0 .none (.s 1) .none) = false ∧ s.time % 2 ^ 64 < 5 ∧ srcOf s (.s 0) = some 0 := by decide +kernel

/-- A core that is armed, a thread with a handler, and a WAITT that waits already (ThreadControl). -/
theorem witness_ThreadControl_traps :
    let b := tf 0 .none .none (.imm 3)
    let f := tf 1 .none (.s 1) .none
    let h := onCore { regs [] with tvec := 0x2003 }
    let a : State := { h with ctl := [(0x820000 / 8, 1)] }
    let w := onCore { regs [(1, 5)] with waitObj := 9 }
    let w := w.setThread 0 0 { w.thread 0 0 with waiting := some (0x04B, f) }
    (readyCore (.bkpt b) a = true ∧ a.armed 0 = true ∧ (a.core 0).halted = false)
    ∧ (readyCore (.bkpt b) h = true ∧ h.armed 0 = false ∧ Claims.untraced h ∧ Claims.hasHandler (h.ctxOf h.hart))
    ∧ (ready (.waitt f) w = true ∧ srcOf w f.a = some 5 ∧ w.resumes w.hart 0x04B f = true ∧ (w.ctxOf w.hart).waitObj = 9) := by
  simp only [Claims.untraced, Claims.hasHandler, Claims.wellFormedPc]; decide +kernel

/-- Predicates whose lanes the results fix (PredicateResults). -/
theorem witness_PredicateResults :
    let s := st [(1, 70)]
    ready (.pand (tf 0 (.p 3) (.p 2) (.p 0))) s = true ∧ predOf s (.p 2) = some 1 ∧ (predOf s (.p 0)).isSome = true
    ∧ ready (.pnot (tf 0 (.p 3) (.p 2) .none)) s = true ∧ Claims.lanesOf s (fun j => !(1 : Pred).getLsbD j) (2 ^ 64 - 2)
    ∧ ready (.pset (tf 0 (.p 3) (.s 1) .none)) s = true ∧ Claims.lanesOf s (fun j => decide (j < (70 : Word).toNat)) (2 ^ 64 - 1)
    ∧ ready (.pany (tf 0 (.s 3) (.p 2) .none)) s = true ∧ ready (.pall (tf 0 (.s 3) (.p 2) .none)) s = true
    ∧ ready (.pcnt (tf 0 (.s 3) (.p 2) .none)) s = true ∧ ready (.pfirst (tf 0 (.s 3) (.p 1) .none)) s = true
    ∧ (predOf s (.p 1)) = some 0 := by
  simp only [Claims.lanesOf]; decide +kernel

/-! ### Floating point -/

/-- Registers with 1.0, 2.0, -0, infinity, a signalling and a quiet NaN, 3.5, and 1e38 rounded as %rm 5 with a seed. -/
def fp : State := onCore { regs [(1, 0x3F800000), (2, 0x40000000), (3, 0x80000000), (4, 0x7F800000), (5, 0x7F800001), (6, 0x7FC00000),
  (7, 0x40600000), (8, 0x7E967699), (9, -3), (10, 0x0000000C)] with rm := 5, srseed := 7 }

/-- FADD, FMA that reads D, and FSQRT (FloatArithmetic). -/
theorem witness_FloatArithmetic :
    let f := tf 0 (.s 11) (.s 1) (.s 7)
    fieldsOf (.fadd f) = some (0x060, f) ∧ ready (.fadd f) fp = true ∧ Claims.fpFieldOf fp f.a = some 0x3F800000
    ∧ Claims.fpFieldOf fp f.b = some 0x40600000 ∧ ready (.fma (tf 0x3000 (.s 2) (.s 1) (.s 7))) fp = true ∧ fpOf fp (.s 2) = some 0x40000000
    ∧ ready (.fsqrt (tf 0 (.s 11) (.s 2) .none)) fp = true ∧ Claims.fpFieldOf fp .none = some 0
    ∧ (Claims.arithOf (decodeF fp32 0x40000000) (.fin false 0 1) (.fin false 0 1) (.fsqrt (tf 0 (.s 11) (.s 2) .none))).isSome = true := by
  decide +kernel

/-- FRINT of 3.5, F2I, FCVT, I2F of -3 and U2F (FloatConversions). -/
theorem witness_FloatConversions :
    ready (.frint (tf 0 (.s 11) (.s 7) .none)) fp = true ∧ fpOf fp (.s 7) = some 0x40600000
    ∧ ready (.f2i (tf 0 (.s 11) (.s 8) .none)) fp = true ∧ ready (.f2u (tf 0 (.s 11) (.s 6) .none)) fp = true
    ∧ ready (.fcvt (tf 0x80 (.s 11) (.s 7) .none)) fp = true ∧ ready (.i2f (tf 0 (.s 11) (.s 9) .none)) fp = true
    ∧ srcOf fp (.s 9) = some (-3) ∧ ready (.u2f (tf 0 (.s 11) (.imm 0xFFFF) .none)) fp = true := by decide +kernel

/-- A special value, a NaN, and each instruction (ApproximatedFunctions). -/
theorem witness_ApproximatedFunctions :
    (Claims.fpNegInf, 0, 0) ∈ Claims.approxSpecial .exp2 ∧ decodeF fp32 0x7F800001 = .nan true ∧ decodeF fp32 0x7FC00000 = .nan false
    ∧ ready (.fexp2 (tf 0 (.s 11) (.s 1) .none)) fp = true ∧ ready (.flog2 (tf 0 (.s 11) (.s 1) .none)) fp = true
    ∧ ready (.frcp (tf 0 (.s 11) (.s 1) .none)) fp = true ∧ ready (.frsq (tf 0 (.s 11) (.s 1) .none)) fp = true
    ∧ ready (.ftanh (tf 0 (.s 11) (.s 1) .none)) fp = true ∧ ready (.fsigm (tf 0 (.s 11) (.s 1) .none)) fp = true := by decide +kernel

/-- 7/2 to an even integer, and 1/3 in FP16 beside another member (Rounding). -/
theorem witness_Rounding : roundInt .rne false 7 2 = (4, true) ∧ roundInt (.sr 0) true 7 2 = (-4, true)
    ∧ (∃ n d, decodeF fp16 (encodeF fp16 .rne (.fin false 1 3)).bits = .fin false n d) ∧ fp16 ∈ [fp32, fp16, bf16, e5m2, e4m3]
    ∧ (∃ m c, decodeF fp16 0x3C00 = .fin false m c) ∧ 0x3C00 < 2 ^ fp16.width := by
  refine ⟨by decide +kernel, by decide +kernel, ?_, by decide +kernel, ?_, by decide +kernel⟩
  · exact ⟨_, _, by rfl⟩
  · exact ⟨_, _, by rfl⟩

/-- FSCALB, FGETEXP of 1.0, of an infinity and of 0, SCENC of 3.5, SCDEC of 63 and 12, FQ8 invalid and valid, FDQ8 (ScalesAndQuantisation). -/
theorem witness_ScalesAndQuantisation :
    ready (.fscalb (tf 0 (.s 11) (.s 1) (.s 9))) fp = true ∧ fpOf fp (.s 1) = some 0x3F800000 ∧ srcOf fp (.s 9) = some (-3)
    ∧ ready (.fgetexp (tf 0 (.s 11) (.s 1) .none)) fp = true ∧ (∃ num den, decodeF fp32 0x3F800000 = .fin false num den ∧ num = den * 1 ∧ num ≠ 0)
    ∧ decodeF fp32 0x7F800000 = .inf false ∧ ready (.scenc (tf 0 (.s 11) (.s 7) .none)) fp = true
    ∧ ready (.scdec (tf 0 (.s 11) (.s 10) .none)) fp = true ∧ fpOf fp (.s 10) = some 12
    ∧ ready (.fq8 (tf 0 (.s 11) (.s 7) (.s 1))) fp = true ∧ isNaN (decodeF fp32 0x7F800001) = true
    ∧ ready (.fdq8 (tf 0 (.s 11) (.s 10) (.s 1))) fp = true := by
  refine ⟨by decide +kernel, by decide +kernel, by decide +kernel, by decide +kernel, ⟨_, _, rfl, by decide +kernel⟩, ?_⟩
  decide +kernel

/-- FMIN of -0 and 0, FMAX of a NaN, FABS, FNEG, FSGN, FCMP ordered and unordered, FCLASS of -0 (FloatSelectCompareAndClass). -/
theorem witness_FloatSelectCompareAndClass :
    ready (.fmin (tf 0 (.s 11) (.s 3) (.imm 0))) fp = true ∧ fpOf fp (.s 3) = some 0x80000000 ∧ fpOf fp (.imm 0) = some 0
    ∧ (cmpV (decodeF fp32 0x80000000) (decodeF fp32 0) = some .eq ∧ signOf (decodeF fp32 0x80000000) = true ∧ signOf (decodeF fp32 0) = false)
    ∧ ready (.fmax (tf 0 (.s 11) (.s 5) (.s 1))) fp = true ∧ isNaN (decodeF fp32 0x7F800001) = true
    ∧ ready (.fabs (tf 0 (.s 11) (.s 3) .none)) fp = true ∧ ready (.fneg (tf 0 (.s 11) (.s 3) .none)) fp = true
    ∧ ready (.fsgn (tf 0 (.s 11) (.s 3) (.s 1))) fp = true ∧ ready (.fcmp (tf 2 (.p 3) (.s 6) (.s 1))) fp = true
    ∧ cmpV (decodeF fp32 0x7FC00000) (decodeF fp32 0x3F800000) = none ∧ ready (.fcmp (tf 7 (.p 3) (.s 1) (.s 1))) fp = true
    ∧ ready (.fclass (tf 0 (.s 11) (.s 3) .none)) fp = true ∧ 0x80000000 / 2 ^ 31 % 2 = 1 := by decide +kernel

/-- The limits of a signed byte (NarrowingRule). -/
theorem witness_NarrowingRule : 0 < 8 ∧ (128 : Int) > 2 ^ (8 - 1) - 1 ∧ (narrow true true 8 128).bits = 127 ∧ (narrow true false 8 128).bits = 128 := by
  decide +kernel

/-! ### Vectors -/

/-- Three vectors under a lane format, with p1 selecting lanes 0, 1, 5 and 6, a channel bound to h1, and scalars. -/
def vs (fmt : BitVec 6) : State :=
  let s := onCore { regs [(1, 0x3F8000003F800000), (2, 3), (4, 0x4000000040000000), (5, 0x3F80000000000000)] with
    fmt := fmt, v := [(1, 0x7FFFFFFF_3F800000_00000001), (2, 0x00000001_40000000_00000002), (3, 5)], p := [(1, 0x63), (2, 1)], srseed := 9,
    handles := [(1, some 0)] }
  { s with chans := [(s.tenOf s.hart * 65536, { Chan.zero with v := true, ten := 0, lcnt := 1, lsz := 8 })] }

/-- Saturating, masked and merging integer lanes, MADD that reads D, and a channel destination (VectorIntegerLanes). -/
theorem witness_VectorIntegerLanes :
    let s := vs 2
    let f := tf 0x420 (.v 3) (.v 1) (.v 2)
    let c := s.ctxOf s.hart
    fieldsOf (.vadd f) = some (0x0A0, f) ∧ ready (.vadd f) s = true ∧ (Claims.intLanes s 32 64 f.a).isSome = true
    ∧ (Claims.intLanes s 32 64 f.b).isSome = true ∧ canPut s (Claims.keeps f) f.d = true ∧ Claims.keeps f = true
    ∧ (∃ rs : List Rd, (((Claims.intLanes s 32 64 f.a).getD []).zip (((Claims.intLanes s 32 64 f.b).getD []).zip ((Claims.intLanes s 32 64 f.b).getD []))).map
        (fun e => Claims.intLane (laneSigned c) true 32 e.1 e.2.1 e.2.2 (.vadd f)) = rs.map some)
    ∧ ready (.vmadd (tf 0 (.v 3) (.v 1) (.imm 0xFFFF))) s = true ∧ (Claims.intLanes s 32 64 (.v 3)).isSome = true
    ∧ (Claims.intLanes s 32 64 (.imm 0xFFFF)).isSome = true ∧ laneFloat c = none ∧ laneFloat ((vs 6).ctxOf (vs 6).hart) = none := by
  refine ⟨by decide +kernel, by decide +kernel, by decide +kernel, by decide +kernel, by decide +kernel, by decide +kernel,
    ⟨((((Claims.intLanes (vs 2) 32 64 (.v 1)).getD []).zip (((Claims.intLanes (vs 2) 32 64 (.v 2)).getD []).zip
      ((Claims.intLanes (vs 2) 32 64 (.v 2)).getD []))).map (fun e => (Claims.intLane true true 32 e.1 e.2.1 e.2.2
        (.vadd (tf 0x420 (.v 3) (.v 1) (.v 2)))).getD ⟨0, 0⟩)), by decide +kernel⟩, ?_⟩
  decide +kernel

/-- FP32 lanes with an immediate, the FMA that reads D, and VAVG (VectorFloatLanes). -/
theorem witness_VectorFloatLanes :
    let s := vs 18
    let c := s.ctxOf s.hart
    let f := tf 0x20 (.v 3) (.v 1) (.imm 3)
    fieldsOf (.vfadd f) = some (0x0B1, f) ∧ ready (.vfadd f) s = true ∧ laneFloat c = some fp32
    ∧ (Claims.fpLanes s fp32 (mField f.m 13 11) (lanes c) f.a).isSome = true ∧ (Claims.fpLanes s fp32 (mField f.m 13 11) (lanes c) f.b).isSome = true
    ∧ (Claims.fpLane c fp32 0 0 0 0 (.vfadd f)).isSome = true ∧ canPut s (Claims.keeps f) f.d = true
    ∧ ready (.vfma (tf 0 (.v 3) (.v 1) (.s 1))) s = true ∧ (Claims.intLanes s 32 (lanes c) (.v 3)).isSome = true
    ∧ ready (.vavg (tf 0 (.v 3) (.v 1) (.v 2))) s = true ∧ (Claims.fpLane c fp32 0 0 0 0 (.vavg f)).isSome = true := by decide +kernel

/-- VCMP, VFCMP unordered, VSEL with the negated predicate (VectorCompareAndSelect). -/
theorem witness_VectorCompareAndSelect :
    ready (.vcmp (tf 0x25 (.p 3) (.v 1) (.v 2))) (vs 2) = true ∧ (Claims.intLanes (vs 2) 32 64 (.v 1)).isSome = true
    ∧ ready (.vfcmp (tf 0x26 (.p 3) (.v 1) (.v 2))) (vs 18) = true ∧ (Claims.fpLanes (vs 18) fp32 0 64 (.v 2)).isSome = true
    ∧ ready (.vsel (tf 0x11 (.v 3) (.v 1) (.imm 7))) (vs 2) = true ∧ (Claims.intLanes (vs 2) 32 64 (.imm 7)).isSome = true
    ∧ canPut (vs 2) false (.v 3) = true := by decide +kernel

/-- Blocks of 16 lanes, and the scales (VectorBlocks). -/
theorem witness_VectorBlocks :
    let s := vs 18
    spanOf s (.v 1) = some 0x7FFFFFFF_3F800000_00000001 ∧ canPut s false (.v 3) = true ∧ ready (.vbsenc (tf 1 (.v 3) (.v 1) .none)) s = true
    ∧ 16 * 2 ^ mField (tf 1 .none .none .none).m 3 2 ≤ lanes (s.ctxOf s.hart) ∧ ready (.vbsdec (tf 8 (.v 3) (.v 1) .none)) s = true
    ∧ 16 * 2 ^ mField (tf 8 .none .none .none).m 3 2 = lanes (s.ctxOf s.hart) ∧ ready (.vq8 (tf 0 (.v 3) (.v 1) (.s 1))) s = true ∧ fpOf s (.s 1) = some 0x3F800000
    ∧ ready (.vdq8 (tf 0 (.v 3) (.v 1) (.s 1))) s = true ∧ ready (.vamax (tf 0 (.v 3) (.v 1) .none)) s = true
    ∧ (laneFloat (s.ctxOf s.hart)).isSome = true := by decide +kernel

/-- The maximum of masked lanes, the sum, a dot product, and the trees (VectorReductions). -/
theorem witness_VectorReductions :
    let s := vs 2
    let t := vs 18
    spanOf s (.v 2) = some 0x00000001_40000000_00000002 ∧ ready (.vradd (tf 0x20 (.s 6) (.v 2) .none)) s = true
    ∧ ready (.vrmax (tf 0 (.s 6) (.v 2) .none)) s = true ∧ (∀ z ∈ (elems 32 64 0x00000001_40000000_00000002).map (laneInt true 32), z ≤ 0x40000000)
    ∧ (0x40000000 : Int) ∈ (elems 32 64 0x00000001_40000000_00000002).map (laneInt true 32) ∧ ready (.vrmin (tf 0 (.s 6) (.v 2) .none)) s = true
    ∧ (∀ z ∈ (elems 32 64 0x00000001_40000000_00000002).map (laneInt true 32), 0 ≤ z)
    ∧ (0 : Int) ∈ (elems 32 64 0x00000001_40000000_00000002).map (laneInt true 32)
    ∧ ready (.vdot (tf 0 (.s 2) (.v 1) (.v 2))) s = true ∧ srcOf s (.s 2) = some 3 ∧ (Claims.intLanes s 32 64 (.v 2)).isSome = true
    ∧ laneFloat (t.ctxOf t.hart) = some fp32 ∧ ready (.vrfadd (tf 0x20 (.s 6) (.v 1) .none)) t = true ∧ ready (.vrfmax (tf 0 (.s 6) (.v 1) .none)) t = true
    ∧ ready (.vrfmin (tf 0 (.s 6) (.v 1) .none)) t = true ∧ ready (.vfdot (tf 0 (.s 1) (.v 1) (.v 2))) t = true
    ∧ (Claims.fpLanes t fp32 0 64 (.v 2)).isSome = true ∧ fpOf t (.s 1) = some 0x3F800000 := by decide +kernel

/-- Each move, and each special form; both states of VONLINE, and a NaN among them (VectorMovesAndForms). -/
theorem witness_VectorMovesAndForms :
    let s := vs 2
    let t := vs 18
    canPut s true (.v 3) = true ∧ ready (.vmov (tf 0x20 (.v 3) (.v 1) .none)) s = true ∧ ready (.vperm (tf 0 (.v 3) (.v 1) (.v 2))) s = true
    ∧ ready (.vslide (tf 0 (.v 3) (.v 1) (.imm 0xFFFF))) s = true ∧ ready (.vbcast (tf 0 (.v 3) (.s 2) .none)) s = true
    ∧ ready (.vext (tf 0 (.s 6) (.v 1) (.imm 63))) s = true ∧ ready (.vins (tf 0 (.v 3) (.s 2) (.imm 63))) s = true ∧ (vecOf s (.v 3)) = some 5
    ∧ ready (.vshuf (tf 5 (.v 3) (.v 1) .none)) s = true ∧ lanes (s.ctxOf s.hart) ∈ [64, 128, 256] ∧ spanOf s .none = some 0
    ∧ ready (.vcompress (tf 0 (.v 3) (.v 1) (.p 1))) s = true ∧ predOf s (.p 1) = some 0x63 ∧ ready (.vexpand (tf 0 (.v 3) (.v 1) (.p 1))) s = true
    ∧ ready (.viota (tf 0 (.v 3) (.p 1) .none)) s = true
    ∧ ready (.vfcvt (tf 0x20 (.v 3) (.v 1) .none)) t = true ∧ spanOf t (.v 3) = some 5 ∧ ready (.vsplit (tf 0 (.v 3) (.v 1) (.p 1))) t = true
    ∧ ready (.vonline (tf 0 (.s 6) .none (.w 2))) t = true ∧ pairOf t (.w 2) = some (0x4000000040000000, 0x3F80000000000000)
    ∧ (onlineMerge 0x40000000 0).isSome = true ∧ onlineMerge 0x7FC00000 0 = none ∧ ready (.vonline (tf 0 (.v 3) (.v 1) (.w 2))) t = true
    ∧ ready (.vscan (tf 1 (.v 3) (.v 1) .none)) s = true ∧ laneFloat (s.ctxOf s.hart) = none ∧ ready (.vscan (tf 0 (.v 3) (.v 1) .none)) t = true
    ∧ laneFloat (t.ctxOf t.hart) = some fp32 ∧ ready (.vrng (tf 0 (.v 3) .none .none)) s = true ∧ canPut t false (.v 3) = true := by decide +kernel

/-- A lane result and a scalar result: VADD wraps per lane, and VRADD adds signed lanes (06 R121, R127). -/
theorem test_vadd : (after (.vadd (tf 0 (.v 3) (.v 1) (.imm 1))) (vs 2)).map (fun c => elems 32 3 (c.v.get 0 3).toNat)
      = some [2, 0x3F800001, 0x80000000]
    ∧ sAfter (.vradd (tf 0 (.s 6) (.v 1) .none)) (vs 2) 6 = some 0xBF800000 := by decide +kernel

/-! ### Memory -/

theorem found_home {s : State} {pa n : Nat} {pg : Page} (h : s.regionOf pa ≠ .pcie) (hp : s.homePoisoned pa n = false) :
    Found s (.dev pa) pg n .home (s.homeBytes pa n) := by simp [Found, h, hp]

theorem found_l1 {s : State} {pa n : Nat} {pg : Page} {path : Path} (h : s.regionOf pa ≠ .pcie) (hn : path ≠ .home)
    (hc : s.cached s.hart pa pg = true) (hp : ∀ w ∈ wordsOf pa n, seenPoison s (coreOf s.hart) w = false) :
    Found s (.dev pa) pg n path ((List.range n).map (fun i => seenByte s (coreOf s.hart) (pa + i))) := by
  simp only [Found, h, hn, hc, if_false, ne_eq, not_false_eq_true, and_self, if_true]
  exact ⟨hp, trivial⟩

theorem found_scr {s : State} {key off n : Nat} {pg : Page} {path : Path} (hp : s.scrPoisoned key off n = false) :
    Found s (.scr key off) pg n path (s.scrBytes key off n) := by simp [Found, hp]

theorem not_found_l1 {s : State} {pa n w : Nat} {pg : Page} {path : Path} (h : s.regionOf pa ≠ .pcie) (hn : path ≠ .home)
    (hc : s.cached s.hart pa pg = true) (hw : w ∈ wordsOf pa n) (hp : seenPoison s (coreOf s.hart) w = true) :
    ¬ ∃ bs, Found s (.dev pa) pg n path bs := by
  rintro ⟨bs, hb⟩
  simp only [Found, h, hn, hc, if_false, ne_eq, not_false_eq_true, and_self, if_true] at hb
  have := hb.1 w hw
  simp [hp] at this

theorem element_of {s : State} {refuse : Refuse} {va nib bits : Nat} {path : Path} {loc : Loc} {pg : Page} {bs : List Byte}
    (ha : allowed s va .read refuse = some (loc, pg)) (hf : pg.fmt ≠ 12) (hb : Found s loc pg (Max.max 1 (bits / 8)) path bs) :
    ∃ x, Claims.Element s refuse va nib path pg.fmt bits x 0 :=
  ⟨_, loc, pg, bs, ha, rfl, hb, rfl, by simp [Claims.Scale, hf]⟩

/-- The page of the boot context. -/
def bootPage : Page := { fmt := 0, geom := 0, w := true, x := true, nc := false, s := true, home := 1 }

/-- In the boot context an address is its physical address, however memory stands, so every cached translation is settled. -/
theorem locate_boot (s u : State) (h : HartId) (b : Nat) : (u.locate h 16 b).2 = (s.locate h 16 b).2 := by
  have e : u.windowBase 16 = s.windowBase 16 := by simp only [State.windowBase, if_true]
  have f : u.worldOf 16 = s.worldOf 16 := by simp only [State.worldOf, if_true]
  simp only [State.locate, e, f, if_true]
  split <;> rfl

theorem settled_boot {s : State} {g : State → State} (h : s.tenOf s.hart = 16) : Claims.settled s g := by
  intro vas b
  rw [h]; exact locate_boot _ _ _ _

/-- A key that a map does not list reads as its default. -/
theorem get_unlisted {α : Type} (d : α) (m : SMap α) (k : Nat) (h : ∀ e ∈ m, e.1 ≠ k) : SMap.get d m k = d := by
  induction m with
  | nil => rfl
  | cons e r ih =>
    have h1 : e.1 ≠ k := h e (by simp)
    have h2 := ih (fun x hx => h x (by simp [hx]))
    simp only [SMap.get] at h2 ⊢
    simp [h1.symm, h2]

theorem walk_still (s : State) (cs : SMap Core) (ts : SMap Thread) (va n t : Nat) :
    ({ s with cores := cs, threads := ts } : State).walk va n t = s.walk va n t := by
  induction n generalizing t with
  | zero => rfl
  | succ n ih =>
    simp only [State.walk, ih]
    rfl

theorem countTlb_still (s : State) (cs : SMap Core) (ts : SMap Thread) (h : HartId) (b : Bool) :
    ∃ cs' ts', ({ s with cores := cs, threads := ts } : State).countTlb h b = { s with cores := cs', threads := ts' } := by
  cases h <;> cases b <;> exact ⟨_, _, rfl⟩

theorem translate_up (h : HartId) (ten va : Nat) : ∃ up, (isCore h = false → up = 960 + clusterOf h) ∧ ∀ u : State, u.translate h ten va =
    (match u.tlbFind up ten va with
    | some e => (u, some e)
    | none => match u.tlbFind (960 + clusterOf h) ten va with
      | some e => ((u.tlbKeep up ten va e).countTlb h false, some e)
      | none => match u.walk va 4 (bitsOf (u.descWord ten 0) 51 12) with
        | some e => (((u.tlbKeep (960 + clusterOf h) ten va e).tlbKeep up ten va e).countTlb h true, some e)
        | none => (u.countTlb h true, none)) := by
  cases h <;> exact ⟨_, by simp [isCore], fun _ => rfl⟩

/-- Where every cached translation stands in the hart's first cache and the page table is empty, a translation changes only counts. -/
theorem locate_still {s : State} {h : HartId} {ten : Nat} (hr : bitsOf (s.descWord ten 0) 51 12 = 0)
    (hm : s.mem.all (fun e => decide (4096 ≤ e.1)) = true)
    (hl : s.tlb.all (fun e => decide (e.1 < 960 * 32 * 2 ^ 38)) = true ∨ isCore h = false) (vas : List Nat) :
    ∃ cs ts, vas.foldl (fun u va => (u.locate h ten va).1) s = { s with cores := cs, threads := ts }
      ∧ ∀ b, (({ s with cores := cs, threads := ts } : State).locate h ten b).2 = (s.locate h ten b).2 := by
  have hw : ∀ va, s.walk va 4 0 = none := by
    intro va
    have hz : s.homeNat (0 * 4096 + 8 * bitsOf va (12 + 9 * 3 + 8) (12 + 9 * 3)) 8 = 0 := by
      have hb : bitsOf va (12 + 9 * 3 + 8) (12 + 9 * 3) < 512 := by
        simp only [bitsOf]; exact Nat.mod_lt _ (by decide)
      have hg : ∀ a < 4096, s.homeByte a = 0 := by
        intro a ha
        refine get_unlisted _ _ _ ?_
        intro e he
        have := List.all_eq_true.mp hm e he
        simp only [decide_eq_true_eq] at this
        omega
      have he : s.homeBytes (0 * 4096 + 8 * bitsOf va (12 + 9 * 3 + 8) (12 + 9 * 3)) 8 = List.replicate 8 0 := by
        apply List.ext_getElem
        · simp [State.homeBytes]
        · intro i h1 h2
          simp only [State.homeBytes, List.length_map, List.length_range] at h1
          simp only [State.homeBytes, List.getElem_map, List.getElem_range, List.getElem_replicate]
          exact hg _ (by omega)
      rw [State.homeNat, he]; rfl
    rw [State.walk, hz]; rfl
  have one : ∀ (cs : SMap Core) (ts : SMap Thread) (va : Nat),
      (∃ cs' ts', (({ s with cores := cs, threads := ts } : State).locate h ten va).1 = { s with cores := cs', threads := ts' })
      ∧ (({ s with cores := cs, threads := ts } : State).locate h ten va).2 = (s.locate h ten va).2 := by
    intro cs ts va
    have tr : (∃ cs' ts', (({ s with cores := cs, threads := ts } : State).translate h ten va).1 = { s with cores := cs', threads := ts' })
        ∧ (({ s with cores := cs, threads := ts } : State).translate h ten va).2 = (s.translate h ten va).2 := by
      generalize hu' : ({ s with cores := cs, threads := ts } : State) = u at *
      have e1 : ∀ k va, u.tlbFind k ten va = s.tlbFind k ten va := fun k va => by rw [← hu']; rfl
      have e2 : u.descWord ten 0 = s.descWord ten 0 := by rw [← hu']; rfl
      have e3 : ∀ va, u.walk va 4 0 = none := fun va => by rw [← hu', walk_still]; exact hw va
      obtain ⟨up, hup, heq⟩ := translate_up h ten va
      rw [heq, heq, e1, e1, e2, hr, e3, hw]
      cases hu : s.tlbFind up ten va with
      | some e => exact ⟨⟨cs, ts, hu'.symm⟩, rfl⟩
      | none =>
        have hn : s.tlbFind (960 + clusterOf h) ten va = none := by
          rcases hl with hl | hl
          · rw [State.tlbFind, List.findSome?_eq_none_iff]
            intro sz _
            refine get_unlisted _ _ _ ?_
            intro e he
            have := List.all_eq_true.mp hl e he
            simp only [decide_eq_true_eq] at this
            simp only [tlbKey]
            omega
          · rw [← hup hl]; exact hu
        simp only [hn]
        obtain ⟨c', t', he⟩ := countTlb_still s cs ts h true
        exact ⟨⟨c', t', by rw [← hu']; exact he⟩, trivial⟩
    unfold State.locate
    rw [show ({ s with cores := cs, threads := ts } : State).windowBase = s.windowBase from rfl]
    dsimp only
    split
    · exact ⟨⟨cs, ts, rfl⟩, rfl⟩
    · split
      · exact ⟨⟨cs, ts, rfl⟩, rfl⟩
      · obtain ⟨⟨c', t', h1⟩, h2⟩ := tr
        generalize ({ s with cores := cs, threads := ts } : State).translate h ten va = x at *
        generalize s.translate h ten va = y at *
        obtain ⟨x1, x2⟩ := x
        obtain ⟨y1, y2⟩ := y
        simp only at h1 h2
        subst h1 h2
        cases x2 with
        | none => exact ⟨⟨c', t', rfl⟩, rfl⟩
        | some e => dsimp only; split <;> exact ⟨⟨c', t', rfl⟩, rfl⟩
  have all : ∀ (l : List Nat) (cs : SMap Core) (ts : SMap Thread), ∃ cs' ts',
      l.foldl (fun u va => (u.locate h ten va).1) ({ s with cores := cs, threads := ts } : State) = { s with cores := cs', threads := ts' } := by
    intro l
    induction l with
    | nil => exact fun cs ts => ⟨cs, ts, rfl⟩
    | cons a r ih =>
      intro cs ts
      obtain ⟨⟨c', t', h1⟩, _⟩ := one cs ts a
      simp only [List.foldl, h1]
      exact ih c' t'
  obtain ⟨c', t', ha⟩ := all vas s.cores s.threads
  exact ⟨c', t', ha, fun b => (one c' t' b).2⟩

theorem settled_tlb {s : State} {g : State → State} (hr : bitsOf (s.descWord (s.tenOf s.hart) 0) 51 12 = 0)
    (hm : s.mem.all (fun e => decide (4096 ≤ e.1)) = true)
    (hl : s.tlb.all (fun e => decide (e.1 < 960 * 32 * 2 ^ 38)) = true ∨ isCore s.hart = false)
    (hg : ∀ cs ts, g { s with cores := cs, threads := ts } = { s with cores := cs, threads := ts } := by intros; rfl) : Claims.settled s g := by
  intro vas b
  obtain ⟨cs, ts, h1, h2⟩ := locate_still hr hm hl vas
  rw [h1, hg]; exact h2 b

/-- Core 0 in tenant 0 of the address-space descriptor at 0x40000, its node table at 0x50000, its pool at 0x60000, and
translations of pages of BF16 (0x1000000), BS4 (0x1001000), read only (0x1002000), and of nodes 2, whose line 0 is full, and 3, which job 2 holds. -/
def ten (c : Ctx) : State :=
  let s : State := { State.reset with hart := .core 0 0, tenants := [(0, some ⟨0x40000, 0⟩)] }
  let s := s.setCore 0 { s.core 0 with tenant := 0 }
  let s := s.setThread 0 0 { Thread.zero with ctx := c, launch := some 0 }
  let s : State := { s with mem := writeBytes s.mem 0x40010 (bytesOf 8 0x50000 ++ bytesOf 8 (4 + 64 * 256) ++ bytesOf 8 0x60000) }
  let s : State := { s with tlb := [(tlbKey 0 0 0x1000000 0, some ⟨0x01000203, 0⟩), (tlbKey 0 0 0x1001000 0, some ⟨0x01100303, 0⟩), (tlbKey 0 0 0x1002000 0, some ⟨0x01200001, 0⟩), (tlbKey 0 0 0x1003000 0, some ⟨0x00204003, 0⟩), (tlbKey 0 0 0x1004000 0, some ⟨0x00304003, 0⟩)] }
  let node (j : Nat) : Node := ⟨1, 0, 0, 0, 0, 0, 0, 0, 4, 1, 1, j⟩
  let s := (s.setNode 0 2 (node 0)).setNode 0 3 (node 2)
  { s with mem := writeBytes s.mem 0x60100 (bytesOf 4 0x80000002) }

/-- A misaligned address, one that is not mapped, a store to a page without W, one to a node that a job holds, and poisoned
data (AccessChecks). -/
theorem witness_AccessChecks :
    let s := st [(1, 0x10001), (2, 0x1000000000000), (3, 0x10000)]
    let p : State := { s with poison := [(0x2000, true)] }
    let t := ten (regs [(1, 0x1002000), (2, 0x1004000), (4, 0x1000000)])
    let f (a : BitVec 6) := tf 0 (.s 5) (.s a) (.imm 0)
    (fieldsOf (.ld (f 1)) = some (0x100, f 1) ∧ ready (.ld (f 1)) s = true ∧ Claims.addrOf s (f 1) = some 0x10001 ∧ 0x10001 % Claims.size (f 1) ≠ 0)
    ∧ (∃ path, Claims.loads (.ld (f 1)) (f 1) path) ∧ (Claims.addrOf s (f 2) = some 0x1000000000000 ∧ placeOf s 0x1000000000000 = none)
    ∧ (ready (.st (f 1)) t = true ∧ Claims.addrOf t (f 1) = some 0x1002000 ∧ (∃ th d, Claims.stores t (.st (f 1)) (f 1) th d)
      ∧ (placeOf t 0x1002000).map (fun e => failsWith t .write anyPage e.1 e.2) = some (some cPROTECTION))
    ∧ ((placeOf t 0x1004000).map (fun e => (failsWith t .write anyPage e.1 e.2, e.1, heldByJob t .write e.1)) = some (none, .ln 3 0, true))
    ∧ (ready (.ld (f 3)) p = true ∧ placeOf p 0x10000 = some (.dev 0x10000, bootPage) ∧ failsWith p .read anyPage (.dev 0x10000) bootPage = none
      ∧ ¬ ∃ bs, Found p (.dev 0x10000) bootPage (Claims.size (f 3)) .l1 bs) := by
  refine ⟨by decide +kernel, ⟨.l1, Or.inl ⟨rfl, rfl⟩⟩, by decide +kernel, ⟨by decide +kernel, by decide +kernel, ⟨false, 0, Or.inl ⟨rfl, rfl⟩, by decide +kernel⟩,
    by decide +kernel⟩, by decide +kernel, by decide +kernel, by decide +kernel, by decide +kernel, ?_⟩
  exact not_found_l1 (w := 0x2000) (by decide +kernel) (by decide) (by decide +kernel) (by decide +kernel) (by decide +kernel)

/-- Stores through an aperture to a line with CODE 11, and to one that needs a granule of an empty pool (AccessChecks). -/
theorem witness_AccessChecks_lines :
    let s := ten (regs [(1, 0x1003000), (3, 7)])
    let dead : State := { s with mem := writeBytes s.mem 0x60100 (bytesOf 4 0xC0000002) }
    let dry : State := { s with mem := writeBytes (writeBytes s.mem 0x60100 (bytesOf 4 0)) 0x40018 (bytesOf 8 4) }
    let f := tf 0 (.s 3) (.s 1) (.imm 0)
    (ready (.st f) dead = true ∧ (placeOf dead 0x1003000).map (fun e => (e.1, failsWith dead .write anyPage e.1 e.2, heldByJob dead .write e.1)) = some (.ln 2 0, none, false)
      ∧ Claims.stores dead (.st f) f false 7 ∧ dead.deadLine (dead.tenOf dead.hart) 2 0 8 = true)
    ∧ (ready (.st f) dry = true ∧ (placeOf dry 0x1003000).map (fun e => (e.1, failsWith dry .write anyPage e.1 e.2, heldByJob dry .write e.1)) = some (.ln 2 0, none, false)
      ∧ Claims.stores dry (.st f) f false 7 ∧ dry.deadLine (dry.tenOf dry.hart) 2 0 8 = false
      ∧ (dry.nodeStore (dry.tenOf dry.hart) 2 0 (bytesOf 8 7) 9).isNone = true) := by
  refine ⟨⟨by decide +kernel, by decide +kernel, ⟨Or.inl ⟨rfl, rfl⟩, by decide +kernel⟩, by decide +kernel⟩, by decide +kernel, by decide +kernel,
    ⟨Or.inl ⟨rfl, rfl⟩, by decide +kernel⟩, by decide +kernel, by decide +kernel⟩

/-- Loads on each path, LD.DEC of a BF16 element, stores to memory, a window and a node (ScalarAccesses). -/
theorem witness_ScalarAccesses :
    let s := st [(1, 0x10008), (2, 0xF00000000000), (3, 7)]
    let t := ten (regs [(1, 0x1000002), (2, 0x1003008), (3, 7)])
    let f (d a : BitVec 6) := tf 0 (.s d) (.s a) (.imm 0)
    let o : TFields := { f 5 1 with h := 3 }
    (ready (.ld (f 5 1)) s = true ∧ Claims.addrOf s (f 5 1) = some 0x10008 ∧ allowed s 0x10008 .read anyPage = some (.dev 0x10008, bootPage)
      ∧ Claims.loads (.ld (f 5 1)) (f 5 1) .l1 ∧ Claims.loads (.ld o) o .once ∧ Claims.loads (.ldb (f 5 1)) (f 5 1) .home)
    ∧ (∃ bs, Found s (.dev 0x10008) bootPage 8 .l1 bs) ∧ (∃ bs, Found s (.dev 0x10008) bootPage 8 .home bs)
    ∧ (ready (.ldDec (tf 8 (.s 5) (.s 1) (.imm 0))) t = true ∧ Claims.addrOf t (tf 8 (.s 5) (.s 1) (.imm 0)) = some 0x1000002
      ∧ 0x1000002 % Max.max 1 (fmtBits 8 / 8) = 0)
    ∧ (∃ x sb, Claims.Element t Claims.decPage 0x1000002 0 .l1 8 (fmtBits 8) x sb)
    ∧ (ready (.st (f 3 1)) s = true ∧ Claims.stores s (.st (f 3 1)) (f 3 1) false 7 ∧ allowed s 0x10008 .write anyPage = some (.dev 0x10008, bootPage)
      ∧ (allowed s 0xF00000000000 .write anyPage).isSome = true ∧ Claims.stores s (.stwt (f 3 1)) (f 3 1) true 7)
    ∧ ((allowed t 0x1003008 .write anyPage).map (·.1) = some (.ln 2 8) ∧ (t.nodeStore 0 2 8 (bytesOf 8 7) 9).isSome = true) := by
  refine ⟨⟨by decide +kernel, by decide +kernel, by decide +kernel, Or.inl ⟨rfl, by decide⟩, Or.inl ⟨rfl, by decide⟩, Or.inr ⟨rfl, rfl⟩⟩,
    ⟨_, found_l1 (by decide +kernel) (by decide) (by decide +kernel) (by decide +kernel)⟩, ⟨_, found_home (by decide +kernel) (by decide +kernel)⟩,
    by decide +kernel, ?_, ⟨by decide +kernel, ⟨Or.inl ⟨rfl, rfl⟩, by decide +kernel⟩, by decide +kernel, by decide +kernel,
    ⟨Or.inr ⟨rfl, rfl⟩, by decide +kernel⟩⟩, by decide +kernel⟩
  obtain ⟨x, hx⟩ := element_of (s := ten (regs [(1, 0x1000002), (2, 0x1003008), (3, 7)])) (refuse := Claims.decPage) (va := 0x1000002) (nib := 0)
    (bits := 16) (path := .l1) (loc := .dev 0x10002) (pg := { fmt := 8, geom := 0, w := true, x := false, nc := false, s := false, home := 0 })
    (by decide +kernel) (by decide) (found_l1 (by decide +kernel) (by decide) (by decide +kernel) (by decide +kernel))
  exact ⟨x, 0, hx⟩

/-- A state with vectors and addresses, and the same in a tenant. -/
def vr : Ctx := { regs [(1, 0x10000), (2, 4), (3, 0x1001000)] with p := [(1, 0x63)], v := [(1, 5), (2, 0x00000003_00000001)] }

/-- The lanes that p1 selects of a RAW vector, in the three forms (VectorAccesses). -/
theorem witness_VectorAccesses_loads :
    let s := onCore vr
    let f := tf 0x20 (.v 1) (.s 1) (.imm 0)
    (ready (.vld f) s = true ∧ Claims.settled s ∧ Claims.vecForm f (.vld f) = some (.flat, true, .l1) ∧ Claims.vecBase s f .flat = some 0x10000
      ∧ Claims.vecForm f (.vldb f) = some (.flat, true, .home)
      ∧ allowed s 0x10000 .read (Claims.headRefuses s f .flat true 0x10000) = some (.dev 0x10000, bootPage)
      ∧ (Claims.elemPlaces s f .flat 0x10000 32).isSome = true ∧ (vecOf s f.d).isSome = true)
    ∧ (∀ j < 64, ∃ x, Claims.Element s (Claims.sameKind bootPage) (((Claims.elemPlaces s f .flat 0x10000 32).getD []).getD j (0, 0)).1
        0 .l1 0 32 x 0)
    ∧ (ready (.vlds (tf 0x20 (.v 1) (.s 1) (.s 2))) s = true ∧ (Claims.elemPlaces s (tf 0x20 (.v 1) (.s 1) (.s 2)) .strided 0x10000 32).isSome = true
      ∧ ready (.vldx (tf 0x20 (.v 1) (.s 1) (.v 2))) s = true ∧ (Claims.elemPlaces s (tf 0x20 (.v 1) (.s 1) (.v 2)) .indexed 0x10000 32).isSome = true) := by
  refine ⟨⟨by decide +kernel, settled_boot (by decide +kernel), by decide +kernel⟩, ?_, by decide +kernel⟩
  intro j hj
  have k : ∀ j < 64, (((Claims.elemPlaces (onCore vr) (tf 0x20 (.v 1) (.s 1) (.imm 0)) .flat 0x10000 32).getD []).getD j (0, 0)).1 = 0x10000 + j * 4
      ∧ allowed (onCore vr) (0x10000 + j * 4) .read (Claims.sameKind bootPage) = some (.dev (0x10000 + j * 4), bootPage)
      ∧ (onCore vr).regionOf (0x10000 + j * 4) ≠ .pcie ∧ (onCore vr).cached (onCore vr).hart (0x10000 + j * 4) bootPage = true
      ∧ ∀ w ∈ wordsOf (0x10000 + j * 4) 4, seenPoison (onCore vr) (coreOf (onCore vr).hart) w = false := by decide +kernel
  obtain ⟨h0, h1, h2, h3, h4⟩ := k j hj
  simp only [h0]
  exact element_of (pg := bootPage) h1 (by decide) (found_l1 h2 (by decide) h3 h4)

/-- A RAW store of masked lanes, and a store of whole BS4 blocks with their scales in a window (VectorAccesses). -/
theorem witness_VectorAccesses_stores :
    let s := onCore vr
    let t := ten vr
    let f := tf 0x20 (.v 1) (.s 1) (.imm 0)
    let g := tf 0 (.v 1) (.s 3) (.imm 0)
    (ready (.vst f) s = true ∧ Claims.settled s ∧ vecOf s f.d = some 5 ∧ Claims.vecForm f (.vst f) = some (.flat, false, .l1)
      ∧ allowed s 0x10000 .write (Claims.headRefuses s f .flat false 0x10000) = some (.dev 0x10000, bootPage)
      ∧ (∀ j < 64, (allowed s (((Claims.elemPlaces s f .flat 0x10000 32).getD []).getD j (0, 0)).1 .write (Claims.sameKind bootPage)).isSome = true)
      ∧ ready (.vsts (tf 0 (.v 1) (.s 1) (.s 2))) s = true ∧ ready (.vstx (tf 0 (.v 1) (.s 1) (.v 2))) s = true)
    ∧ (ready (.vst g) t = true ∧ Claims.vecBase t g .flat = some 0x1001000
      ∧ (allowed t 0x1001000 .write (Claims.headRefuses t g .flat false 0x1001000)).map (fun e => (e.1, e.2.fmt, e.2.geom)) = some (.dev 0x11000, 12, 0)
      ∧ (∀ j < 64, (allowed t (((Claims.elemPlaces t g .flat 0x1001000 4).getD []).getD j (0, 0)).1 .write
          (Claims.sameKind { fmt := 12, geom := 0, w := true, x := false, nc := false, s := false, home := 0 })).map (·.1) = some (.dev (0x11000 + j / 2))))
    ∧ (∀ k < 4, ∃ q p bs, allowed t ((t.ssb (t.tenOf t.hart) + (0x1001000 + k * 8) / 2 ^ shadowShift 0) % 2 ^ 64) .write rawPage = some (q, p)
        ∧ Found t q p 1 .l1 bs ∧ ∀ n off, q ≠ .ln n off) := by
  refine ⟨⟨by decide +kernel, settled_boot (by decide +kernel), by decide +kernel⟩, by decide +kernel, ?_⟩
  intro k hk
  have h : ∀ k < 4, allowed (ten vr) (((ten vr).ssb ((ten vr).tenOf (ten vr).hart) + (0x1001000 + k * 8) / 2 ^ shadowShift 0) % 2 ^ 64) .write rawPage
      = some (.scr 8 (0x200 + k), { fmt := 0, geom := 0, w := true, x := false, nc := true, s := false, home := 0 })
      ∧ (ten vr).scrPoisoned 8 (0x200 + k) 1 = false := by decide +kernel
  exact ⟨_, _, _, (h k hk).1, found_scr (h k hk).2, by intro n off e; cases e⟩

/-! ### Late loads, cache control and synchronisation -/

/-- LDL that misses with symbols free, with none, waiting for one, and that hits; LDL.DEC and VLDL (LateLoads). -/
def lateState (quota : BitVec 8) (wait : Bool) (hit : Bool) : State :=
  let s := onCore { regs [(1, 0x10008)] with quota := quota }
  let s : State := { s with l1 := if hit then [(l1Key (s.l1Of 0 0x2001) 0x2001, some ⟨5, false, false, false, 16⟩)] else [] }
  if wait then s.setThread 0 0 { s.thread 0 0 with waiting := some (0x102, tf 0 (.s 5) (.s 1) (.imm 0)) } else s

theorem witness_LateLoads :
    let f := tf 0 (.s 5) (.s 1) (.imm 0)
    (fieldsOf (.ldl f) = some (0x102, f) ∧ readyCore (.ldl f) (lateState 4 false false) = true)
    ∧ (∃ r, Claims.LateData (lateState 4 false false) (.ldl f) f r ∧ r.hit = false) ∧ Claims.freeSyms (lateState 4 false false) 0 ≠ []
    ∧ (∃ r, Claims.LateData (lateState 4 false true) (.ldl f) f r ∧ r.hit = true)
    ∧ (Claims.freeSyms (lateState 0 true false) 0 = [] ∧ (lateState 0 true false).resumes (lateState 0 true false).hart 0x102 f = true)
    ∧ (lateState 0 false false).resumes (lateState 0 false false).hart 0x102 f = false := by
  refine ⟨by decide +kernel, ⟨⟨_, _, _, _⟩, Or.inl ⟨rfl, by decide, 0x10008, .dev 0x10008, bootPage, _, by decide +kernel, by decide +kernel, by decide +kernel,
      found_l1 (by decide +kernel) (by decide) (by decide +kernel) (by decide +kernel), rfl⟩, by decide +kernel⟩, by decide +kernel,
    ⟨⟨_, _, _, _⟩, Or.inl ⟨rfl, by decide, 0x10008, .dev 0x10008, bootPage, _, by decide +kernel, by decide +kernel, by decide +kernel,
      found_l1 (by decide +kernel) (by decide) (by decide +kernel) (by decide +kernel), rfl⟩, by decide +kernel⟩, by decide +kernel, by decide +kernel⟩

/-- The other forms: an element of a BF16 page, and a whole vector (LateLoads). -/
theorem witness_LateLoads_forms :
    let t := ten (regs [(1, 0x1000002)])
    let f := tf 8 (.s 5) (.s 1) (.imm 0)
    let g := tf 0 (.v 5) (.s 1) (.imm 0)
    (readyCore (.ldl f) t = true ∧ Claims.settled t ∧ ∃ r, Claims.LateData t (.ldl f) f r)
    ∧ (readyCore (.vldl g) (st [(1, 0x10000)]) = true ∧ Claims.settled (st [(1, 0x10000)]) ∧ ∃ r, Claims.LateData (st [(1, 0x10000)]) (.vldl g) g r) := by
  refine ⟨⟨by decide +kernel, settled_tlb (by decide +kernel) (by decide +kernel) (by decide +kernel), ?_⟩, by decide +kernel, settled_boot (by decide +kernel), ?_⟩
  · obtain ⟨x, hx⟩ := element_of (s := ten (regs [(1, 0x1000002)])) (refuse := Claims.decPage) (va := 0x1000002) (nib := 0)
      (bits := 16) (path := .l1) (loc := .dev 0x10002) (pg := { fmt := 8, geom := 0, w := true, x := false, nc := false, s := false, home := 0 })
      (by decide +kernel) (by decide) (found_l1 (by decide +kernel) (by decide) (by decide +kernel) (by decide +kernel))
    exact ⟨⟨_, _, _, _⟩, Or.inr (Or.inl ⟨rfl, by decide, 0x1000002, 8, x, 0, by decide +kernel, by decide, hx, rfl⟩)⟩
  · have k : ∀ j < 64, allowed (st [(1, 0x10000)]) (0x10000 + j * 4) .read (Claims.sameKind bootPage) = some (.dev (0x10000 + j * 4), bootPage)
        ∧ (st [(1, 0x10000)]).regionOf (0x10000 + j * 4) ≠ .pcie
        ∧ (st [(1, 0x10000)]).cached (st [(1, 0x10000)]).hart (0x10000 + j * 4) bootPage = true
        ∧ ∀ w ∈ wordsOf (0x10000 + j * 4) 4, seenPoison (st [(1, 0x10000)]) (coreOf (st [(1, 0x10000)]).hart) w = false := by decide +kernel
    have e : ∀ j, ∃ x, j < 64 → Claims.Element (st [(1, 0x10000)]) (Claims.sameKind bootPage) (0x10000 + j * 4) 0 .l1 0 32 x 0 := by
      intro j
      by_cases h : j < 64
      · obtain ⟨h1, h2, h3, h4⟩ := k j h
        obtain ⟨x, hx⟩ := element_of (nib := 0) (pg := bootPage) h1 (by decide) (found_l1 h2 (by decide) h3 h4 : Found _ _ bootPage (Max.max 1 (32 / 8)) .l1 _)
        exact ⟨x, fun _ => hx⟩
      · exact ⟨0, fun q => absurd q h⟩
    choose d hd using e
    refine ⟨⟨_, _, _, _⟩, Or.inr (Or.inr ⟨rfl, 0x10000, .dev 0x10000, bootPage, fun j => (d j, 0), by decide +kernel, by decide +kernel, by decide, ?_, rfl⟩)⟩
    intro j hj
    exact hd j hj

/-- A line in HBM that is cached, with a dirty word (CacheControl). -/
theorem witness_CacheControl :
    let s := lateState 0 false true
    let f := tf 0 .none (.s 1) (.imm 0)
    ready (.pref f) s = true ∧ Claims.addrOf s f = some 0x10008 ∧ allowed s 0x10008 .read anyPage = some (.dev 0x10008, bootPage)
    ∧ s.cached s.hart 0x10008 bootPage = true ∧ f.h.toNat % 4 ≠ 3 ∧ s.homePoisoned 0x10000 256 = false
    ∧ ready (.flushl f) s = true ∧ ready (.invl f) s = true ∧ (s.l1Get 0 0x2001).isSome = true := by decide +kernel

theorem homeOld_core {s : State} {c k pa n : Nat} (h : s.regionOf pa ≠ .pcie) (hh : s.hart = .core c k) (hl : s.l1Get c (pa / 8) = none)
    (hp : s.poison.get false (pa / 8) = false) : ∃ old, Claims.HomeOld s (.dev pa) n old :=
  ⟨_, by simp only [Claims.HomeOld, h, hh, hl, hp, if_false, true_and]; rfl⟩

theorem alone_of_empty {s : State} {c w : Nat} (h : s.l1 = []) : Claims.alone s c w := by
  intro l _ _
  rw [h]; rfl

/-- A word at its home (Atomics), with the operand forms. -/
theorem witness_Atomics :
    let s := st [(1, 0x10008), (4, 7), (6, 9), (7, 1)]
    let f (d : Operand) := tf 0x200 d (.s 1) (.imm 0)
    (ready (.aadd (f (.s 4))) s = true ∧ Claims.addrOf s (f (.s 4)) = some 0x10008 ∧ Claims.size (f (.s 4)) = 8
      ∧ allowed s 0x10008 .atomic homePage = some (.dev 0x10008, bootPage) ∧ srcOf s (.s 4) = some 7)
    ∧ Claims.alone s 0 (0x10008 / 8) ∧ (∃ old, Claims.HomeOld s (.dev 0x10008) 8 old)
    ∧ (∀ old, (Claims.atomicOf (f (.s 4)) 8 old 7 (.aadd (f (.s 4)))).isSome = true)
    ∧ (ready (.amin (f (.s 4))) s = true ∧ ready (.ainc (f (.s 4))) s = true ∧ ready (.acas (f (.w 3))) s = true ∧ pairOf s (.w 3) = some (9, 1)
      ∧ ready (.afadd (f (.s 4))) s = true ∧ fpOf s (.s 4) = some 7) ∧ (∃ old, Claims.HomeOld s (.dev 0x10008) 4 old) := by
  refine ⟨by decide +kernel, alone_of_empty rfl, homeOld_core (k := 0) (by decide +kernel) rfl rfl rfl,
    fun old => rfl, by decide +kernel, homeOld_core (k := 0) (by decide +kernel) rfl rfl rfl⟩

/-- REL and STR with no store of the thread open, ACQ whose condition holds and not, LDA, FENCE free and held by a peer store
(AcquireAndRelease). -/
theorem witness_AcquireAndRelease :
    let s := st [(1, 0x10008), (4, 7)]
    let p : State := { s with peerStores := [(0, 0x8000000000008)] }
    let f (d : Operand) := tf 0 d (.s 1) (.imm 0)
    (ready (.rel (f .none)) s = true ∧ Claims.addrOf s (f .none) = some 0x10008 ∧ allowed s 0x10008 .atomic homePage = some (.dev 0x10008, bootPage)
      ∧ srcOf s (.s 4) = some 7) ∧ Claims.alone s 0 (0x10008 / 8) ∧ (∃ old, Claims.HomeOld s (.dev 0x10008) 8 old)
    ∧ (ready (.acq (tf 2 (.s 4) (.s 1) (.imm 0))) s = true ∧ allowed s 0x10008 .read homePage = some (.dev 0x10008, bootPage))
    ∧ (∃ v, Claims.HomeNow s (.dev 0x10008) bootPage 8 v ∧ Claims.holds 2 v 7 ∧ ¬ Claims.holds 4 v 7)
    ∧ (ready (.lda (f (.s 4))) s = true ∧ ready (.str (f (.s 4))) s = true ∧ ready (.fence (tf 0x360 .none .none .none)) s = true)
    ∧ (ready (.fence (tf 0x2A0 .none .none .none)) p = true ∧ mField (tf 0x2A0 .none .none .none).m 7 5 = 5
      ∧ p.peerStores.find? (fun p => p.1 == 0 * 16 + 0) = some (0, 0x8000000000008)) := by
  refine ⟨by decide +kernel, alone_of_empty rfl, homeOld_core (k := 0) (by decide +kernel) rfl rfl rfl, by decide +kernel, ⟨0, ⟨_, found_home (by decide +kernel) (by decide +kernel), ?_⟩, ?_, ?_⟩,
    by decide +kernel, by decide +kernel⟩
  · decide +kernel
  · simp [Claims.holds]
  · simp [Claims.holds]

/-- LDA at DIE with a port write in the ingress, STR at DOMAIN held by a peer store, and an atomic with `.acq` (AcquireAndRelease, Atomics). -/
theorem witness_AcquireAndRelease_ports :
    let s := st [(1, 0x10008), (4, 7)]
    let p : State := { s with peerStores := [(0, 0x8000000000008)], ingress := [(0, [⟨1200, 0x10010, bytesOf 8 9⟩])] }
    let f (m : Nat) := tf m (.s 4) (.s 1) (.imm 0)
    (ready (.lda (f 0x60)) p = true ∧ Claims.addrOf p (f 0x60) = some 0x10008 ∧ allowed p 0x10008 .read anyPage = some (.dev 0x10008, bootPage)
      ∧ mField (f 0x60).m 7 5 = 3 ∧ p.ingress.get [] (dieOf p.hart) ≠ [])
    ∧ (∃ v, Claims.HomeNow p (.dev 0x10008) bootPage 8 v)
    ∧ (ready (.str (f 0xA0)) p = true ∧ srcOf p (.s 4) = some 7 ∧ allowed p 0x10008 .atomic homePage = some (.dev 0x10008, bootPage)
      ∧ p.peerStores.find? (fun q => mField (f 0xA0).m 7 5 == 5 && q.1 == 0 * 16 + 0) = some (0, 0x8000000000008))
    ∧ (ready (.aadd (f 0x300)) s = true ∧ (f 0x300).m.getLsbD 8 = true ∧ (f 0x300).m.getLsbD 9 = true) := by
  refine ⟨by decide +kernel, ⟨0, ⟨_, found_home (by decide +kernel) (by decide +kernel), by decide +kernel⟩⟩, by decide +kernel, by decide +kernel⟩

/-- WAITW that differs, that waits, that a WAKE ended; and a thread that waits for the word (WordWaits). -/
theorem witness_WordWaits :
    let f := tf 0 (.s 4) (.s 1) (.imm 0)
    let s := st [(1, 0x10008), (4, 0)]
    let w := (onCore { regs [(1, 0x10008)] with waitObj := 5, waitCnt := 1 }).setThread 0 0
      { (onCore { regs [(1, 0x10008)] with waitObj := 5, waitCnt := 1 }).thread 0 0 with waiting := some (0x121, f) }
    let k := tf 4 .none (.s 1) (.imm 0)
    let s2 := s.setThread 0 1 { Thread.zero with ctx := { Ctx.zero with run := .waitAcq, waitObj := 0x10008 }, waiting := some (0x121, f), sys := true }
    (ready (.waitw f) s = true ∧ Claims.addrOf s f = some 0x10008 ∧ srcOf s f.d = some 0 ∧ allowed s 0x10008 .read homePage = some (.dev 0x10008, bootPage)
      ∧ s.resumes s.hart 0x121 f = false) ∧ (∃ v, Claims.HomeNow s (.dev 0x10008) bootPage 8 v ∧ v = 0)
    ∧ (ready (.waitw f) w = true ∧ w.resumes w.hart 0x121 f = true ∧ (w.ctxOf w.hart).waitCnt = 1)
    ∧ (ready (.waitwWake k) s2 = true ∧ (s2.thread 0 1).ctx.run = .waitAcq ∧ s2.tenOf s2.hart < 32
      ∧ (s2.locate (.core 0 1) (s2.core 0).tenant (s2.thread 0 1).ctx.waitObj.toNat).2.map (·.1) = some (.dev 0x10008)) := by
  refine ⟨by decide +kernel, ⟨0, ⟨_, found_home (by decide +kernel) (by decide +kernel), by decide +kernel⟩, rfl⟩, by decide +kernel, by decide +kernel⟩

/-! ### Bindings, tasks, packets, channels and late values -/

/-- A state with k bindings of object 8. -/
def bound (k : Nat) : State :=
  let s := st [(1, 0x10000), (2, 0x100), (4, 8), (5, 12), (6, 0xF00000001000)]
  { s with bindings := [(tcKey 16 0, List.replicate k ⟨0, 8, 0x10000, 0x100, false⟩)] }

/-- BIND well formed, ill formed and full; UNBIND; pins with room, without room, reported (BindingsAndPins). -/
theorem witness_BindingsAndPins :
    let s := bound 1
    let f := tf 0 (.s 4) (.s 1) (.s 2)
    let full : State := { s with pins := (List.range 64).map (fun i => (tcKey 16 1 * 64 + i, 1)) }
    let far : State := { s with pins := (List.range 64).map (fun i => (tcKey 16 0 * 64 + 1 + 64 * 0 + i + 63, 1)) }
    ready (.bind f) s = true ∧ srcOf s f.d = some 8 ∧ srcOf s f.a = some 0x10000 ∧ srcOf s f.b = some 0x100 ∧ (s.bindingsOf 0).length < 64
    ∧ srcOf s (.s 5) = some 12 ∧ 12 % 8 ≠ 0 ∧ 64 ≤ ((bound 64).bindingsOf 0).length ∧ ready (.bind f) (bound 64) = true
    ∧ ready (.unbind (tf 0 (.s 4) .none .none)) s = true ∧ srcOf s (.s 4) = some 8
    ∧ readyCore (.pinsp (tf 0 .none (.s 6) (.imm 0))) s = true ∧ Claims.addrOf s (tf 0 .none (.s 6) (.imm 0)) = some 0xF00000001000
    ∧ Claims.pinKey s 0xF00000001000 = some (tcKey 16 0 * 64 + 1) ∧ Claims.pinned s (tcKey 16 0 * 64 + 1) < 64
    ∧ Claims.pinned full (tcKey 16 1 * 64 + 1) = 64 ∧ far.resident.get false (tcKey 16 0 * 64 + 1) = false
    ∧ readyCore (.unpinsp (tf 0 .none (.s 6) (.imm 0))) s = true := by decide +kernel

def aRecord (code : Word) : Record := ⟨code, 1, 0, 0, 0, 0, 0, 4, false, false, 0, 2, none, 0⟩

/-- EXIT on a thread with nothing behind it, one with a suspended parent, and a free thread with a record (UnitsEndAndStart). -/
theorem witness_UnitsEndAndStart :
    let n := tf 0 .none .none .none
    let s := st []
    let p : Inline := ⟨regs [(1, 7)], .none, []⟩
    let w := s.setThread 0 0 { s.thread 0 0 with inl := some p }
    let q : State := { (State.reset.setThread 0 0 Thread.zero) with deques := [(tcKey 16 0, [aRecord 0x1000])] }
    ready (.exit n) s = true ∧ s.hart = .core 0 0 ∧ s.msgsOf 0 = [] ∧ s.dequeOf 0 = [] ∧ s.spillOf 0 = [] ∧ (s.thread 0 0).inl = none
    ∧ (w.thread 0 0).inl = some p ∧ p.ctx.symRefs = []
    ∧ q.canTake 0 0 = true ∧ q.msgsOf 0 = [] ∧ q.dequeOf 0 = [aRecord 0x1000] ∧ (aRecord 0x1000).range = false ∧ (aRecord 0x1000).fault = none := by
  decide +kernel

/-- A join block at 0x10000 with a count. -/
def joinState (count : Nat) (joinc : Word) : State :=
  let s := onCore { regs [(1, 0x10000), (2, 9), (3, 0), (4, 5), (5, 2)] with joinc := joinc }
  { s with mem := writeBytes [] 0x10000 (bytesOf 4 count) }

/-- A deque with no room at all, of a thread without and with a suspended parent. -/
def fullDeque (inl : Bool) : State :=
  let s := joinState 1 0
  let s := if inl then s.setThread 0 0 { s.thread 0 0 with inl := some ⟨regs [], .none, []⟩ } else s
  { s with deques := [(tcKey 16 0, List.replicate 64 (aRecord 0))], spills := [(tcKey 16 0, List.replicate 4096 (aRecord 0))] }

/-- SPAWN with room, inline and waiting; an empty and a full range; JOIN at 0, 1 and 2, without a block; a continuation (Continuations). -/
theorem witness_Continuations :
    let s := joinState 1 0
    ready (.spawn (lf 0 (.w 1) 3)) s = true ∧ pairOf s (.w 1) = some (9, 0) ∧ mField (lf 0 (.w 1) 3).m 9 7 ≤ s.launchDom (s.thread 0 0).launch
    ∧ s.dequeFull 0 = false ∧ ready (.spawnr (lf 0 (.w 1) 3)) s = true ∧ (0 : Word).toNat ≤ (9 : Word).toNat
    ∧ pairOf s (.w 2) = some (5, 2) ∧ (fullDeque false).dequeFull 0 = true ∧ ((fullDeque false).thread 0 0).inl = none
    ∧ ready (.spawn (lf 0 (.w 1) 3)) (fullDeque true) = true ∧ (fullDeque true).dequeFull 0 = true ∧ ((fullDeque true).thread 0 0).inl ≠ none
    ∧ ready (.join (tf 0 .none .none .none)) s = true ∧ (s.ctxOf s.hart).joinc = 0 ∧ ready (.join (tf 0 .none (.s 1) .none)) s = true
    ∧ srcOf s (.s 1) = some 0x10000 ∧ s.peerStores = []
    ∧ (match (s.joinCheck s.hart (s.core 0).tenant 0x10000).2 with | .ok pa => pa == 0x10000 | _ => false) = true
    ∧ (s.joinBlock 0x10000).count = 1 ∧ ((joinState 0 0x10000).joinBlock 0x10000).count = 0 ∧ 1 < ((joinState 2 0x10000).joinBlock 0x10000).count
    ∧ (0x1004 : Nat) < 2 ^ 48 ∧ 0x1004 % 64 < 5 := by decide +kernel

theorem witness_Continuations_alone : ∀ w ∈ wordsOf 0x10000 32, Claims.alone (joinState 1 0) 0 w :=
  fun _ _ => alone_of_empty rfl

/-- A core that is mapped to itself, with 1024 packets waiting at core 5 where `full` holds. -/
def netState (full : Bool) : State :=
  let s := st [(1, 0x123456789), (2, 5), (4, 0x0005000300000004), (5, 5), (6, 8)]
  { s with sysRegs := [(0x311, 4)], logical := (List.range 8).map (fun i => (i, some i)), msgs := if full then [(tcKey 16 5, List.replicate 1024 ⟨16, 0, 0, 5, 0, false, [], none, false, 0⟩)] else [] }

/-- SEND with and without credit, SENDV, MCAST to a range, and the tag instructions (PacketsTagsAndChannels). -/
theorem witness_PacketsTagsAndChannels_packets :
    let s := netState false
    let f := tf 0 (.s 2) (.s 1) .none
    let v := tf 0 (.s 2) (.v 1) (.imm 256)
    (fieldsOf (.send f) = some (0x143, f) ∧ ready (.send f) s = true ∧ srcOf s f.d = some 5 ∧ (Claims.payload s (.send f) f).isSome = true
      ∧ (Claims.payload s (.sendv v) v).isSome = true ∧ ready (.sendv v) s = true ∧ ready (.mcast v) s = true ∧ s.mapped = true
      ∧ bitsOf 5 53 48 = s.pkg ∧ s.credit 16 5 = true ∧ (netState true).credit 16 5 = false)
    ∧ Claims.destFine 5 false false ∧ Claims.destFine (7 * 2 ^ 32 + 5) true false
    ∧ (ready (.unbindtag (tf 0 .none (.s 2) .none)) s = true ∧ ready (.bindtag (tf 0 .none (.s 2) (.s 6))) s = true
      ∧ ready (.bindtag (tf 1 (.h 1 0) (.s 2) .none)) (vs 2) = true ∧ srcOf (vs 2) (.s 2) = some 3
      ∧ ((vs 2).ctxOf (vs 2).hart).handles.get none 1 = some 0) := by
  refine ⟨by decide +kernel, ?_, ?_, by decide +kernel⟩
  · simp only [Claims.destFine]; decide
  · simp only [Claims.destFine]; decide

/-- A channel of two slots of 256 bytes bound to h1, with n filled slots, and one entry of 64 or all of them valid. -/
def chanState (n : Nat) (allUsed : Bool) : State :=
  let s := onCore { regs [(1, 1), (2, 0xF00000000000), (4, 0x108), (5, 3)] with handles := [(1, some 0)], quota := 0 }
  let x : Chan := ⟨true, 0, 1, 8, 0, BitVec.ofNat 32 n, 0, 0⟩
  { s with chans := if allUsed then (List.range 64).map (fun i => (tcKey 16 0 * 64 + i, x)) else [(tcKey 16 0 * 64, x)] }

/-- HCFG in each form, accepted and refused; HADV and HADVW with room, without, beyond the channel, by 0, and unbound; HQ. -/
theorem witness_PacketsTagsAndChannels_channels :
    let s := chanState 1 false
    (ready (.hcfgBind (tf 0 (.h 2 0) (.imm 0) .none)) s = true ∧ (s.chan 0 0).v = true ∧ (s.chan 0 0).ten = (s.core 0).tenant % 16
      ∧ (s.chan 0 9).v = false
      ∧ ready (.hcfgNew (tf 1 (.h 2 0) (.s 2) (.s 4))) s = true ∧ srcOf s (.s 2) = some 0xF00000000000 ∧ srcOf s (.s 4) = some 0x108
      ∧ s.windowBase (s.core 0).tenant + 0 % 48 * 0x40000 ≤ 0xF00000000000 ∧ (List.range 64).filter (fun e => !(s.chan 0 e).v) ≠ []
      ∧ (List.range 64).filter (fun e => !((chanState 1 true).chan 0 e).v) = [])
    ∧ Claims.geometry 0x108
    ∧ (readyCore (.hcfgUnbind (tf 2 (.h 1 0) .none .none)) s = true ∧ ready (.hcfgFree (tf 3 (.h 1 0) .none .none)) s = true
      ∧ (s.ctxOf s.hart).handles.get none 1 = some 0 ∧ (s.ctxOf s.hart).handles.get none 2 = none
      ∧ ready (.hadv (tf 0 (.h 1 0) (.s 1) .none)) s = true ∧ ready (.hadvw (tf 0 (.h 1 0) (.s 1) .none)) s = true ∧ srcOf s (.s 1) = some 1
      ∧ srcOf s (.s 5) = some 3 ∧ 2 ^ (s.chan 0 0).lcnt < 3 ∧ (s.claimsOf 0 0).isEmpty = true
      ∧ ((chanState 0 false).chan 0 0).wp = ((chanState 0 false).chan 0 0).rp ∧ ready (.hq (tf 0 (.s 6) (.h 1 0) .none)) s = true) := by
  refine ⟨by decide +kernel, ?_, by decide +kernel⟩
  simp only [Claims.geometry]; decide

/-- A core with a running job 3 and an ended job 4, and a thread whose wake bit is as told. -/
def jobState (wake : Bool) : State :=
  let s := onCore { regs [(1, 15), (2, 16), (4, 3), (5, 4), (6, 0x10000), (7, 0x80000)] with wake := wake, quota := 4 }
  let s := s.setCore 0 { s.core 0 with jobs := [⟨3, 1, 0⟩, ⟨4, 2, 0⟩] }
  s.setThread 0 1 { Thread.zero with ctx := { Ctx.zero with run := .waitTime, waitCnt := 1 } }

theorem witness_PolicyJobsAndSleep :
    let s := jobState false
    readyCore (.policy (tf 0 .none (.s 1) .none)) s = true ∧ srcOf s (.s 1) = some 15 ∧ srcOf s (.s 2) = some 16
    ∧ ready (.raise (tf 0 .none (.imm 5) .none)) s = true ∧ srcOf s (.imm 5) = some 5
    ∧ ready (.waitj (tf 0 (.s 8) (.s 4) .none)) s = true ∧ srcOf s (.s 4) = some 3 ∧ Claims.jobState s 0 3 < 2 ∧ 2 ≤ Claims.jobState s 0 4
    ∧ ready (.jobq (tf 0 (.s 8) (.s 4) .none)) s = true
    ∧ readyCore (.sleep (tf 0 (.p 3) (.s 1) .none)) s = true ∧ (s.ctxOf s.hart).wake = false ∧ ((jobState true).ctxOf (jobState true).hart).wake = true
    ∧ s.resumes s.hart 0x150 (tf 0 (.p 3) (.s 1) .none) = false ∧ s.time % 2 ^ 64 < 15
    ∧ readyCore (.wake (tf 0 .none (.s 6) .none)) s = true ∧ srcOf s (.s 6) = some 0x10000 ∧ 0x10000 % 1024 < 960
    ∧ (s.thread 0 1).ctx.run = .waitTime ∧ bitsOf 0x80000 15 10 = 0 := by decide +kernel

/-- A deadline that has been reached by a sleeper that resumes (PolicyJobsAndSleep). -/
theorem witness_SleepDue :
    let f := tf 0 (.p 3) (.s 1) .none
    let s := jobState false
    let r := s.setThread 0 0 { s.thread 0 0 with waiting := some (0x150, f), ctx := { (s.thread 0 0).ctx with waitObj := 0 } }
    r.resumes r.hart 0x150 f = true ∧ (r.ctxOf r.hart).waitObj.toNat ≤ r.time % 2 ^ 64 ∧ (r.ctxOf r.hart).waitObj.toNat < 2 ^ 64 - 1 := by
  decide +kernel

/-- s1 late by symbol 2 with a pair, s2 late with a step, s3 late by poisoned symbol 4; v1 late. -/
def lateRegs : State :=
  let s := onCore { regs [(5, 7), (6, 0x40000000)] with late := [(1, some ⟨2, 3, 4, [], false⟩), (2, some ⟨2, 1, 0, [⟨0, 0, 0, 5⟩], true⟩), (3, some ⟨4, 1, 0, [], false⟩), (65, some ⟨2, 1, 0, [], false⟩)], quota := 8 }
  { s with syms := [(2, some ⟨16, 0, false, .pending, .load 0 .raw 0⟩), (4, some ⟨16, 0, false, .poison 9, .load 0 .raw 0⟩)] }

theorem witness_LateComposition :
    let s := lateRegs
    fieldsOf (.add (tf 0 (.s 8) (.s 1) (.s 5))) = some (0, tf 0 (.s 8) (.s 1) (.s 5)) ∧ ready (.add (tf 0 (.s 8) (.s 1) (.s 5))) s = true
    ∧ Claims.lateOf s (.s 1) = some ⟨2, 3, 4, [], false⟩ ∧ srcOf s (.s 5) = some 7 ∧ Claims.poisoned s ⟨2, 3, 4, [], false⟩ = none
    ∧ Claims.affineOf 3 4 7 true (.add (tf 0 (.s 8) (.s 1) (.s 5))) = some (3, 11)
    ∧ Claims.affineOf 3 4 7 false (.sub (tf 0 (.s 8) (.s 5) (.s 1))) = some (-3, 3)
    ∧ ready (.fadd (tf 0 (.s 8) (.s 2) (.s 6))) s = true ∧ Claims.lateOf s (.s 2) = some ⟨2, 1, 0, [⟨0, 0, 0, 5⟩], true⟩ ∧ fpOf s (.s 6) = some 0x40000000
    ∧ (s.ctxOf s.hart).rm.toNat ≠ 5
    ∧ ready (.and (tf 0 (.s 8) (.s 3) (.s 5))) s = true ∧ Claims.lateOf s (.s 3) = some ⟨4, 1, 0, [], false⟩ ∧ Claims.poisoned s ⟨4, 1, 0, [], false⟩ = some 9
    ∧ Claims.plainOf 0 0 (.and (tf 0 (.s 8) (.s 3) (.s 5))) = some 0 := by decide +kernel

/-- The late-value instructions on a late, a poisoned and a present register; JOBL and RCVL present, late and waiting (LateValues). -/
theorem witness_LateValues :
    let s := lateRegs
    let g := fun (d a : Operand) => { tf 0 d a .none with g := ⟨false, 2⟩ }
    readyCore (.symq (tf 0 (.p 3) (.v 1) .none)) s = true ∧ readyCore (.symid (tf 0 (.s 8) (.s 1) .none)) s = true
    ∧ readyCore (.symwait (tf 0 .none (.s 5) .none)) s = true ∧ Claims.lateOf s (.s 5) = none ∧ (Claims.lateOf s (.v 1)).isSome = true
    ∧ readyCore (.symwait (tf 0 .none .none .none)) (st []) = true ∧ (∀ e ∈ ((st []).ctxOf (st []).hart).late, e.2 = none)
    ∧ readyCore (.symdrop (tf 0 .none (.v 1) .none)) s = true ∧ readyCore (.sympeek (g (.s 8) (.s 5))) s = true ∧ srcOf s (.s 5) = some 7
    ∧ vecOf s (.v 2) = some 0 ∧ readyCore (.symlim (tf 0 .none (.s 5) .none)) s = true ∧ srcOf s (.imm 256) = some 256
    ∧ ready (.jobl (tf 0 (.s 8) (.s 4) .none)) (jobState false) = true ∧ Claims.jobState (jobState false) 0 3 < 2
    ∧ Claims.freeSyms (jobState false) 0 ≠ [] ∧ 2 ≤ Claims.jobState (jobState false) 0 4 ∧ Claims.freeSyms (lateState 0 false false) 0 = []
    ∧ ready (.rcvl (tf 0 (.v 3) (.h 1 0) .none)) (chanState 1 false) = true ∧ ((chanState 1 false).chan 0 0).spanSlots ≤ 1
    ∧ ((chanState 1 false).claimsOf 0 0).isEmpty = true ∧ Claims.freeSyms (chanState 0 false) 0 = []
    ∧ Claims.freeSyms ((chanState 0 false).setThread 0 0 { (chanState 0 false).thread 0 0 with ctx := { ((chanState 0 false).thread 0 0).ctx with quota := 3 } }) 0 ≠ [] := by
  decide +kernel

/-- A join that waits for an acknowledgement, blocks that fail a check, one that is not mapped, a poisoned one, and a deque that a page
fault holds (Continuations). -/
theorem witness_Continuations_stops :
    let s := joinState 1 0
    let f (m : Nat) := tf m .none (.s 1) .none
    let far : State := { s with peerStores := [(0, 0x8000000000008)] }
    let held : State := { s with faults := [(16, [⟨0x10000, 16, .atomic, .pop 0 1⟩])] }
    let bad : State := { s with poison := [(0x2000, true)] }
    ready (.join (f 0xA0)) far = true ∧ mField (f 0xA0).m 7 5 = 5 ∧ Claims.unacked far 5 0 0 = some (0, 0x8000000000008)
    ∧ (s.joinCheck s.hart (s.core 0).tenant 0x10004).2 = .bad cMISALIGNED ∧ (s.joinCheck s.hart (s.core 0).tenant (2 ^ 60)).2 = .post
    ∧ (far.joinCheck far.hart (far.core 0).tenant 0x10000).2 = .ok 0x10000
    ∧ bad.joinPoisoned 0x10000 = true ∧ (bad.joinCheck s.hart (s.core 0).tenant 0x10000).2 = .ok 0x10000
    ∧ held.dequeHeld (held.core 0).tenant 0 = true ∧ ready (.spawn (lf 0 (.w 1) 3)) held = true := by decide +kernel

/-- SEND barred by its mode, ill formed, to another package, to a position that cannot take it, and with a release that waits; a tag
above 63, and one for an unbound handle (PacketsTagsAndChannels). -/
theorem witness_PacketsTagsAndChannels_stops :
    let s := netState false
    let t := ten (regs [(1, 7), (2, 5)])
    let near : State := { s with ctl := [(0x10008 / 8, 1)] }
    let far : State := { s with peerStores := [(0, 0x8000000000008)] }
    let f (m : Nat) := tf m (.s 2) (.s 1) .none
    (ready (.send (f 1)) t = true ∧ t.tenantMode t.hart = true ∧ (f 1).m.getLsbD 0 = true ∧ ¬ Claims.destFine (2 ^ 54) false false)
    ∧ (bitsOf (2 ^ 48) 53 48 ≠ s.pkg ∧ s.unreachable 1 = true ∧ near.unreachable 1 = false ∧ Claims.destFine (2 ^ 48) false false)
    ∧ (s.destCore (Packet.mk 16 0 0 500 0 true [] none false 1) = none)
    ∧ (ready (.send (f 0x2A0)) far = true ∧ (f 0x2A0).m.getLsbD 9 = true ∧ Claims.unacked far (mField (f 0x2A0).m 7 5) 0 0 = some (0, 0x8000000000008))
    ∧ ((netState true).credit 16 5 = false ∧ ready (.send (f 0)) (netState true) = true ∧ srcOf (netState true) (.s 2) = some 5)
    ∧ (ready (.bindtag (tf 0 .none (.s 1) (.s 6))) s = true ∧ 64 ≤ (0x123456789 : Word).toNat
      ∧ ready (.bindtag (tf 1 (.h 1 0) (.s 2) .none)) s = true ∧ (s.ctxOf s.hart).handles.get none 1 = none)
    ∧ (readyCore (.hq (tf 0 (.s 6) (.h 1 0) .none)) s = true ∧ (chanState 1 false).msgsOf 0 = [] ∧ (chanState 1 false).dequeOf 0 = []
      ∧ (chanState 1 false).spillOf 0 = [] ∧ ∀ k < 16, ((chanState 1 false).thread 0 k).ctx.run ≠ .waitChannel) := by
  simp only [Claims.destFine]; decide +kernel

/-- FNEG, a third step, MOV of a late source, and the uses of a late operand that wait or trap (LateComposition). -/
theorem witness_LateComposition_waits :
    let s := lateRegs
    let t := tf 0 (.s 8)
    ready (.fneg (t (.s 2) .none)) s = true ∧ Claims.lateOf s (.s 2) = some ⟨2, 1, 0, [⟨0, 0, 0, 5⟩], true⟩
    ∧ ready (.fsub (t (.s 6) (.s 2))) s = true ∧ Claims.stepOf false (.fsub (t (.s 6) (.s 2))) = some 2
    ∧ ready (.mov (t (.s 1) .none)) s = true ∧ (Claims.lateOf s (.s 1)).isSome = true
    ∧ ready (.or (t (.s 1) (.s 5))) s = true ∧ Claims.plainOf 0 0 (.or (t (.s 1) (.s 5))) = some 0 ∧ Claims.poisoned s ⟨2, 3, 4, [], false⟩ = none
    ∧ ready (.add (tf 0x400 (.s 8) (.s 1) (.s 5))) s = true ∧ Claims.saturates (.add (tf 0x400 (.s 8) (.s 1) (.s 5))) = true
    ∧ ready (.mul (t (.s 2) (.s 5))) s = true ∧ (srcOf s (.s 5)).isSome = true
    ∧ ready (.add (t (.s 1) (.s 2))) s = true ∧ Claims.poisoned s ⟨2, 1, 0, [⟨0, 0, 0, 5⟩], true⟩ = none
    ∧ ready (.shl (t (.s 5) (.s 1))) s = true ∧ ready (.shl (t (.s 5) (.s 3))) s = true
    ∧ readyCore (.symwait (tf 0 .none .none .none)) s = true ∧ (((s.ctxOf s.hart).late.find? (fun e => e.2.isSome)).map (·.1)) = some 1
    ∧ 2 ≤ Claims.jobState (jobState false) 0 4 ∧ ready (.jobl (t (.s 5) .none)) (jobState false) = true := by
  decide +kernel

/-! ### Lineage, kicks and copies -/

/-- A tenant whose nodes are: 2, a root with child 4; 3, held by a job; 5, of depth 7 below 4; 7, of BF16; 8, retired. -/
def lin (c : Ctx) : State :=
  let s := ten c
  let s := s.setNode 0 2 ⟨1, 0, 0, 0, 0, 1, 0, 256, 1, 1, 1, 0⟩
  let s := s.setNode 0 4 ⟨1, 1, 0, 0, 2, 0, 0, 256, 1, 3, 1, 0⟩
  let s := s.setNode 0 5 ⟨1, 7, 0, 0, 4, 0, 0, 0, 0, 5, 0, 0⟩
  let s := s.setNode 0 7 ⟨1, 0, 0, 8, 0, 0, 0, 16, 1, 6, 1, 0⟩
  let s := s.setNode 0 8 ⟨3, 0, 0, 0, 0, 0, 0, 0, 0, 8, 0, 0⟩
  { s with mem := writeBytes (writeBytes s.mem 0x60300 (bytesOf 4 0x80000004)) 0x60600 (bytesOf 4 0x80000007) }

def linRegs : Ctx := regs [(2, 2), (4, 4), (5, 5), (7, 7), (8, 8), (9, 0x3F800000), (10, 0x1000000)]

theorem freeId_some {s : State} {cap : Nat} (hc : s.nodeCap 0 = cap) (h0 : 0 < cap)
    (h : ∀ k < cap, (s.findNode 0 cap (min cap ((s.knownNodes 0).length + s.lnJobs.length + 2)) k).isSome = true) : ∃ c, s.freeId 0 = some c := by
  have := h (Config.freeNat s.freeCtr % cap) (Nat.mod_lt _ h0)
  rw [← hc] at this
  exact Option.isSome_iff_exists.mp (by unfold State.freeId; exact this)

theorem reserve_some {s : State} {k size : Nat} {used : List Nat} (hs : s.poolSize 0 = size) (h0 : size ≠ 0)
    (h : ∀ r < size, (findGranules used size k 1 ((used.length + 1) * (k + 1) + 1) (r / 1 * 1)).isSome = true) :
    ∃ u gs, s.reserve 0 [(k, 1)] used = some (u, gs) := by
  have h1 := h (Config.freeNat s.freeCtr % size) (Nat.mod_lt _ (Nat.pos_of_ne_zero h0))
  obtain ⟨g, hg⟩ := Option.isSome_iff_exists.mp h1
  refine ⟨{ s with freeCtr := s.freeCtr + 1 }, (List.range k).map (g + ·) ++ [], ?_⟩
  simp only [State.reserve, State.takeGranules, hs, h0, if_false, hg]

/-- Ids 0 and 2^24, a fork, a patch, a rebase, the three drops, and elements of RAW and BF16 nodes (LineageInstructions). -/
theorem witness_LineageInstructions :
    let s := lin linRegs
    let t := fun (d a b : Operand) => tf 0 d a b
    Claims.nodeFits ⟨3, 7, 7, 31, 2 ^ 24 - 1, 2 ^ 32 - 1, 2 ^ 32 - 1, 2 ^ 40 - 1, 2 ^ 32 - 1, 2 ^ 32 - 1, 2 ^ 32 - 1, 255⟩
    ∧ 0x40000 + 128 ≤ s.nodeAddr 0 2
    ∧ (readyCore (.lninfo (t (.s 11) (.s 0) .none)) s = true ∧ s.nodeInvalid 0 0 = true ∧ srcOf s (.s 0) = some 0 ∧ srcOf s (.s 10) = some 0x1000000)
    ∧ Claims.usable s 2 ∧ Claims.usable s 4 ∧ Claims.usable s 5 ∧ Claims.usable s 7 ∧ Claims.usable s 8
    ∧ (readyCore (.lnfork (t (.s 11) (.s 2) .none)) s = true ∧ srcOf s (.s 2) = some 2 ∧ (s.node 0 2).state ≠ 3 ∧ (s.node 0 2).depth < 7
      ∧ readyCore (.lnforkAf (t (.s 11) (.s 2) .none)) s = true ∧ s.resumes s.hart 0x171 (t (.s 11) (.s 2) .none) = false)
    ∧ (∃ c, s.freeId 0 = some c) ∧ (∃ u gs, s.reserve 0 [(mapGranules (s.node 0 2).lines, 1)] (s.usedGranules 0) = some (u, gs))
    ∧ (readyCore (.lnpatch (t (.s 2) (.s 0) (.s 9))) s = true ∧ 0 < (s.node 0 2).count ∧ (s.lineEntry 0 (s.node 0 2) 0).1 = 2
      ∧ (s.patchElem 0 2 0 8 0 0).isSome = true)
    ∧ (readyCore (.lnrebase (t .none (.s 4) (.s 2))) s = true ∧ (s.node 0 4).kids = 0 ∧ (s.node 0 4).count = (s.node 0 2).count
      ∧ (s.node 0 4).fmt = (s.node 0 2).fmt) ∧ Claims.unheld s (s.node 0 4).parent
    ∧ (readyCore (.lndrop (t .none (.s 2) .none)) s = true ∧ 0 < (s.node 0 2).kids ∧ (s.node 0 8).state = 3
      ∧ readyCore (.lndropFold (t .none (.s 4) .none)) s = true)
    ∧ (readyCore (.lninfo (t (.s 11) (.s 2) .none)) s = true ∧ readyCore (.lnres (tf 1 (.s 11) (.s 7) (.imm 15))) s = true
      ∧ 15 < (s.node 0 7).count ∧ (s.nodeElem 0 7 15).isSome = true ∧ (s.node 0 7).fmt ≠ 0 ∧ (s.nodeElem 0 2 0).isSome = true ∧ (s.node 0 2).fmt = 0) := by
  simp only [Claims.nodeFits, Claims.usable, Claims.unheld]
  refine ⟨by decide, by decide +kernel, by decide +kernel, by decide +kernel, by decide +kernel, by decide +kernel, by decide +kernel, by decide +kernel,
    by decide +kernel, freeId_some (cap := 16) (by decide +kernel) (by decide) (by decide +kernel), ?_, by decide +kernel, by decide +kernel,
    Or.inr (by decide +kernel), by decide +kernel, by decide +kernel⟩
  exact reserve_some (size := 64) (by decide +kernel) (by decide) (by decide +kernel)

/-- A thread that waits for a lineage job that has ended with a cause. -/
def linEnded (op cause : Nat) (f : TFields) : State :=
  let s := lin { linRegs with run := .waitJob, waitCnt := 6 }
  let s := s.setThread 0 0 { s.thread 0 0 with waiting := some (op, f) }
  { s with lnJobs := [⟨2, 0, 0, 4, 2, 0, 0, 0, 5, [4, 2], [], some (cause, 9)⟩] }

/-- Each job issued, and each way to end (LineageJobs). -/
theorem witness_LineageJobs :
    let s := lin linRegs
    let t := fun (d a b : Operand) => tf 0 d a b
    (ready (.lnforkAf (t (.s 11) (.s 5) .none)) s = true ∧ (s.node 0 5).depth = 7 ∧ s.rootOf 0 8 5 = 2 ∧ (s.node 0 2).state ≠ 3
      ∧ s.resumes s.hart 0x171 (t (.s 11) (.s 5) .none) = false)
    ∧ (∃ c, s.freeId 0 = some c) ∧ Claims.unheld s 2
    ∧ (({ s with freeCtr := s.freeCtr + 1 } : State).reserve 0 ((mapGranules (s.node 0 5).lines, 1) :: List.replicate (s.node 0 5).lines (1, 1))
        (s.usedGranules 0)).isSome = true
    ∧ (ready (.lnflat (t .none (.s 4) .none)) s = true ∧ (s.node 0 4).kids = 0
      ∧ (s.reserve 0 (((List.range (s.node 0 4).lines).filter (fun l => (s.lineEntry 0 (s.node 0 4) l).1 == 0)).map (fun _ => (1, 1))) (s.usedGranules 0)).isSome = true)
    ∧ (ready (.lndropFold (t .none (.s 2) .none)) s = true ∧ 0 < (s.node 0 2).kids ∧ s.kidsOf 0 2 = [4]
      ∧ (s.reserve 0 ((s.kidsOf 0 2).flatMap (fun n => (s.linesOf 0 n).flatMap (fun l => s.foldNeed 0 2 n l))) (s.usedGranules 0)).isSome = true)
    ∧ (ready (.lnrebaseChk (t (.s 9) (.s 4) (.s 2))) s = true ∧ srcOf s (.s 9) = some 0x3F800000
      ∧ isNaN (decodeF fp32 0x3F800000) = false ∧ signOf (decodeF fp32 0x3F800000) = false)
    ∧ (readyCore (.lnflat (t .none (.s 4) .none)) (linEnded 0x175 0 (t .none (.s 4) .none)) = true
      ∧ (linEnded 0x175 0 (t .none (.s 4) .none)).resumes (.core 0 0) 0x175 (t .none (.s 4) .none) = true
      ∧ ((linEnded 0x175 0 (t .none (.s 4) .none)).lnJobs.find? (fun j => j.serial + 1 == 6)).map (fun j => j.ended) = some (some (0, 9))
      ∧ readyCore (.lnforkAf (t (.s 11) (.s 5) .none)) (linEnded 0x171 0 (t (.s 11) (.s 5) .none)) = true
      ∧ ((linEnded 0x171 7 (t (.s 11) (.s 5) .none)).lnJobs.find? (fun j => j.serial + 1 == 6)).map (fun j => j.ended) = some (some (7, 9))) := by
  simp only [Claims.unheld]
  refine ⟨by decide +kernel, freeId_some (cap := 16) (by decide +kernel) (by decide) (by decide +kernel), Or.inr (by decide +kernel), ?_, by decide +kernel,
    by decide +kernel, by decide +kernel, by decide +kernel⟩
  have e : ((mapGranules ((lin linRegs).node 0 5).lines, 1) :: List.replicate ((lin linRegs).node 0 5).lines (1, 1)) = [(0, 1)] := by decide +kernel
  simp only [e]
  obtain ⟨u, gs, h⟩ := reserve_some (s := { lin linRegs with freeCtr := (lin linRegs).freeCtr + 1 }) (k := 0) (used := (lin linRegs).usedGranules 0)
    (size := 64) (by decide +kernel) (by decide) (by decide +kernel)
  simp [h]

/-- A queue descriptor at 0x20000 with its slots at 0x30000, a COLL descriptor at 0x10000 and a GATHER descriptor at 0x10100, a
completion at 0x10200, and n jobs in the thread's engine queue. -/
def cuState (n : Nat) : State :=
  let s := onCore { regs [(1, 0x10000), (2, 0x20000), (4, 0x10100), (5, 0x10200), (6, 0x10000), (7, 7), (8, 1)] with v := [(1, 5)] }
  let s := s.setOctet 0 { s.octet 0 with queues := [(0, List.replicate n { readyJob with running := false, micro := false })] }
  let words (l : List Nat) : List Byte := l.flatMap (bytesOf 8)
  let m := writeBytes (writeBytes [] 0x10000 (words [0, 1, 0, 0x20000])) 0x10100 (words [0, 1, 0, 8, 0, 0, 0x20000])
  { s with mem := writeBytes (writeBytes m 0x10200 [7]) 0x20000 (words [0, 0, 0x30000, 4]) }

theorem open_queue (scope : Nat) (h : scope ≠ 5) : Claims.QueueOpen (cuState 0) scope 0x20000 0x20000 0 0x30000 bootPage where
  still := ⟨settled_boot (by decide +kernel), settled_boot (by decide +kernel)⟩
  room  := ⟨(Claims.dropCopy (cuState 0) (.dev 0x20000)).homeNat 0x20000 64,
    ⟨⟨by decide, bootPage, by decide +kernel⟩, Or.inl (by decide +kernel), by decide +kernel, rfl⟩, by decide +kernel⟩
  slot  := ⟨Or.inl (by decide +kernel), Or.inr (by decide)⟩
  acks  := fun e => absurd e h

/-- Kicks with room and without, MEDROP within range and beyond, MEBURST, packets, and what waits for completions (KicksAndCopies). -/
theorem witness_KicksAndCopies :
    let s := cuState 0
    let k := tf 0x20 (.s 9) (.v 1) .none
    (fieldsOf (.meload k) = some (0x180, k) ∧ ready (.meload k) s = true ∧ Claims.kindOf k (.meload k) = some 1 ∧ Claims.kindOf k (.medl k) = some 4
      ∧ ready (.memm k) s = true ∧ ready (.melin k) s = true ∧ ready (.medl k) s = true
      ∧ (((s.octet (0 / 8)).queues.get [] (0 % 8)).filter (fun j => !j.done)).length = 0
      ∧ ((((cuState 8).octet (0 / 8)).queues.get [] (0 % 8)).filter (fun j => !j.done)).length = 8)
    ∧ (∃ p, Claims.Block s k.a p) ∧ (∃ p, Claims.Block s (.s 1) p)
    ∧ (readyCore (.medrop (tf 0 .none (.s 7) .none)) s = true ∧ srcOf s (.s 7) = some 7 ∧ srcOf s (.s 1) = some 0x10000
      ∧ ready (.meburst (tf 0 .none (.s 7) (.s 8))) s = true ∧ srcOf s (.s 8) = some 1 ∧ srcOf s (.s 0) = some 0)
    ∧ (ready (.cuq (tf 0x20 (.s 9) (.s 2) (.v 1))) s = true ∧ srcOf s (.s 2) = some 0x20000 ∧ vecOf s (.v 1) = some 5)
    ∧ Claims.QueueOpen s 1 0x20000 0x20000 0 0x30000 bootPage
    ∧ (readyCore (.coll (tf 0 (.s 9) (.s 1) .none)) s = true ∧ allowed s 0x10000 .read anyPage = some (.dev 0x10000, bootPage)
      ∧ readyCore (.gather (tf 1 (.s 9) (.s 4) .none)) s = true ∧ allowed s 0x10100 .read anyPage = some (.dev 0x10100, bootPage))
    ∧ (∃ bs, Found s (.dev 0x10000) bootPage 64 .l1 bs ∧ (List.range 8).map (Claims.word bs) = [0, 1, 0, 0x20000, 0, 0, 0, 0])
    ∧ (∃ bs, Found s (.dev 0x10100) bootPage 64 .l1 bs ∧ (List.range 8).map (Claims.word bs) = [0, 1, 0, 8, 0, 0, 0x20000, 0])
    ∧ (ready (.cuwp (tf 0x100 (.s 9) (.s 7) .none)) s = true ∧ 7 < 8 ∧ readyCore (.cucq (tf 0 (.v 2) (.s 5) (.s 7))) s = true
      ∧ allowed s 0x10200 .read homePage = some (.dev 0x10200, bootPage) ∧ readyCore (.cuwait (tf 0 (.s 9) (.s 5) (.s 7))) s = true)
    ∧ (∃ v, Claims.HomeNow s (.dev 0x10200) bootPage 32 v ∧ v = 7) ∧ (∃ v, Claims.HomeNow s (.dev 0x10200) bootPage 8 v ∧ ((v : Int) - 7) % 2 ^ 32 < 2 ^ 31) := by
  refine ⟨by decide +kernel, ⟨_, Or.inl ⟨1, 5, rfl, by decide +kernel, rfl⟩⟩, ⟨_, Or.inr ⟨0x10000, .dev 0x10000, bootPage, (by intro n h; cases h),
    by decide +kernel, by decide, by decide +kernel, found_l1 (by decide +kernel) (by decide) (by decide +kernel) (by decide +kernel)⟩⟩, by decide +kernel,
    by decide +kernel, open_queue 1 (by decide), by decide +kernel,
    ⟨_, found_l1 (by decide +kernel) (by decide) (by decide +kernel) (by decide +kernel), by decide +kernel⟩,
    ⟨_, found_l1 (by decide +kernel) (by decide) (by decide +kernel) (by decide +kernel), by decide +kernel⟩, by decide +kernel,
    ⟨_, ⟨_, found_home (by decide +kernel) (by decide +kernel), rfl⟩, by decide +kernel⟩,
    ⟨_, ⟨_, found_home (by decide +kernel) (by decide +kernel), rfl⟩, by decide +kernel⟩⟩

/-- An id that is not valid and a node that a job holds, each way LNPATCH traps, and a poisoned element of LNRES (LineageInstructions). -/
theorem witness_LineageInstructions_traps :
    let s := lin linRegs
    let f (x : Operand) := tf 0 (.s 11) x .none
    let p (x i : Operand) := tf 0 x i (.s 9)
    let bad : State := { s with poison := [(0xC020, true), (0xC040, true)] }
    let frozen := s.setNode 0 7 ⟨2, 0, 0, 8, 0, 0, 0, 16, 1, 6, 1, 0⟩
    let dry := ({ s with mem := writeBytes s.mem 0x40018 (bytesOf 8 4) } : State).setNode 0 9 ⟨1, 0, 0, 8, 0, 0, 0, 16, 1, 9, 1, 0⟩
    Claims.names s (.lnfork (f (.s 0))) (f (.s 0)) 0 ∧ readyCore (.lnfork (f (.s 0))) s = true ∧ s.nodeInvalid 0 0 = true
    ∧ Claims.names s (.lnfork (f (.imm 3))) (f (.imm 3)) 3 ∧ s.nodeInvalid 0 3 = false ∧ (s.node 0 3).job ≠ 0
    ∧ (readyCore (.lnpatch (p (.s 8) (.s 0))) s = true ∧ (s.node 0 8).state = 3 ∧ (frozen.node 0 7).state = 2 ∧ (s.node 0 2).count ≤ (0x1000000 : Word).toNat)
    ∧ bad.patchPoisoned 0 2 0 = true ∧ s.patchPoisoned 0 2 0 = false ∧ dry.patchElem 0 9 0 16 0 1 = none
    ∧ (readyCore (.lnres (tf 0 (.s 11) (.s 2) (.imm 0))) bad = true ∧ bad.nodeElem 0 2 0 = none) := by
  simp only [Claims.names]; decide +kernel

/-- A job that still runs, a slot count out of range, a full queue, a kick that waits for an acknowledgement, and a take that is BUSY
(LineageJobs, KicksAndCopies). -/
theorem witness_KicksAndCopies_waits :
    let f := tf 0 .none (.s 4) .none
    let j : State := { linEnded 0x175 0 f with lnJobs := [⟨2, 0, 0, 4, 2, 0, 0, 0, 5, [4, 2], [], none⟩] }
    let s := cuState 0
    let q (lcnt wi : Nat) : State := { s with mem := writeBytes (writeBytes s.mem 0x20018 [BitVec.ofNat 8 lcnt]) 0x20000 (bytesOf 4 wi) }
    let far : State := { s with peerStores := [(0, 0x8000000000008)] }
    (readyCore (.lnflat f) j = true ∧ j.resumes j.hart 0x175 f = true ∧ (j.lnJobs.find? (fun e => e.serial + 1 == (j.ctxOf j.hart).waitCnt.toNat)).isSome = true)
    ∧ (ready (.cuq (tf 0x20 (.s 9) (.s 2) (.v 1))) (q 0 0) = true ∧ bitsOf ((Claims.dropCopy (q 0 0) (.dev 0x20000)).homeNat 0x20000 64) 199 192 = 0
      ∧ bitsOf ((Claims.dropCopy (q 13 0) (.dev 0x20000)).homeNat 0x20000 64) 199 192 = 13
      ∧ bitsOf ((Claims.dropCopy (q 4 16) (.dev 0x20000)).homeNat 0x20000 64) 31 0 = 16)
    ∧ (ready (.memm (tf 0xA0 (.s 9) (.v 1) .none)) far = true ∧ Claims.unacked far (mField (tf 0xA0 (.s 9) (.v 1) .none).m 7 5) 0 0 = some (0, 0x8000000000008)) := by
  decide +kernel

/-! ### KV slabs, attention and prefixes -/

/-- Word 1 of a growing sequence entry. -/
def seqWord : Nat := ({ v := true, grow := true, base := 0x8000, dim := 1, lheads := 0, lsize := 13, tpd := 0, tpn := 0 } : SeqEntry).word1

/-- A tenant with a prefix table at 0x70000, salt 5, a sequence table at 0x80000, a copy queue at 0x1000000 with slots at the RAW
page 0x1005000, sequence 3 mapped, sequence 4 growing, and prefix entry 2 LIVE with ids at 0x1005400. -/
def kv (c : Ctx) : State :=
  let s := ten c
  let words (l : List Nat) : List Byte := l.flatMap (bytesOf 8)
  let m := writeBytes s.mem 0x40030 (words [0x70000, 5, 0, 0, 0x80000, 0x1000000])
  let m := writeBytes m 0x70080 (words [2 ^ 61 + 5, 2 ^ 16 + 1, 0, 0x1005400, 0])
  let m := writeBytes m 0x80030 (words [0x2000, 2 ^ 62 + 0x1000D, 0x8000, seqWord])
  let m := writeBytes m 0x10000 (words [0, 0, 0x1005000, 4])
  { s with mem := writeBytes m 0x15400 (((List.range 16).map (· + 1)).flatMap (bytesOf 4)), tlb := s.tlb ++ [(tlbKey 0 0 0x1005000 0, some ⟨0x01500003, 0⟩)] }

def rawPg : Page := { fmt := 0, geom := 0, w := true, x := false, nc := false, s := false, home := 0 }

def kvRegs : Ctx :=
  { regs [(1, 3), (2, 4), (4, 0x2000), (5, 0x1000D), (6, 0x4000), (7, 0x400), (8, 3), (9, 0x100000000), (10, 3), (11, 0), (12, 4096), (14, 3), (15, 0x100000001)]
    with v := [(1, 0x0000000000001000_0000000000000001_0000000000000005)] }

/-- A core that holds no line has no copy to drop. -/
theorem dropCopy_empty {s : State} (h : s.l1 = []) (loc : Loc) : Claims.dropCopy s loc = s := by
  unfold Claims.dropCopy
  split
  · simp only [State.writeBackKey, h, SMap.get, SMap.set, if_true]
    exact congrArg (fun m => ({ s with l1 := m } : State)) (by rw [h]; rfl)
  · rfl

/-- KVMAP of a settled and a growing sequence and out of range, KVGROW with and without a pair, ATTN within, empty and out of range. -/
theorem witness_KvInstructions :
    let s := kv kvRegs
    let b : State := { s with transoms := (List.range 16).map (fun n => ⟨0, 9, 0, 0, 0, 0, n, 0⟩) }
    (ready (.kvmap (tf 0 .none (.s 1) (.w 2))) s = true ∧ s.tenOf s.hart < 16 ∧ srcOf s (.s 1) = some 3 ∧ pairOf s (.w 2) = some (0x2000, 0x1000D)
      ∧ srcOf s (.s 12) = some 4096 ∧ (s.seqEntry 0 3).grow = false ∧ (s.seqEntry 0 4).grow = true ∧ 0x2000 % 2 ^ 13 = 0
      ∧ 0x1000D = 2 ^ 16 * 1 + 2 ^ 8 * 0 + 13)
    ∧ (ready (.kvgrow (tf 0 (.s 13) (.s 1) (.s 6))) s = true ∧ (s.seqEntry 0 3).v = true ∧ 0x4000 % (2 * 2 ^ (s.seqEntry 0 3).lsize) = 0
      ∧ s.transoms = [] ∧ (∀ n < 16, b.transoms.any (fun p => p.die == dieOf b.hart && p.pair == n) = true) ∧ s.descWord 0 11 = 0x1000000)
    ∧ Claims.QueueOpen s 4 0x1000000 0x10000 0 0x15000 rawPg
    ∧ (ready (.attn (tf 0 (.s 7) (.v 1) (.w 4))) s = true ∧ srcOf s (.s 7) = some 0x400 ∧ (vecOf s (.v 1)).isSome = true
      ∧ pairOf s (.w 4) = some (3, 0x100000000) ∧ pairOf s (.w 5) = some (3, 0) ∧ 1 ≤ (s.seqEntry 0 3).capacity ∧ 2 ^ (s.seqEntry 0 3).lheads = 1
      ∧ s.windowBase 0 + 0 % 48 * 2 ^ 18 ≤ 0x400 ∧ (s.attns.filter (fun a => a.core == 0)).length < 64) := by
  refine ⟨by decide +kernel, by decide +kernel, ?_, by decide +kernel⟩
  refine ⟨⟨settled_tlb (by decide +kernel) (by decide +kernel) (by decide +kernel), settled_tlb (by decide +kernel) (by decide +kernel) (by decide +kernel)
      (fun _ _ => dropCopy_empty rfl _)⟩,
    ⟨(Claims.dropCopy (kv kvRegs) (.dev 0x10000)).homeNat 0x10000 64, ⟨⟨by decide, ⟨8, 0, true, false, false, false, 0⟩, by decide +kernel⟩,
      Or.inl (by decide +kernel), by decide +kernel, rfl⟩, by decide +kernel⟩, ⟨Or.inl (by decide +kernel), Or.inr (by decide)⟩, fun e => absurd e (by decide)⟩

theorem ids_of {s : State} {va pa n : Nat} {pg : Page} (h : ∀ j < n, (va + 4 * j) % 4 = 0 ∧ allowed s (va + 4 * j) .read anyPage = some (.dev (pa + 4 * j), pg)
      ∧ s.regionOf (pa + 4 * j) ≠ .pcie ∧ s.homePoisoned (pa + 4 * j) 4 = false) :
    Claims.Ids s va n ((List.range n).map (fun j => ofBytes (s.homeBytes (pa + 4 * j) 4))) := by
  refine ⟨by simp, fun j hj => ?_⟩
  obtain ⟨h1, h2, h3, h4⟩ := h j hj
  refine ⟨_, _, _, h1, h2, ?_, found_home h3 h4, ?_⟩
  · intro a e; cases e; exact h3
  · simp [List.getD, hj]

/-- A prefix table whose entries are all LIVE and pinned. -/
def kvFull : State :=
  let s := ten kvRegs
  let s : State := { s with mem := writeBytes s.mem 0x40030 (bytesOf 8 0x70000) }
  { s with mem := s.mem ++ (List.range 64).flatMap (fun e => [(0x70000 + 64 * e + 7, 0x20), (0x70000 + 64 * e + 10, 1)]) }

theorem kvFull_0 : ∀ k < 16, (kvFull.pfxEntry 0 (0 + k)).state = 1 ∧ (kvFull.pfxEntry 0 (0 + k)).pins = 1 := by decide +kernel
theorem kvFull_1 : ∀ k < 16, (kvFull.pfxEntry 0 (16 + k)).state = 1 ∧ (kvFull.pfxEntry 0 (16 + k)).pins = 1 := by decide +kernel
theorem kvFull_2 : ∀ k < 16, (kvFull.pfxEntry 0 (32 + k)).state = 1 ∧ (kvFull.pfxEntry 0 (32 + k)).pins = 1 := by decide +kernel
theorem kvFull_3 : ∀ k < 16, (kvFull.pfxEntry 0 (48 + k)).state = 1 ∧ (kvFull.pfxEntry 0 (48 + k)).pins = 1 := by decide +kernel

theorem no_victim (e : Nat) : ¬ Claims.Victim kvFull e := by
  have h : ∀ k < 64, (kvFull.pfxEntry (kvFull.tenOf kvFull.hart) k).state = 1 ∧ (kvFull.pfxEntry (kvFull.tenOf kvFull.hart) k).pins = 1 := by
    intro k hk
    have ht : kvFull.tenOf kvFull.hart = 0 := by decide +kernel
    rw [ht]
    by_cases a : k < 16
    · simpa using kvFull_0 k a
    by_cases b : k < 32
    · simpa [show 16 + (k - 16) = k by omega] using kvFull_1 (k - 16) (by omega)
    by_cases c : k < 48
    · simpa [show 32 + (k - 32) = k by omega] using kvFull_2 (k - 32) (by omega)
    · simpa [show 48 + (k - 48) = k by omega] using kvFull_3 (k - 48) (by omega)
  rintro ⟨he, ⟨h0, _⟩ | ⟨_, _, h0, _⟩⟩
  · simp [(h e he).1] at h0
  · simp [(h e he).2] at h0

/-- PFXH and its refusals, a hit and a miss of PFXL, a free entry and none for PFXINS, PFXPIN and PFXDEL (PrefixTable). -/
theorem witness_PrefixTable :
    let s := kv { kvRegs with s := kvRegs.s ++ [(16, 0x1005400), (17, 1), (18, 5), (19, 0x1005400), (20, 0x1005400), (21, 1), (22, 2), (23, 64)] }
    let ids := (List.range 16).map (fun j => ofBytes (s.homeBytes (0x15400 + 4 * j) 4))
    (ready (.pfxh (tf 0 (.s 18) (.s 16) (.s 17))) s = true ∧ srcOf s (.s 16) = some 0x1005400 ∧ srcOf s (.s 17) = some 1 ∧ srcOf s (.s 18) = some 5
      ∧ allowed s 0x1005400 .read anyPage = some (.dev 0x15400, rawPg) ∧ s.descWord 0 7 % 2 ^ 61 = 5)
    ∧ (∃ bs, Found s (.dev 0x15400) rawPg 64 .l1 bs)
    ∧ (ready (.pfxl (tf 1 (.s 24) (.s 18) (.w 10))) s = true ∧ pairOf s (.w 10) = some (0x1005400, 1) ∧ 0x1005400 % 64 = 0
      ∧ (∀ e < 64, (s.pfxEntry 0 e).state = 1 → e = 2) ∧ (s.pfxEntry 0 2).hash = 5 ∧ (s.pfxEntry 0 2).tokens = 0x1005400)
    ∧ Claims.Ids s 0x1005400 (16 * 1) ids ∧ Claims.settled s ∧ (Claims.like s 5 1 2 ∧ Claims.Ids s (s.pfxEntry 0 2).tokens (16 * 1) ids)
    ∧ (∀ k < 2, Claims.passes s 5 1 ids k) ∧ (∀ e < 64, ¬ Claims.like s 6 1 e)
    ∧ (ready (.pfxins (tf 0 (.s 24) (.v 1) .none)) s = true ∧ vecOf s (.v 1) = some 0x0000000000001000_0000000000000001_0000000000000005)
    ∧ Claims.Victim s 0 ∧ (∀ e, ¬ Claims.Victim kvFull e)
    ∧ (ready (.pfxpin (tf 1 .none (.s 22) .none)) s = true ∧ srcOf s (.s 22) = some 2 ∧ (s.pfxEntry 0 1).state = 0 ∧ srcOf s (.s 23) = some 64
      ∧ ready (.pfxdel (tf 0 .none (.s 22) .none)) s = true) := by
  intro s ids
  have hi : Claims.Ids s 0x1005400 (16 * 1) ids := ids_of (pa := 0x15400) (pg := rawPg) (by decide +kernel)
  have h0 : ∀ e < 64, (s.pfxEntry (s.tenOf s.hart) e).state = 1 → e = 2 := by decide +kernel
  have h2 : (s.pfxEntry (s.tenOf s.hart) 2).hash = 5 := by decide +kernel
  refine ⟨by decide +kernel, ⟨_, found_l1 (by decide +kernel) (by decide) (by decide +kernel) (by decide +kernel)⟩, by decide +kernel, hi,
    settled_tlb (by decide +kernel) (by decide +kernel) (by decide +kernel), ?_, ?_, ?_, by decide +kernel, ?_, no_victim, by decide +kernel⟩
  · refine ⟨⟨by decide +kernel, h2, by decide +kernel⟩, ?_⟩
    have e : (s.pfxEntry 0 2).tokens = 0x1005400 := by decide +kernel
    rw [e]; exact hi
  · intro k hk h
    have := h0 k (by omega) h.1
    omega
  · intro e he h
    have := h0 e he h.1
    subst this
    have := h.2.1
    rw [h2] at this
    cases this
  · exact ⟨by decide, Or.inl ⟨by decide +kernel, by omega⟩⟩

/-- 08's worked example of PFXH: salt 5 and the ids 1 to 16 give 0xA05D9. -/
theorem test_pfxh : sAfter (.pfxh (tf 0 (.s 18) (.s 16) (.s 17)))
    (kv { kvRegs with s := kvRegs.s ++ [(16, 0x1005400), (17, 1), (18, 5)] }) 18 = some 0xA05D9 := by decide +kernel

/-- What KVMAP, ATTN, PFXL and PFXINS reject, in the order of their operands (KvInstructions, PrefixTable). -/
theorem witness_KvInstructions_traps :
    let s := kv { kvRegs with s := kvRegs.s ++ [(16, 0x2001), (17, 0x1000D), (18, 0x2000), (19, 0xD), (20, 0x1FFFFFFFFFFFFFFF), (22, 0x1005401), (23, 1)], v := [(1, 5), (2, 0x1FFFFFFFFFFFFFFF)] }
    (pairOf s (.w 8) = some (0x2001, 0x1000D) ∧ 0x2001 % 2 ^ 13 ≠ 0 ∧ ready (.kvmap (tf 0 .none (.s 1) (.w 8))) s = true
      ∧ pairOf s (.w 9) = some (0x2000, 0xD) ∧ 0xD / 2 ^ 16 % 16 = 0)
    ∧ (ready (.attn (tf 0 (.s 6) (.v 1) (.w 4))) s = true ∧ srcOf s (.s 6) = some 0x4000 ∧ srcOf s (.s 4) = some 0x2000 ∧ 0x7FF % 1024 ≠ 0
      ∧ ready (.attn (tf 0 (.s 7) (.v 1) (.w 4))) s = true ∧ (s.seqEntry 0 4096).v = false ∧ (s.seqEntry 0 3).capacity < 2 ^ 32 - 1)
    ∧ (ready (.pfxl (tf 1 (.s 24) (.s 20) (.w 11))) s = true ∧ 2 ^ 61 - 1 ≤ (0x1FFFFFFFFFFFFFFF : Word).toNat ∧ pairOf s (.w 11) = some (0x1005401, 1) ∧ 0x1005401 % 64 ≠ 0)
    ∧ (ready (.pfxins (tf 0 (.s 24) (.v 2) .none)) s = true ∧ vecOf s (.v 2) = some 0x1FFFFFFFFFFFFFFF
      ∧ ready (.pfxins (tf 0 (.s 24) (.v 1) .none)) s = true ∧ vecOf s (.v 1) = some 5) := by decide +kernel

/-! ### Traps, system services and registers -/

/-- Registers with a handler at 0x2000. -/
def trapRegs : Ctx := { regs [(1, 7), (2, 0x1004), (3, 0x1005), (4, 0x10005), (5, 0x10000)] with tvec := 0x2000, epc := 0x3000 }

/-- A job's hart on engine 0 and queue 3, with a handler. -/
def engineTrap : State := State.reset.setOctet 0 { Octet.zero with meCtx := [(3, { Ctx.zero with tvec := 0x2000 })] }

/-- A trap with a handler on each kind of hart, an opcode that an engine hart does not execute, HLT and a system register
in tenant mode, TRAP with and without a handler, and ERET to %epc, to a PC and to no PC (TrapsAndReturn). -/
theorem witness_TrapsAndReturn :
    let s := onCore trapRegs
    let n := tf 0 .none .none .none
    let e : State := { engineTrap with hart := .me 0 3 }
    (Claims.untraced s ∧ Claims.hasHandler (s.thread 0 0).ctx ∧ validHart (.me 0 3) = true ∧ isCore (.me 0 3) = false ∧ Claims.hasHandler (e.ctxOf (.me 0 3)))
    ∧ (fieldsOf (.hlt n) = some (0x1B9, n) ∧ legalOn e.hart.kind 0x1B9 = false ∧ validHart e.hart = true)
    ∧ (legalOn .core 0x1B9 = true ∧ (ten trapRegs).tenantMode (ten trapRegs).hart = true
      ∧ privileged 0x1B9 = true ∧ namesMewt 0x1B9 n = false)
    ∧ (privileged 0x01E = false ∧ legalOn .core 0x01E = true ∧ sysField (tf 0 (.s 1) (.x 0x300) .none) = some 20)
    ∧ (ready (.trap (tf 0 .none (.s 1) .none)) s = true ∧ Claims.fieldOf s (.s 1) = some 7 ∧ ready (.trap (tf 0 .none (.s 1) .none)) (st [(1, 7)]) = true
      ∧ ((st [(1, 7)]).ctxOf (st [(1, 7)]).hart).tvec = 0)
    ∧ (ready (.eret n) s = true ∧ (s.ctxOf s.hart).epc = 0x3000 ∧ Claims.wellFormedPc 0x3000 ∧ ready (.eret (tf 0 .none (.s 3) .none)) s = true
      ∧ srcOf s (.s 2) = some 0x1004 ∧ srcOf s (.s 3) = some 0x1005 ∧ ¬ Claims.wellFormedPc 0x1005) := by
  simp only [Claims.untraced, Claims.hasHandler, Claims.wellFormedPc]; decide +kernel

/-- A launch whose log ring is at a virtual address. -/
def aLaunch (ring : Word) : Launch :=
  ⟨16, 0, 0x20000, 0, 0, 0, 0, 0, 0, 0, false, false, false, false, false, 0, 0, 0, 0, 0, 0, ring, 1, [], [], [], 0, true, 0, false, 0, none, 0⟩

/-- A service queue at 0x20000 with its slots at 0x30000 and n of 16 taken, and the launch of the thread with a log ring there. -/
def service (quota : BitVec 8) (n : Nat) : State :=
  let s := onCore { regs [(1, 5), (2, 0x10000), (3, 0x7FF0003), (4, 24), (5, 0x18000), (6, 0x18080), (7, 0x18100), (8, 0xFF)] with v := [(1, 9)], quota := quota }
  let s := s.setThread 0 0 { s.thread 0 0 with launch := some 0 }
  let words (l : List Nat) : List Byte := l.flatMap (bytesOf 8)
  let m := writeBytes (writeBytes [] 0x20000 (words [n, 0, 0x30000, 4])) 0x18000 (words [0x3])
  let m := writeBytes (writeBytes m 0x18080 (words [0x203])) 0x18100 (words [0x403])
  let reel (a mode : Nat) (l : List Snap) : Reel := ⟨3, a, mode, 0, l, [], []⟩
  let s : State := { s with mem := m, ctl := [(0x80000, 0x20000), (0x80001, 5)], launches := [(0, some (aLaunch 0x20000))] }
  { s with tenants := [(3, some ⟨0x40000, 0⟩)], reels := [reel 0x18080 1 [], reel 0x18100 3 [⟨[], [], [], [], [], [], [], [], [], [], [], [], [], []⟩]] }

/-- SYSC with room, with a full queue, without a queue or a symbol, and a function out of range; INTR within the grant, out
of range and not granted (SystemServices). -/
theorem witness_SystemServices :
    let s := service 0 3
    let f := tf 0 (.s 9) (.s 1) (.v 1)
    let late := onCore { regs [(1, 5)] with late := [(12, some ⟨0, 1, 0, [], false⟩)], quota := 1 }
    (ready (.sysc f) s = true ∧ srcOf s (.s 1) = some 5 ∧ (vecOf s (.v 1)).isSome = true ∧ srcOf s (.s 2) = some 0x10000
      ∧ bitsOf (s.ctlWord 0x400000).toNat 51 6 * 64 = 0x20000 ∧ s.homeNat 0x20000 4 = 3 ∧ s.homeNat (0x20000 + 16) 8 + 64 * 3 = 0x300C0
      ∧ 2 ^ (s.homeNat (0x20000 + 24) 1 % 16) = 16 ∧ s.homeNat (0x20000 + 8) 4 = 0)
    ∧ ((service 0 16).homeNat 0x20000 4 = 16 ∧ bitsOf ((st []).ctlWord 0x400000).toNat 51 6 * 64 = 0)
    ∧ (Claims.freeSyms s 1 ≠ [] ∧ ready (.sysc f) late = true ∧ Claims.freeSyms late 1 = [])
    ∧ (ready (.intr (tf 0x200 .none (.s 3) .none)) s = true ∧ srcOf s (.s 3) = some 0x7FF0003 ∧ 0x7FF0003 / 2 ^ 16 = 2047 ∧ 0x7FF0003 % 32 = 3
      ∧ srcOf s (.s 4) = some 24 ∧ s.tenantMode s.hart = false)
    ∧ ((ten (regs [])).tenantMode (ten (regs [])).hart = true ∧ ((ten (regs [])).descWord 0 12).testBit 3 = false) := by decide +kernel

/-- LOGX with room, with a full ring and without a launch; TMARK; HLT; and CKPT that starts, ends, plays and traps (SystemServices). -/
theorem witness_SystemServices_logs :
    let s := service 0 3
    let f := tf 0 .none (.v 1) .none
    (ready (.logx f) s = true ∧ (s.launchOf (s.traceOwner s.hart).1).isSome = true ∧ s.rawPa s.hart (s.traceOwner s.hart).2.1 0x20000 = some 0x20000
      ∧ s.rawPa s.hart (s.traceOwner s.hart).2.1 (s.homeNat (0x20000 + 16) 8 + 64 * 3) = some 0x300C0
      ∧ ready (.logx f) (onCore { regs [] with v := [(1, 9)] }) = true ∧ (st []).launchOf ((st []).traceOwner (st []).hart).1 = none)
    ∧ (ready (.tmark (tf 0 .none (.s 1) (.s 2))) s = true ∧ (s.launchOf (s.thread 0 0).launch).isSome = true
      ∧ ∀ n < 16, (s.traceBuf.get [] (n * 1024 + 0)).length < 64 ∧ (s.sessWord n 2).testBit 0 = false)
    ∧ (ready (.hlt (tf 0 .none .none .none)) s = true ∧ (s.core 0).halted = false)
    ∧ (ready (.ckpt (tf 0 .none (.s 5) .none)) s = true ∧ srcOf s (.s 5) = some 0x18000 ∧ allowed s 0x18000 .read homePage = some (.dev 0x18000, bootPage)
      ∧ (∀ k < 16, Claims.reelFits { s with reels := [] } 0x18000 k) ∧ s.tenantBusy 3 = false ∧ s.reelAt 0x18000 = none)
    ∧ (srcOf s (.s 6) = some 0x18080 ∧ allowed s 0x18080 .read homePage = some (.dev 0x18080, bootPage) ∧ (∀ k < 16, Claims.reelFits s 0x18080 k)
      ∧ (s.reelAt 0x18080).map (fun r => (r.mode, r.ten)) = some (1, 3) ∧ (Claims.reelWord s 0x18080 0).testBit 9 = true
      ∧ ∀ q ∈ s.reels, q.ten = 3 → q.mode = 1 → q.addr = 0x18080)
    ∧ (srcOf s (.s 7) = some 0x18100 ∧ allowed s 0x18100 .read homePage = some (.dev 0x18100, bootPage) ∧ (∀ k < 16, Claims.reelFits s 0x18100 k)
      ∧ (s.reelAt 0x18100).map (fun r => (r.mode, r.ten, r.snaps.length)) = some (3, 3, 1) ∧ (Claims.reelWord s 0x18100 0).testBit 10 = true
      ∧ s.tenOf s.hart ≠ 3) := by
  simp only [Claims.reelFits]
  refine ⟨by decide +kernel, by decide +kernel, by decide +kernel, by decide +kernel, by decide +kernel, by decide +kernel⟩

/-- RDX and WRX of the issuing and of a FREE thread, with a name out of range and a reserved value; TLBI; IFENCE and CCTL with
dirty words; PERF of a thread's, a core's and no counter, and in tenant mode; SPADMAP within and beyond (SystemRegisters). -/
theorem witness_SystemRegisters :
    let s := lateState 0 false true
    let t := st [(1, 5), (2, 0x10001), (3, 960), (4, 63), (5, 64), (6, 15), (7, 47), (8, 48), (9, 0x100)]
    (ready (.rdx (tf 0 (.s 5) (.x 2) .none)) t = true ∧ ready (.rdx (tf 0 (.s 5) (.x 2) (.s 2))) t = true ∧ srcOf t (.s 2) = some 0x10001
      ∧ srcOf t (.s 3) = some 960 ∧ specialOpen t.hart 2 = false ∧ specialOpen t.hart 0x310 = true)
    ∧ (ready (.wrx (tf 0 (.x 2) (.s 1) .none)) t = true ∧ srcOf t (.s 1) = some 5 ∧ specialOk (entered t) 2 5 = true ∧ srcOf t (.s 5) = some 64
      ∧ (entered t).setSpecial t.hart 2 64 = none ∧ (t.ctxOf t.hart).anyLateV = false ∧ ready (.wrx (tf 0 (.x 2) (.s 1) (.s 2))) t = true
      ∧ ((entered t).ctxOf (.core 1 1)).run = .free ∧ ((entered t).ctxOf (.core 1 1)).anyLateV = false
      ∧ ((entered t).setSpecial (.core 1 1) 2 5).isSome = true ∧ (entered t).setSpecial (.core 1 1) 2 64 = none)
    ∧ (ready (.tlbi (tf 0x80 .none (.s 1) (.s 6))) t = true ∧ mField (BitVec.ofNat 14 0x80) 7 5 = 4 ∧ ready (.tlbi (tf 0x20 .none .none .none)) t = true)
    ∧ (ready (.ifence (tf 0 .none .none .none)) s = true ∧ ready (.cctl (tf 2 .none .none .none)) s = true ∧ ready (.cctl (tf 1 .none .none .none)) s = true
      ∧ (s.l1Get 0 0x2001).isSome = true ∧ Claims.fieldOf s .none = some 0 ∧ s.fused.get false (clusterOfCore 0) = false)
    ∧ (ready (.perf (tf 0 (.s 5) (.imm 28) .none)) t = true ∧ srcOf t (.imm 28) = some 28)
    ∧ (ready (.perf (tf 0 (.s 5) (.s 4) .none)) t = true ∧ srcOf t (.s 4) = some 63 ∧ srcOf t (.s 6) = some 15 ∧ t.tenantMode t.hart = false
      ∧ ready (.perf (tf 0 (.s 5) (.imm 16) .none)) (ten (regs [])) = true ∧ (ten (regs [])).tenantMode (ten (regs [])).hart = true)
    ∧ (ready (.spadmap (tf 0 (.s 5) (.s 7) .none)) t = true ∧ srcOf t (.s 7) = some 47 ∧ srcOf t (.s 8) = some 48) := by decide +kernel

/-- CKPT of an ill-formed descriptor, of a reel in no fitting mode, and where a job of the tenant runs; a write of another thread
that is not stopped; a counter in tenant mode (SystemServices, SystemRegisters). -/
theorem witness_SystemServices_stops :
    let s := service 0 3
    let busy := s.setOctet 0 { s.octet 0 with queues := [(0, [⟨[], 1, 3, 0, 0, none, true, false, false, 0, false, false, none, none⟩])] }
    let f := tf 0 .none (.s 5) .none
    ¬ Claims.reelFits s 0x1FFF0 2 ∧ (∀ j < 2, Claims.reelFits { s with tenants := [(0, some ⟨0, 0⟩)] } 0x1FFF0 j)
    ∧ ready (.ckpt f) busy = true ∧ busy.tenantBusy 3 = true ∧ (Claims.reelWord busy 0x18000 0).testBit 9 = false ∧ (Claims.reelWord busy 0x18000 1) % 4 = 0
    ∧ (∃ r, busy.reelAt 0x18080 = some r ∧ r.mode = 1 ∧ busy.tenantBusy r.ten = true)
    ∧ ready (.rdx (tf 0 (.s 5) (.x 0x310) .none)) (st []) = true ∧ specialOpen (st []).hart 0x310 = true
    ∧ ((entered (st [])).ctxOf (.core 0 0)).halted = false ∧ ((entered (st [])).ctxOf (.core 0 0)).run ≠ .free := by
  simp only [Claims.reelFits]
  refine ⟨by decide +kernel, by decide +kernel, by decide +kernel, by decide +kernel, by decide +kernel, by decide +kernel,
    ⟨_, by rfl, by decide +kernel⟩, by decide +kernel⟩

/-! ### Engine microcode -/

/-- Words as bytes. -/
def words8 (l : List Nat) : List Byte := l.flatMap (bytesOf 8)

/-- Queue 3 of engine 0 runs a job with a packet; tile 5 and block 0 hold values; memory holds a take of layer 7 with 9 lines. -/
def meState (packet : List Byte) (l : List (Nat × Word)) : State :=
  let c : Ctx := { regs l with v := [(1, 9), (2, 0)] }
  let tile : Tile := { typ := 1, cells := 0x12345, scales := [], tag := none, used := 0 }
  let pl : Planes := { vals := [3, -1], nan := false, fmt := 10, block := 0, redir := [] }
  let o : Octet := { Octet.zero with queues := [(3, [{ readyJob with packet := packet }])], meCtx := [(3, c)], tiles := [(5, some tile)], planes := pl }
  let s := ({ State.reset with hart := .me 0 3 } : State).setOctet 0 o
  { s with takes := [(5, some ⟨16, 7, 0, 1, 16⟩)], mem := writeBytes [] (0x10000 + 20) [1, 0, 4, 0, 9, 0] }

/-- Channel 2 of copy unit 0 runs a packet; memory holds a queue with one packet at 0x20000 and a descriptor of 64 rows at 0x10000. -/
def cuRun (there : Bool) (l : List (Nat × Word)) : State :=
  let c : Ctx := { regs l with v := [(1, 9), (2, 0)] }
  let o : Octet := { Octet.zero with chans := [(2, some { readyRun with packet := 5 :: List.replicate 63 0, queue := 1, qaddr := 0x28000 })], cuCtx := [(2, c)] }
  let o := { o with wp := [(7, 4096)] }
  let s := ({ State.reset with hart := .cu 0 2 } : State).setOctet 0 o
  let m := writeBytes (writeBytes [] 0x20000 (words8 [if there then 1 else 0, 0, 0x30000, 4])) 0x10000 (words8 [0, 64, 0x14000, 64, 1])
  { s with mem := m }

/-- Tile words, banks, offsets and blocks within range and at their first value beyond (EngineArithmetic). -/
theorem witness_EngineArithmetic :
    let s := meState (4 :: List.replicate 63 0) [(1, 0x7FFF), (2, 0x8000), (3, 63), (4, 64), (5, 15), (6, 16), (7, 7936), (8, 8192), (9, 63), (10, 0x10F80), (11, 1)]
    (ready (.cimw (tf 0 (.s 1) (.v 1) .none)) s = true ∧ srcOf s (.s 1) = some 0x7FFF ∧ Claims.tileOk 0x7FFF ∧ srcOf s (.s 2) = some 0x8000
      ∧ ¬ Claims.tileOk 0x8000 ∧ ready (.cimr (tf 0 (.v 1) (.s 1) .none)) s = true)
    ∧ (ready (.bpl (tf 1 (.s 3) (.s 1) (.s 5))) s = true ∧ srcOf s (.s 3) = some 63 ∧ srcOf s (.s 5) = some 15 ∧ srcOf s (.s 4) = some 64
      ∧ srcOf s (.s 6) = some 16)
    ∧ (ready (.accrd (tf 0 (.v 1) (.s 3) (.imm 1))) s = true ∧ (vecOf s (.v 1)).isSome = true ∧ (fpOf s (.imm 1)).isSome = true
      ∧ ready (.accclr (tf 0 .none .none .none)) s = true ∧ ready (.accclr (tf 0 .none (.s 3) .none)) s = true ∧ Claims.fieldOf s .none = some 0)
    ∧ (ready (.rbld (tf 0 (.s 7) (.s 10) (.imm 0))) s = true ∧ srcOf s (.s 7) = some 7936 ∧ srcOf s (.s 8) = some 8192
      ∧ Claims.addrOf s (tf 0 (.s 7) (.s 10) (.imm 0)) = some 0x10F80)
    ∧ (ready (.planes (tf 10 (.s 12) (.s 9) .none)) s = true ∧ srcOf s (.s 9) = some 63 ∧ 8192 / (4 * fmtBits 10) = 64 ∧ srcOf s (.s 4) = some 64
      ∧ 1 ≤ fmtBits 10 ∧ 8192 / (4 * fmtBits 12) > 64)
    ∧ (ready (.dupf (tf 0 (.s 11) (.s 0) .none)) s = true ∧ srcOf s (.s 11) = some 1 ∧ srcOf s (.s 0) = some 0) := by
  simp only [Claims.tileOk]; decide +kernel

theorem roomy_dev {s : State} {pa n : Nat} : Claims.roomy s (.dev pa) n := by intro m off e; cases e

/-- A range over two pages, and a take (EngineArithmetic, EngineTransfers). -/
theorem witness_EngineRanges : ∃ bs, Claims.RangeFound (meState [] []) (Claims.parts 0x10F80 256) bs :=
  ⟨_, .dev 0x10F80, bootPage, _, _, by decide +kernel, roomy_dev, found_home (by decide +kernel) (by decide +kernel),
    ⟨.dev 0x11000, bootPage, _, _, by decide +kernel, roomy_dev, found_home (by decide +kernel) (by decide +kernel), rfl, rfl⟩, rfl⟩

/-- DELTA on a block of FP32 against line 2 of the take, and the take's own fields (EngineArithmetic). -/
theorem witness_EngineArithmetic_delta :
    let s := meState (4 :: 0 :: 0 :: 0 :: 7 :: 0 :: List.replicate 58 0) [(1, 2), (2, 0)]
    ready (.delta (tf 0 (.p 3) (.s 2) (.s 1))) s = true ∧ srcOf s (.s 1) = some 2 ∧ (s.headJob 0 3).isSome = true
    ∧ allowed s 0 .read anyPage = some (.dev 0, bootPage) ∧ Claims.Take s 7 5 ⟨16, 7, 0, 1, 16⟩ 9
    ∧ s.homeNat (s.takeLine 0 ⟨16, 7, 0, 1, 16⟩ 0 + 20) 2 = 1 ∧ s.homeNat (s.takeLine 0 ⟨16, 7, 0, 1, 16⟩ 0 + 26) 2 = 0
    ∧ ceilDiv (4 * 1 * 0) 256 + 1 ≤ 2 := by
  simp only [Claims.Take]; decide +kernel

/-- A take's lines, its end and no take; beats; CONV; WPSET; the ends of a job and of a packet; the next packet and none; and
SCATR (EngineTransfers). -/
theorem witness_EngineTransfers :
    let s := meState (1 :: List.replicate 55 0 ++ bytesOf 8 0x10200) [(1, 7), (2, 8), (3, 9), (4, 0x10200), (5, 6)]
    let c := cuRun true [(1, 0x10040), (2, 0x10041), (3, 7), (4, 8), (5, 4095), (6, 4096), (7, 0x10200), (8, 0x20000), (9, 0x10000)]
    (fieldsOf (.takew (tf 0 (.v 1) (.s 1) (.s 2))) = some (0x1E9, tf 0 (.v 1) (.s 1) (.s 2)) ∧ ready (.takew (tf 0 (.v 1) (.s 1) (.s 2))) s = true
      ∧ ready (.taker (tf 0 (.v 1) (.s 1) (.s 2))) s = true ∧ Claims.Take s 7 5 ⟨16, 7, 0, 1, 16⟩ 9 ∧ srcOf s (.s 2) = some 8 ∧ srcOf s (.s 3) = some 9
      ∧ s.takeKey (octetOf s.hart / 30) (s.tenOf s.hart) 6 = none ∧ s.homePoisoned (s.takeLine 0 ⟨16, 7, 0, 1, 16⟩ 8) 256 = false)
    ∧ (ready (.cmpl (tf 0 .none (.v 1) (.s 4))) s = true ∧ (s.headJob 0 3).map (fun j => (Claims.word j.packet 7, j.packet.head?)) = some (0x10200, some 1)
      ∧ allowed s 0x10200 .write anyPage = some (.dev 0x10200, bootPage) ∧ s.regionOf 0x10200 = .hbm)
    ∧ (ready (.beatrd (tf 3 (.v 1) (.s 1) (.imm 0))) c = true ∧ ready (.beatwr (tf 3 (.v 1) (.s 1) (.imm 0))) c = true
      ∧ Claims.addrOf c (tf 3 (.v 1) (.s 1) (.imm 0)) = some 0x10040 ∧ 0x10041 % 64 ≠ 0 ∧ Claims.parts 0x10040 256 = [(0x10040, 256)]
      ∧ allowed c 0x10040 .write anyPage = some (.dev 0x10040, bootPage))
    ∧ (ready (.conv (tf (8 * 16 + 10) (.v 2) (.v 1) (.imm 1))) c = true ∧ (vecOf c (.v 1)).isSome = true ∧ (fpOf c (.imm 1)).isSome = true ∧ 1 ≤ fmtBits 8)
    ∧ (ready (.wpset (tf 0 (.s 3) (.s 6) .none)) c = true ∧ srcOf c (.s 3) = some 7 ∧ srcOf c (.s 6) = some 4096 ∧ srcOf c (.s 5) = some 4095
      ∧ (c.octet 0).wp.get 0 7 = 4096 ∧ srcOf c (.s 4) = some 8)
    ∧ (ready (.cmpl (tf 0 .none (.v 1) (.s 7))) c = true ∧ ((c.octet 0).chans.get none 2).map (fun r => r.qaddr) = some 0x28000
      ∧ allowed c 0x10200 .write anyPage = some (.dev 0x10200, bootPage))
    ∧ (ready (.pktnext (tf 0 (.v 1) (.s 8) .none)) c = true ∧ srcOf c (.s 8) = some 0x20000 ∧ c.homeNat (0x20000 + 8) 4 ≠ c.homeNat 0x20000 4
      ∧ c.homeNat (0x20000 + 16) 8 = 0x30000 ∧ ofBytes ((c.homeBytes 0x30000 64).drop 4 |>.take 4) = 0 ∧ (cuRun false []).homeNat 0x20000 4 = 0)
    ∧ (ready (.scatr (tf 0 (.v 1) (.v 2) (.s 9))) c = true ∧ vecOf c (.v 2) = some 0 ∧ srcOf c (.s 9) = some 0x10000
      ∧ allowed c 0x10000 .read anyPage = some (.dev 0x10000, bootPage) ∧ (List.range 5).map (Claims.word (c.homeBytes 0x10000 64)) = [0, 64, 0x14000, 64, 1]
      ∧ allowed c 0x14000 .read anyPage = some (.dev 0x14000, bootPage)) := by
  simp only [Claims.Take]
  exact ⟨by decide +kernel, by decide +kernel, by decide +kernel, by decide +kernel, by decide +kernel, by decide +kernel, by decide +kernel, by decide +kernel⟩

/-- The bytes that BEATRD, PKTNEXT and SCATR find (EngineTransfers). -/
theorem witness_EngineTransfers_found :
    (∃ bs, Claims.RangeFound (cuRun true []) (Claims.parts 0x10040 256) bs) ∧ Claims.RangeFound (cuRun true []) (Claims.parts 0x30000 64)
      ((cuRun true []).homeBytes 0x30000 64)
    ∧ ∃ bs, Found (cuRun true []) (.dev 0x10000) bootPage 64 .home bs :=
  ⟨⟨_, .dev 0x10040, bootPage, _, _, by decide +kernel, roomy_dev, found_home (by decide +kernel) (by decide +kernel), rfl, rfl⟩,
    ⟨.dev 0x30000, bootPage, _, _, by decide +kernel, roomy_dev, found_home (by decide +kernel) (by decide +kernel), rfl, by simp⟩,
    _, found_home (by decide +kernel) (by decide +kernel)⟩

/-- What the engine instructions reject, ranges over two pages and the settled translations that they need (EngineArithmetic,
EngineTransfers). -/
theorem witness_EngineTransfers_edges :
    let s := meState (4 :: 0 :: 0 :: 0 :: 9 :: 0 :: List.replicate 58 0) [(1, 2), (2, 0), (3, 64), (4, 8191), (5, 0x10FC0), (6, 1)]
    let full := s.setOctet 0 { s.octet 0 with rowbuf := [(0, 33)] }
    let c := cuRun true [(1, 0x10FC0), (9, 0x10000)]
    (ready (.delta (tf 0 (.p 3) (.s 2) (.s 1))) s = true ∧ s.takeKey 0 16 9 = none ∧ (s.headJob 0 3).map (fun j => (parseJob j.packet).layer) = some 9)
    ∧ (ready (.dupf (tf 0 (.s 6) (.s 2) .none)) full = true ∧ (full.octet 0).rowbuf.get 0 0 = 33 ∧ srcOf s (.s 4) = some 8191 ∧ 8192 < 8191 + 66)
    ∧ (ready (.beatrd (tf 3 (.v 1) (.s 1) (.imm 0))) c = true ∧ Claims.addrOf c (tf 3 (.v 1) (.s 1) (.imm 0)) = some 0x10FC0
      ∧ ¬ 0x10FC0 % 4096 + 256 ≤ 4096)
    ∧ Claims.settled c ∧ (∃ bs, Claims.RangeFound c (Claims.parts 0x10FC0 256) bs)
    ∧ (c.octet 0).chans.get none 2 ≠ none ∧ c.hart = .cu 0 2 ∧ ((c.octet 0).chans.get none 2).map (fun r => r.abort) = some false
    ∧ (∀ e ∈ pageParts 0x14000 (64 / 4096 + 2) 64, ∃ l p, allowed c e.1 .read anyPage = some (l, p) ∧ Claims.roomy c l e.2) := by
  refine ⟨by decide +kernel, by decide +kernel, by decide +kernel, settled_boot (by decide +kernel), ?_, by decide +kernel, rfl, by decide +kernel, ?_⟩
  · exact ⟨_, .dev 0x10FC0, bootPage, _, _, by decide +kernel, roomy_dev, found_home (by decide +kernel) (by decide +kernel),
      ⟨.dev 0x11000, bootPage, _, _, by decide +kernel, roomy_dev, found_home (by decide +kernel) (by decide +kernel), rfl, rfl⟩, rfl⟩
  · intro e he
    have h : e = (0x14000, 64) := by
      have h2 : pageParts 0x14000 (64 / 4096 + 2) 64 = [(0x14000, 64)] := by decide +kernel
      simpa [h2] using he
    subst h
    exact ⟨.dev 0x14000, bootPage, by decide +kernel, roomy_dev⟩

/-! ### Events of cores and of the network -/

/-- The thread in a run state with what it waits for. -/
def waitIn (r : RunState) (obj cnt : Word) : State := onCore { regs [] with run := r, waitObj := obj, waitCnt := cnt, tvec := 0x2000 }

/-- Page-fault records of a stalled thread; pending symbols of each kind; each end of a wait (AnswersAndArrivals). -/
theorem witness_AnswersAndArrivals_waits :
    let s := waitIn .running 0 0
    let s : State := { s.setThread 0 0 { s.thread 0 0 with stall := true } with faults := [(0, [⟨0x5000, 16, .read, .hart (.core 0 0)⟩])] }
    let y (src : Source) : Sym := ⟨16, 0, false, .pending, src⟩
    let c := onCore { regs [] with late := [(5, some ⟨3, 2, 1, [], false⟩)], run := .waitLate }
    let c : State := { c with syms := [(3, some (y (.load 9 .raw 0))), (4, some (y (.load 0 .raw 7))), (5, some (y (.service 0 1))), (6, some (y (.device 2)))] }
    let w := waitIn .waitAcq 0x8000 1
    let w : State := { w with peerStores := [(0, 0x8000)] }
    ((s.faults.get [] 0)[0]? = some ⟨0x5000, 16, .read, .hart (.core 0 0)⟩ ∧ (s.faults.get [] 0)[1]? = none ∧ 0x7000 % 8 = 0
      ∧ (s.core 0).tenant = 16 ∧ (s.thread 0 0).stall = true ∧ (s.thread 0 0).ctx.tvec ≠ 0 ∧ ∀ n < 16, (s.sessWord n 2).testBit 0 = false)
    ∧ (c.sym 0 3 = some (y (.load 9 .raw 0)) ∧ c.sym 0 7 = none ∧ (c.core 0).halted = false ∧ (c.ctxOf (.core 0 0)).late = [(5, some ⟨3, 2, 1, [], false⟩)]
      ∧ ((c.setCore 0 { c.core 0 with halted := true }).core 0).halted = true)
    ∧ (c.sym 0 4 = some (y (.load 0 .raw 7)) ∧ c.sym 0 5 = some (y (.service 0 1)) ∧ c.sym 0 6 = some (y (.device 2)))
    ∧ ((waitIn .waitJob 0 0).thread 0 0).ctx.run = .waitJob ∧ ((waitIn .waitTime 0 0).thread 0 0).ctx.waitObj.toNat ≤ (waitIn .waitTime 0 0).timeNow
    ∧ ((waitIn .waitTime 0 1).thread 0 0).ctx.waitObj ≠ BitVec.allOnes 64 ∧ ¬ (((waitIn .waitTime 1 1).thread 0 0).ctx.waitObj.toNat ≤ (waitIn .waitTime 1 1).timeNow)
    ∧ ((w.thread 0 0).ctx.run = .waitAcq ∧ (w.thread 0 0).ctx.waitObj.toNat = 0x8000 ∧ (0, 0x8000) ∈ w.peerStores) := by decide +kernel

/-- A packet for tag g of core 0, with the core's channel 2, breakpoints on every activation where `stop` holds, and a PC comparator at 0x1000. -/
def arriveState (g : Tag) (stop : Bool) : State :=
  let s : State := { st [] with net := [⟨16, 3, 1, 0, 9, false, [1, 2], none, false, 0⟩], tags := [(tcKey 16 0 * 64 + 9, g)] }
  let s : State := { s with chans := [(tcKey 16 0 * 64 + 2, ⟨true, 16, 3, 6, 0x1000, 2 ^ 32 - 1, 2 ^ 32 - 8, 0⟩)] }
  { s with ctl := (if stop then [(0x102004, 2 ^ 63)] else []) ++ (if stop then [] else [(0x102000, 2 ^ 63 + 0x1000)]) }

/-- An invalid tag, an activation with a free thread, with none and with a breakpoint, a deposit, and a PC comparator (AnswersAndArrivals). -/
theorem witness_AnswersAndArrivals_packets :
    let pk : Packet := ⟨16, 3, 1, 0, 9, false, [1, 2], none, false, 0⟩
    let act : Tag := ⟨true, false, 1, 2, true, 0x2000⟩
    let dep : Tag := ⟨true, true, 0, 0, false, 2⟩
    let s := arriveState act false
    let d := arriveState dep false
    let busy := (List.range 16).foldl (fun s k => s.setThread 0 k { s.thread 0 k with ctx := regs [] }) s
    (Claims.arrives s 0 0 pk ∧ Claims.arrives (arriveState Tag.zero false) 0 0 pk ∧ s.net[1]? = none)
    ∧ ((s.tag 0 9).v = true ∧ (s.tag 0 9).deposit = false ∧ s.breakPacket 0 pk = false ∧ s.canTake 0 1 = true ∧ s.canTake 0 0 = false
      ∧ ((arriveState Tag.zero false).tag 0 9).v = false ∧ (arriveState act true).breakPacket 0 pk = true ∧ ∀ k < 16, busy.canTake 0 k = false)
    ∧ ((d.tag 0 9).deposit = true ∧ d.msgsOf 0 = [] ∧ d.dequeOf 0 = [] ∧ d.spillOf 0 = [] ∧ (d.chan 0 2).v = true ∧ pk.payload.length ≤ 2 ^ (d.chan 0 2).lsz
      ∧ ((d.chan 0 2).wp - (d.chan 0 2).rp).toNat < 2 ^ (d.chan 0 2).lcnt ∧ d.claimsOf 0 2 = [])
    ∧ (s.canIssue (.core 0 0) = true ∧ (s.thread 0 0).skip = false ∧ s.pcMatch 0 (s.thread 0 0).ctx.pc.toNat = true
      ∧ (arriveState act true).pcMatch 0 0x1000 = false) := by
  simp only [Claims.arrives]; decide +kernel

/-- Core 2 holds one record. -/
def at2 (r : Record) : State := { State.reset with deques := [(tcKey 16 2, [r])] }
/-- A range of two chunks, and a record for its own octet only. -/
def aRange : Record := ⟨0x1000, 1, 0, 0, 2, 1, 0, 4, false, true, 0, 2, none, 0⟩
def aNear : Record := ⟨0x1000, 1, 0, 0, 0, 0, 0, 1, false, false, 0, 2, none, 0⟩
/-- Core 1, whose tenant's launch stays in an octet, has asked every core of it. -/
def walked : State :=
  let s := State.reset.setCore 1 { Core.zero with tenant := 0, walk := ⟨List.range 8, 0⟩ }
  { s with launches := [(0, some { aLaunch 0 with ten := 0, dom := 1, mask := 2 ^ 120 - 1 })] }
/-- Core 0 has counted 64 deposits. -/
def booted : State := ({ State.reset with sysRegs := [(0x311, 4), (0x314, 0x9000)] } : State).setCore 0 { Core.zero with bootCount := 64 }

/-- Core 1 steals from core 2, which holds a record, a range of two chunks, or nothing for it (StealsAndEvictions). -/
theorem witness_StealsAndEvictions_steals :
    let r := aRecord 0x1000
    let s := at2 r
    (s.steals 1 = true ∧ s.nextVictim 1 = some 2 ∧ s.topRecord 2 = some r ∧ domContains r.dom 2 1 = true ∧ r.fault = none ∧ s.msgsOf 1 = [] ∧ s.spillOf 2 = []
      ∧ s.canTake 1 0 = true ∧ (s.core 2).tenant = (s.core 1).tenant ∧ (s.core 2).halted = false ∧ (s.core 2).failed = false
      ∧ ∀ n < 16, (s.sessWord n 2).testBit 0 = false)
    ∧ ((at2 aRange).topRecord 2 = some aRange ∧ aRange.lo.toNat + aRange.grain.toNat < aRange.hi.toNat ∧ aRange.fault = none)
    ∧ (State.reset.topRecord 2 = none ∧ (at2 aNear).topRecord 240 = none ∧ aNear.dom = 1 ∧ domContains 1 2 1 = true ∧ domContains 1 8 1 = false) := by
  intro r s
  exact ⟨by decide +kernel, by decide +kernel, by decide +kernel⟩

/-- The end of the walk, and the boot count (StealsAndEvictions). -/
theorem witness_StealsAndEvictions_counts : (walked.steals 1 = true ∧ walked.nextVictim 1 = none)
    ∧ booted.mapped = true ∧ 64 ≤ (booted.core 0).bootCount ∧ (booted.core 0).bootAdded = false :=
  ⟨by decide +kernel, by decide +kernel⟩

/-- A dirty line; a page that may move, one that is pinned; a tenant's register line; an unassigned word (StealsAndEvictions). -/
theorem witness_StealsAndEvictions_lines :
    let s := lateState 0 false true
    let p : State := { s with pins := [(tcKey 16 0 * 64 + 63, 1)] }
    let u := onCore trapRegs
    (∃ i < 32, (s.l1.get none (l1Key 0 (0x100 * 32 + i))).isSome = true) ∧ (∀ i < 32, s.l1.get none (l1Key 0 (0x101 * 32 + i)) = none)
    ∧ (s.pins.get 0 (tcKey 16 1023 * 64 + 63) = 0 ∧ (pagesOn s.pins 1023 (fun n => n != 0)).length < 64 ∧ p.pins.get 0 (tcKey 16 0 * 64 + 63) ≠ 0)
    ∧ (((ten (regs [])).core 0).tenant < 16 ∧ ¬ ((s.core 0).tenant < 16))
    ∧ (u.hart = .core 0 0 ∧ (u.thread 0 0).ctx.tvec ≠ 0) := by
  refine ⟨⟨1, by decide +kernel⟩, by decide +kernel⟩

/-- Values of a job, of a device and of a load that fails; each wait that may end; a late value that is not held, and a failed core
(AnswersAndArrivals). -/
theorem witness_AnswersAndArrivals_values :
    let y (src : Source) : Sym := ⟨16, 0, false, .pending, src⟩
    let c := onCore { regs [] with late := [(5, some ⟨3, 2, 1, [], false⟩), (6, some ⟨4, 1, 0, [], false⟩)], run := .waitLate }
    let c : State := { c with syms := [(3, some (y (.job 4))), (4, some (y (.device 2))), (5, some (y (.load 0 .raw 7)))] }
    let c := c.setCore 0 { c.core 0 with jobs := [⟨4, 2, 0⟩], failed := true }
    c.sym 0 3 = some (y (.job 4)) ∧ 2 ≤ (c.jobState 0 4).1 ∧ c.sym 0 4 = some (y (.device 2)) ∧ c.sym 0 5 = some (y (.load 0 .raw 7))
    ∧ (c.core 0).failed = true ∧ (c.ctxOf (.core 0 0)).symRefs.contains 6 = false
    ∧ ((waitIn .waitLate 256 0).thread 0 0).ctx.run = .waitLate ∧ 256 ≤ ((waitIn .waitLate 256 0).thread 0 0).ctx.waitObj.toNat
    ∧ (c.thread 0 0).ctx.run = .waitLate ∧ ¬ (256 ≤ (c.thread 0 0).ctx.waitObj.toNat)
    ∧ (let s := waitIn .waitTime 5 1
       (s.setThread 0 0 { s.thread 0 0 with ctx := { (s.thread 0 0).ctx with wake := true } }).ctxOf (.core 0 0)).wake = true := by decide +kernel

/-- Handlers; a full channel, also of the boot context's channel 0; a thief that may ask, and a deque that is held; a take's line, and a
register line of a tenant that was pre-empted (AnswersAndArrivals, StealsAndEvictions). -/
theorem witness_StealsAndEvictions_stops :
    let pk : Packet := ⟨16, 3, 1, 0, 9, false, [1, 2], none, false, 0⟩
    let full (e : Word) (ch : Nat) : State := { arriveState ⟨true, true, 0, 0, false, e⟩ false with chans := [(tcKey 16 0 * 64 + ch, ⟨true, 16, 3, 6, 0x1000, 8, 0, 0⟩)] }
    let s := at2 (aRecord 0x1000)
    let held : State := { s with faults := [(0, [⟨0x5000, 16, .atomic, .pop 2 1⟩])] }
    let t := ten (regs [])
    let part : State := { t with mem := writeBytes (writeBytes t.mem 0x40040 (bytesOf 8 0x48000)) 0x48000 (words8 [0x200000, 0, 0, 0, 0x10000]) }
    let out := (t.setCore 0 { t.core 0 with tenant := 16 })
    (Claims.arrives (full 2 2) 0 0 pk ∧ 2 ^ ((full 2 2).chan 0 2).lcnt ≤ (((full 2 2).chan 0 2).wp - ((full 2 2).chan 0 2).rp).toNat
      ∧ ((full 0 0).tag 0 9).target = 0 ∧ ((full 0 0).chan 0 0).v = true)
    ∧ (Claims.asks s 1 2 ∧ held.nextVictim 1 = some 2 ∧ held.dequeHeld (held.core 2).tenant 2 = true)
    ∧ (part.takeHeld 0x2000 = true ∧ part.takeHeld 0x1000 = false)
    ∧ ((out.core 0).tenant = 16 ∧ (out.tenants.get none 0).isSome = true ∧ (out.threadOf 0 0 0).ctx.run ≠ .free ∧ (out.threadOf 0 0 0).saved = false)
    ∧ Claims.hasHandler (onCore trapRegs |>.thread 0 0).ctx := by
  simp only [Claims.arrives, Claims.asks, Claims.hasHandler, Claims.wellFormedPc]; decide +kernel

/-! ### Steps of engines and copy units -/

/-- Engine 0, whose enabled table at 0x40000 names an entry for kind 1 alone, has one job with a packet in queue 3. -/
def startState (packet : List Byte) (ramp : Ramp) (failed : Bool) : State :=
  let job : Job := { readyJob with packet := packet, running := false, micro := false }
  let s := State.reset.setOctet 0 { Octet.zero with queues := [(3, [job])], ramp := ramp, meFailed := failed }
  { s with ctl := [(0xC0000, 2 ^ 63 + 0x40000)], mem := writeBytes [] 0x40008 (words8 [0x2000]) }

/-- An MEDL of tenant 0 that waits for its lookup, with a take that it fits. -/
def medlState (failed : Bool) : State :=
  let s := ten (regs [])
  let packet : List Byte := [4, 0, 10, 0, 7, 0, 0, 0] ++ words8 [0x1000000, 9, 0x0000000100010001, 0, 0x1005000, 0, 0]
  let job : Job := { readyJob with packet := packet, ten := 0, waitTake := true }
  let s := s.setOctet 0 { Octet.zero with queues := [(3, [job])], meFailed := failed }
  let s := s.setNode 0 9 ⟨1, 0, 0, 1, 0, 0, 0, 1, 1, 1, 1, 0⟩
  let m := writeBytes (writeBytes s.mem 0x15000 (words8 [0x3F800000])) 0x20000 (words8 [2 ^ 63 + 9, 0, 0x0000000100010001, 0] ++ List.replicate 224 0 ++ words8 [0x3F800000])
  let s : State := { s with mem := m, takes := [(5, some ⟨0, 7, 0, 1, 32⟩)] }
  { s with tlb := s.tlb ++ [(tlbKey 960 0 0x1000000 0, some ⟨0x01000203, 0⟩), (tlbKey 960 0 0x1005000 0, some ⟨0x01500003, 0⟩)] }

/-- A lineage job of copy unit 0, and the thread that waits for it. -/
def lnState (failed on : Bool) : State :=
  let s := lin { linRegs with run := .waitJob, waitCnt := 6 }
  let s := s.setOctet 0 { Octet.zero with cuFailed := failed }
  { s with lnJobs := [⟨2, 0, 0, 4, 2, 0, 0, 0, 5, [4, 2], [], none⟩], ctl := if on then [(0xC0001, 2 ^ 63)] else [] }

/-- Jobs that start by microcode, without an entry, on a failed engine, and an MEDL; the three ramp steps; a lookup that finds its
take and one on a failed engine; lineage jobs with and without a thread that waits (EngineStepsAndAttention). -/
theorem witness_EngineStepsAndAttention :
    let m := 1 :: List.replicate 63 (0 : Byte)
    let none' : Ramp := ⟨0, 0, false, false, false⟩
    let s := startState m none' false
    let medl := [4, 0, 10, 0, 7, 0, 0, 0] ++ words8 [0x1000000, 9, 0x0000000100010001, 0, 0x1005000, 0, 0]
    ((s.mectl 0).testBit 63 = true ∧ (s.octet 0).halted = false ∧ s.nextQueue 0 = some 3 ∧ (s.headJob 0 3).isSome = true
      ∧ s.homeNat (bitsOf (s.mectl 0) 51 6 * 64 + 8 * 1) 8 = 0x2000 ∧ s.homeNat (bitsOf (s.mectl 0) 51 6 * 64 + 8 * 2) 8 = 0 ∧ fieldAt m 56 8 = 0
      ∧ jobOk m = false ∧ jobOk medl = true ∧ (State.reset.mectl 0).testBit 63 = false)
    ∧ ((startState m ⟨0, 0, true, false, false⟩ false).octet 0).busy = false ∧ ((startState m ⟨0, 5, false, true, false⟩ false).octet 0).ramp.start ≤ (startState m none' true).time
    ∧ ((startState m ⟨0, 0, true, true, false⟩ false).octet 0).ramp.stop ≤ 0
    ∧ ((medlState false).lookupQueue 0 = some 3 ∧ ((medlState false).headJob 0 3).isSome = true ∧ State.reset.lookupQueue 0 = none
      ∧ ((medlState true).octet 0).meFailed = true ∧ (medlState true).lookupQueue 0 = some 3)
    ∧ (match runAs (medlState false) (.me 0 3) (medlRead (parseJob medl)) with
        | .ok (x, u) => (u.takeDecide 0 (parseJob medl) 0 x).2.isSome
        | _ => false) = true
    ∧ ((lnState false true).lnJobs.filter (fun j => j.ended.isNone)).length = 1 ∧ ((lnState false true).cuctl 0).testBit 63 = true
    ∧ ((lnState false false).cuctl 0).testBit 63 = false ∧ ((lnState true false).octet 0).cuFailed = true
    ∧ ((lnState false true).threads.get Thread.zero (thKey 0 0 0)).ctx.run = .waitJob := by
  intro m none' s medl
  refine ⟨?_, ?_, ?_, ?_, ?_, ?_, ?_⟩ <;> decide +kernel

/-- A request of one token of head dimension 1 in a KV page of tenant 0, with partials. -/
def attnState (fmt : Word) (parts : List Triple) : State :=
  let s := ten (regs [])
  let s : State := { s with tlb := s.tlb ++ [(tlbKey 0 0 0x1008000 0, some ⟨0x01800003 + 64 * fmt, 0⟩)], mem := writeBytes s.mem 0x18000 (words8 [1]) }
  { s with attns := [⟨0, 0, 0x400, 0, 3, 0, 0, 1, 1, [(0, 0x1008000)], parts, Triple.empty⟩] }

/-- A page that holds a partial, one of another format and one that is not mapped; two partials without a cause; a partial that
ends its request, with and without a cause, and one that does not (EngineStepsAndAttention). -/
theorem witness_EngineStepsAndAttention_partials :
    let p : Triple := ⟨[0x3F800000], 0, 0x3F800000, 1, 0⟩
    let s := attnState 13 [p, p, ⟨[], 0, 0, 1, 7⟩, ⟨[], 0, 0, 0, 0⟩]
    (s.attns[0]?.isSome = true ∧ s.attns[1]? = none ∧ s.recording 0 = false ∧ ((s.attns.getD 0 ⟨0, 0, 0, 0, 0, 0, 0, 0, 0, [], [], p⟩).pages)[0]? = some (0, 0x1008000)
      ∧ ((s.locate (.core 0 0) 0 0x1008000).2.map (fun e => (e.1, e.2.fmt, e.2.s == s.frameWorld 0x18000))) = some (.dev 0x18000, 13, true)
      ∧ ((attnState 8 []).locate (.core 0 0) 0 0x1008000).2.map (fun e => e.2.fmt) = some 8 ∧ (s.locate (.core 0 0) 0 0x9008000).2 = none)
    ∧ (match s.kvPartial ⟨0, 0, 0x400, 0, 3, 0, 0, 1, 1, [], [], p⟩ 0 0x18000 with | .ok r => r.cnt == 1 && r.cause == 0 | _ => false) = true
    ∧ ((s.attns.map (fun x => x.hi - x.lo)) = [1]) := by
  intro p s
  refine ⟨?_, ?_, ?_⟩ <;> decide +kernel

/-- A packet of channel 2 of copy unit 0 with no microcode, in the boot context or tenant 0, with a descriptor and a row. -/
def copyState (packet : List Byte) (tenant : Nat) (rows : List (Nat × Nat)) : State :=
  let s := ten (regs [])
  let s := s.setOctet 0 { Octet.zero with chans := [(2, some { readyRun with micro := false, packet := packet, ten := tenant, qaddr := 0x28000, rows := rows })] }
  let m := writeBytes (writeBytes s.mem 0x10000 (words8 [0x14000, 1, 0x15000, 64, 1, 0x16000])) 0x11000 (words8 [0x14000, 4, 0, 0])
  { s with mem := m, tlb := s.tlb ++ [(tlbKey 960 0 0x1006000 0, some ⟨0x01600283, 0⟩)] }

def copyP (op b2 : Nat) (rest : List Nat) : List Byte := bytesOf 2 op ++ bytesOf 6 b2 ++ words8 rest

def copyPkt : List Byte := copyP 1 0 [0x14000, 0x16000, 0x0002000800020008, 0x0000001000000010, 0, 0, 0]
def fillPkt : List Byte := copyP 2 0 [0, 0x1006000, 0x0002000800000000, 0x0000002000000000, 0x3F800000 * 2 ^ 32, 0, 0]
def relocPkt : List Byte := copyP 5 0 [0x14000, 0x18000, 0x0000000000020080, 0, 0, 0, 0]

/-- Rows of a copy and of a fill that are not the last, and a part of a relocation (CopyUnitSteps). -/
theorem witness_CopyUnitSteps_moves :
    let c := copyState copyPkt 16 []
    let f := copyState fillPkt 0 []
    let l := copyState relocPkt 16 []
    ((c.cuReady 0 2 1).map (fun r => (r.packet == copyPkt, r.next)) = some (true, 0) ∧ c.transoms = [] ∧ c.cuReady 0 2 2 = none
      ∧ Claims.cuAt c 0 2 0x14000 1 .read anyPage 0x14000 bootPage ∧ Claims.cuAt c 0 2 0x16000 1 .write anyPage 0x16000 bootPage
      ∧ Claims.cuAt c 0 2 0x14000 8 .read anyPage 0x14000 bootPage ∧ Claims.cuAt c 0 2 0x16000 8 .write anyPage 0x16000 bootPage
      ∧ c.homePoisoned 0x14000 8 = false ∧ (parseCopy copyPkt).cols = 8 ∧ (parseCopy copyPkt).dcols = 8 ∧ (parseCopy copyPkt).rows = 2
      ∧ (parseCopy copyPkt).drows = 2 ∧ (parseCopy copyPkt).trans = false ∧ (parseCopy copyPkt).wp = false)
    ∧ ((f.cuReady 0 2 2).isSome = true ∧ (f.ctxOf (.cu 0 2)).rm = 0 ∧ isNaN (decodeF fp32 0x3F800000) = false
      ∧ Claims.cuAt f 0 2 0x1006000 (4 * 8) .write anyPage 0x16000 { fmt := 10, geom := 0, w := true, x := false, nc := false, s := false, home := 0 }
      ∧ (parseCopy fillPkt).fillv = 0x3F800000 ∧ (parseCopy fillPkt).dcols = 8 ∧ (parseCopy fillPkt).drows = 2 ∧ (parseCopy fillPkt).rnd = 0
      ∧ (parseCopy fillPkt).dst % 4 = 0 ∧ (parseCopy fillPkt).dstr % 4 = 0)
    ∧ ((l.cuReady 0 2 5).isSome = true ∧ 0 + 128 < (parseCopy relocPkt).rows * (parseCopy relocPkt).cols
      ∧ Claims.cuAt l 0 2 0x14000 128 .read anyPage 0x14000 bootPage ∧ Claims.cuAt l 0 2 0x18000 128 .write anyPage 0x18000 bootPage) := by
  intro c f l
  simp only [Claims.cuAt, Claims.memoryAt]
  refine ⟨?_, ?_, ?_⟩ <;> decide +kernel

/-- A gather and its row, a collective without its group and a barrier in one (CopyUnitSteps). -/
theorem witness_CopyUnitSteps_groups :
    let g := copyState (copyP 3 0 [0x10000, 0, 0, 0, 0, 0, 0]) 16 []
    let r := copyState (copyP 3 0 [0x10000, 0, 0, 0, 0, 0, 0] ++ words8 [0x14000, 2, 0x15000, 64, 1, 0x16000, 0, 0]) 16 [(0, 0x15000), (1, 0x15040)]
    let k := copyState (copyP 4 4 [0x11000, 0, 0, 0, 0, 0, 0]) 16 []
    ((g.cuReady 0 2 3).map (fun r => r.packet.length) = some 64 ∧ Claims.cuAt g 0 2 0x10000 64 .read anyPage 0x10000 bootPage
      ∧ (let d := parseGather (g.homeBytes 0x10000 64); d.count = 1 ∧ d.row = 64 ∧ d.list % 4 = 0 ∧ d.dst % 8 = 0 ∧ d.base % 8 = 0))
    ∧ (((r.octet 0).chans.get none 2).map (fun x => (x.rows, x.done, x.packet.length)) = some ([(0, 0x15000), (1, 0x15040)], false, 128)
      ∧ r.stalled (.cu 0 2) = false ∧ (r.octet 0).chans.get none 3 = none
      ∧ Claims.cuAt r 0 2 0x15000 64 .read anyPage 0x15000 bootPage ∧ Claims.cuAt r 0 2 0x16000 64 .write anyPage 0x16000 bootPage)
    ∧ ((k.cuReady 0 2 4).isSome = true ∧ Claims.cuAt k 0 2 0x11000 64 .read anyPage 0x11000 bootPage ∧ fieldAt (copyP 4 4 []) 2 1 = 4
      ∧ fieldAt (k.homeBytes 0x11000 64) 16 8 = 0 ∧ fieldAt (k.homeBytes 0x11000 64) 0 8 % 4 = 0 ∧ k.collGroup 0 16 = none
      ∧ ({ k with ctl := [(0x20000, 0x0000011000010000)] } : State).collGroup 0 16 = some (1, 0)) := by
  intro g r k
  simp only [Claims.cuAt, Claims.memoryAt]
  refine ⟨?_, ?_, ?_⟩ <;> decide +kernel

/-- A queue of tenant 0 whose packet channel 2 may take, and a growth that has moved its slab (CopyUnitSteps). -/
theorem witness_CopyUnitSteps_queues :
    let s := ten (regs [])
    let m := writeBytes (writeBytes s.mem 0x20000 (words8 [1, 0, 0x1005000, 0x204])) 0x15000 copyPkt
    let t : State := { s with mem := writeBytes m 0x48008 (words8 [0x2000]), ctl := [(0xC0001, 2 ^ 63 + 0x48000), (0xC0008, 2 ^ 63 + 0x20000)] }
    let u : State := { t with tlb := t.tlb ++ [(tlbKey 960 0 0x1005000 0, some ⟨0x01500003, 0⟩)] }
    let x : State := { kv kvRegs with transoms := [⟨0, 4, 0x8000, 0x10000, 2 ^ 13, 0, 3, 0⟩] }
    ((u.cuctl 0).testBit 63 = true ∧ (u.octet 0).halted = false ∧ u.homeNat (0x20000 + 25) 1 % 8 = 2 ∧ (u.octet 0).chans.get none 2 = none
      ∧ u.stalled (.cu 0 2) = false ∧ Claims.cuAt (u.setRun 0 2 (newRun [] 0 0x20000 0 0 true)) 0 2 0x1005000 64 .read anyPage 0x15000 rawPg
      ∧ u.homePoisoned 0x15000 64 = false ∧ u.homeNat (0x20000 + 8) 4 ≠ u.homeNat 0x20000 4 ∧ fieldAt (u.homeBytes 0x15000 64) 4 4 = 0
      ∧ fieldAt (u.homeBytes 0x15000 64) 0 1 = 1 ∧ u.homeNat 0x48008 8 = 0x2000 ∧ (u.octet 0).cuFailed = false)
    ∧ ((x.transoms.find? (fun p => p.die == 0 && p.pair == 3)).isSome = true ∧ x.transoms.find? (fun p => p.die == 0 && p.pair == 4) = none
      ∧ (x.seqEntry 0 4).lsize = 13 ∧ (x.relocRun ⟨0, 4, 0x8000, 0x10000, 2 ^ 13, 0, 3, 0⟩).isNone = true) := by
  intro s m t u x
  simp only [Claims.cuAt, Claims.memoryAt]
  refine ⟨?_, ?_⟩ <;> decide +kernel

/-- An engine in an octet with a legal job at the head of queue 3: MELOAD or MEDL, with an entry for its kind. -/
def legalState (packet : List Byte) : State :=
  let s := medlState false
  let s := s.setOctet 0 { s.octet 0 with queues := [(3, [{ readyJob with packet := packet, ten := 0, running := false, micro := false }])] }
  { s with ctl := [(0xC0000, 2 ^ 63 + 0x48000)], mem := writeBytes s.mem 0x48008 (words8 [0x2000, 0, 0, 0x2000]) }

/-- Jobs that start: by microcode, by tile steps, and an MEDL; and a lookup that finds its take, and one that replaces an entry
(EngineStepsAndAttention). -/
theorem witness_EngineStepsAndAttention_starts :
    let load : List Byte := [1, 0, 0, 0, 0, 0, 0, 0] ++ words8 [0, 9, 0x0000000100010000, 0, 0, 0, 0]
    let medl : List Byte := [4, 0, 10, 0, 7, 0, 0, 0] ++ words8 [0x1000000, 9, 0x0000000100010001, 0, 0x1005000, 0, 0]
    let s := legalState load
    let d := legalState medl
    let bare : State := { medlState false with takes := [] }
    let two := fun (s : State) (p : List Byte) (g : Nat → State → Bool) => match runAs s (.me 0 3) (medlRead (parseJob p)) with
      | .ok (x, u) => (match u.takeDecide 0 (parseJob p) 0 x with | (v, none) => g x.kb v | _ => false)
      | _ => false
    (s.nextQueue 0 = some 3 ∧ jobOk load = true ∧ jobOk medl = true ∧ (s.mectl 0).testBit 63 = true ∧ (d.mectl 0).testBit 63 = true
      ∧ d.homeNat (bitsOf (d.mectl 0) 51 6 * 64 + 8 * 4) 8 = 0x2000)
    ∧ (match runAs (s.setJobRec 0 0 1 0) (.me 0 3) (checkShape (parseJob load)) with | .ok _ => true | _ => false) = true
    ∧ (match runAs (s.setJobRec 0 0 1 0) (.me 0 3) (startProg load) with | .ok _ => true | _ => false) = true
    ∧ (match runAs (d.setJobRec 0 0 1 0) (.me 0 3) (checkShape (parseJob medl)) with | .ok _ => true | _ => false) = true
    ∧ two bare medl (fun kb v => match v.takeReplace 0 0 7 (takeLines 1 kb 1).2.2 with | (w, some k) => (w.takes.get none k).isSome | _ => true) = true := by
  intro load medl s d bare two
  refine ⟨?_, ?_, ?_, ?_, ?_⟩ <;> decide +kernel

/-- The translations of a copy unit's hart are settled, and those of its steps that may meet them (CopyUnitSteps). -/
theorem witness_CopyUnitSteps_settled :
    Claims.settled { copyState fillPkt 0 [] with hart := .cu 0 2 } ∧ Claims.settled { copyState copyPkt 16 [] with hart := .cu 0 2 } :=
  ⟨settled_tlb (by decide +kernel) (by decide +kernel) (Or.inr rfl), settled_tlb (by decide +kernel) (by decide +kernel) (Or.inr rfl)⟩

/-- A record's place, a barrier's group, and a slab that moves (CopyUnitSteps). -/
theorem witness_CopyUnitSteps_records :
    let k := copyState (copyP 4 4 [0x11000, 0, 0, 0, 0, 0, 0]) 16 []
    let k : State := { k with ctl := [(0x20000, 0x0000011000010000)], mem := writeBytes k.mem 0x28018 (words8 [4, 0x1C000]) }
    (∃ r, (k.octet 0).chans.get none 2 = some r ∧ Claims.packetRecordAt k 0 2 r)
    ∧ (k.collGroup 0 16 = some (1, 0) ∧ fieldAt (copyP 4 4 []) 2 1 = 4) := by
  refine ⟨⟨_, by rfl, ?_⟩, by decide +kernel⟩
  refine ⟨by decide +kernel, 0x1C000, bootPage, ?_⟩
  simp only [Claims.cuAt, Claims.memoryAt]; decide +kernel

/-! ### Steps of the command processors -/

/-- A command queue of cluster 0 for tenant 0, whose grant is octet 0, at 0x20000 with its ring at 0x30000 and its records at 0x31000;
the packet at RI, and the step that the queue is in. -/
def cmdState (bs : List Byte) (sys : Bool) (step : Nat) : State :=
  let s := ten (regs [])
  let m := writeBytes (writeBytes s.mem 0x20000 (words8 [1, 0, 0, 0x30000, 0x31000, 4 + (if sys then 2 ^ 16 else 0)])) 0x30000 bs
  let d := words8 [0x1000, 0, 2, 1] ++ [4, 0, 0, 2] ++ bytesOf 4 0 ++ words8 [7, 0, 0x1040, 0x1005400, 0x1005400, 0, 0, 1, 0, 0, 0]
  let m := writeBytes (writeBytes m 0x15000 d) 0x15410 (words8 [0x1005800])
  let s : State := { s with mem := m, tenants := [(0, some ⟨0x40000, 1⟩)], queues := [(0, [⟨0x20000, 1, step, bs, 0, 0, 0⟩])] }
  { s with tlb := s.tlb ++ [(tlbKey 960 0 0x1002000 0, some ⟨0x01200001, 0⟩), (tlbKey 960 0 0x1005000 0, some ⟨0x01500003, 0⟩)] }

def launchPkt (va : Nat) : List Byte := words8 [1, va, 0, 0, 0, 0, 0, 0]
def sigPkt : List Byte := words8 [2, 0x1005600, 9, 0x50003, 0, 0, 0, 0]
def waitPkt (v : Nat) : List Byte := words8 [3, 0x1005600, v, 0, 0, 0, 0, 0]
def resetPkt : List Byte := words8 [5, 7, 0, 0, 0, 0, 0, 0]

/-- The addresses of a command: the word at 0x1005600, for a write, and the launch descriptor (CommandProcessorSteps). -/
theorem witness_cpAt : Claims.cpAt (cmdState sigPkt false 0) 0 0 0x1005600 8 8 true 0x15600 ∧ Claims.cpAt (cmdState (launchPkt 0x1005000) false 0) 0 0 0x1005000 128 128 false 0x15000
    ∧ Claims.cpAt (cmdState (launchPkt 0x1005000) false 0) 0 0 0x1005400 64 64 true 0x15400
    ∧ Claims.cpAt (cmdState (launchPkt 0x1005000) false 0) 0 0 0x1005800 64 0 true 0x15800 :=
  ⟨⟨by decide, by decide, ⟨rawPg, by decide +kernel⟩, by decide +kernel⟩, ⟨by decide, by decide, ⟨rawPg, by decide +kernel⟩, by decide +kernel⟩,
    ⟨by decide, by decide, ⟨rawPg, by decide +kernel⟩, by decide +kernel⟩, ⟨by decide, by decide, ⟨rawPg, by decide +kernel⟩, by decide +kernel⟩⟩

/-- An address of a command that fails each check but the world's, and its translations, which are settled (CommandProcessorSteps). -/
theorem witness_cpBad :
    let s := cmdState (launchPkt 0x1005000) false 0
    let p : State := { s with poison := [(0x2AC0, true)] }
    Claims.cpBad s 0 0 0x1005604 8 8 true cMISALIGNED ∧ Claims.cpBad s 0 0 0x9005600 8 8 true cPAGE_FAULT ∧ Claims.cpBad s 0 0 0x1002600 8 8 true cPROTECTION
    ∧ Claims.cpBad p 0 0 0x1005600 8 8 true cPOISON ∧ Claims.cpSettled s 0 0 := by
  refine ⟨Or.inl (by decide +kernel), Or.inr (Or.inl (by decide +kernel)),
    Or.inr (Or.inr ⟨by decide, by decide, by decide, 0x12600, ⟨0, 0, false, false, false, false, 0⟩, by decide +kernel⟩),
    Or.inr (Or.inr ⟨by decide, by decide, by decide, 0x15600, rawPg, by decide +kernel⟩), ?_⟩
  intro vas b
  obtain ⟨cs, ts, h1, h2⟩ := locate_still (s := cmdState (launchPkt 0x1005000) false 0) (h := .me 0 0) (ten := 0) (by decide +kernel) (by decide +kernel) (Or.inr rfl) vas
  rw [h1]; exact h2 b

/-- LAUNCH with a descriptor that keeps the rules, with nonzero spare bytes, misaligned and of a reserved OP; no packet at RI
(CommandProcessorSteps). -/
theorem witness_CommandProcessorSteps_launch :
    let s := cmdState (launchPkt 0x1005000) false 0
    let d := s.homeBytes 0x15000 128
    (s.nextCommand 0 0x20000).map (fun e => (e.2.1, e.2.2 == launchPkt 0x1005000)) = some (0, true) ∧ State.reset.nextCommand 0 0x20000 = none
    ∧ State.reset.cpQueue 0 0x20000 = none ∧ (s.cpQueue 0 0x20000).isSome = true ∧ s.homeNat (0x20000 + 32) 8 + 32 * s.queueSlots 0x20000 > 0x20000 + 64
    ∧ s.queueTen 0x20000 = 0 ∧ (s.tenants.get none 0).isSome = true
    ∧ ((fieldAt (launchPkt 0x1005000) 0 1, fieldAt (launchPkt 0x1005000) 1 3, fieldAt (launchPkt 0x1005000) 16 48) = (1, 0, 0))
    ∧ launchFieldsOk d = true ∧ (fieldAt d 33 1).testBit 1 = false ∧ s.maskOk 0 (fieldAt d 96 15) ((fieldAt d 34 1).testBit 0) = true
    ∧ s.maskOk 0 (2 ^ 120 - 1) false = false ∧ fieldAt d 80 8 = 0 ∧ fieldAt d 88 8 = 0
    ∧ s.ringPlaces 0 0 (fieldAt d 64 8) = [(0x1005400, 64, 64, true), (0x1005800, 64, 0, true)]
    ∧ ((cmdState (launchPkt 0x1005040) false 0).nextCommand 0 0x20000).isSome = true ∧ 0x1005040 % 128 ≠ 0
    ∧ ((cmdState (words8 [6, 0, 0, 0, 0, 0, 0, 0]) false 0).nextCommand 0 0x20000).isSome = true
    ∧ ((cmdState (words8 [0x101, 0, 0, 0, 0, 0, 0, 0]) false 0).nextCommand 0 0x20000).isSome = true := by
  decide +kernel

/-- WRSIG in both steps, WAIT that holds and that does not, BARRIER, and RESET from a queue with and without SYS (CommandProcessorSteps). -/
theorem witness_CommandProcessorSteps_packets :
    let s := cmdState sigPkt false 0
    let busy : State := { cmdState (words8 [4, 0, 0, 0, 0, 0, 0, 0]) true 3 with launches := [(0, some (aLaunch 0x20000))] }
    ((s.nextCommand 0 0x20000).isSome = true ∧ targetOk 0x50003 = true ∧ targetOk 24 = false ∧ fieldAt sigPkt 32 32 = 0)
    ∧ ((cmdState sigPkt false 1).cpQueue 0 0x20000).map (fun q => q.step) = some 1
    ∧ (((cmdState (waitPkt 0) false 0).nextCommand 0 0x20000).isSome = true ∧ Claims.holds (fieldAt (waitPkt 0) 1 1) ((cmdState (waitPkt 0) false 0).homeNat 0x15600 8) 0
      ∧ ¬ Claims.holds (fieldAt (waitPkt 5) 1 1) ((cmdState (waitPkt 5) false 0).homeNat 0x15600 8) (fieldAt (waitPkt 5) 16 8)
      ∧ ((cmdState (waitPkt 5) false 2).cpQueue 0 0x20000).map (fun q => q.step) = some 2)
    ∧ (((cmdState (words8 [4, 0, 0, 0, 0, 0, 0, 0]) true 0).nextCommand 0 0x20000).isSome = true
      ∧ (busy.launches.any (fun e => match e.2 with | some x => x.queue == 0x20000 | none => false)) = true ∧ (busy.cpQueue 0 0x20000).map (fun q => q.step) = some 3)
    ∧ (((cmdState resetPkt true 0).nextCommand 0 0x20000).isSome = true ∧ (cmdState resetPkt true 0).queueSys 0x20000 = true ∧ s.queueSys 0x20000 = false
      ∧ fieldAt resetPkt 12 52 = 0 ∧ (cmdState resetPkt true 0).launches = [] ∧ ((cmdState resetPkt true 4).cpQueue 0 0x20000).map (fun q => q.step) = some 4) := by
  intro s busy
  refine ⟨?_, ?_, ?_, ?_, ?_⟩
  · decide +kernel
  · decide +kernel
  · simp only [Claims.holds]; decide +kernel
  · decide +kernel
  · decide +kernel

/-- Launch 0 of tenant 0 waits while the cores of octet 0 run tenant 1, whose launch 1 runs; the time is past the classifier's, and core
0's slice is over. -/
def launchState : State :=
  let s := cmdState (launchPkt 0) false 0
  let s := (List.range 8).foldl (fun s c => s.setCore c { s.core c with tenant := 1 }) s
  let x : Launch := { aLaunch 0x1005400 with ten := 0, started := false, hi := 2, grain := 1, dom := 1, entry := 0x1000 }
  let y : Launch := { aLaunch 0x1005400 with ten := 1, started := true, root := 0x1005700 }
  { s with launches := [(0, some x), (1, some y), (2, some { y with failed := some (7, 0, 0, 0, 0) })], time := 200000, slices := [(0, 5)] }

/-- A launch that may start, one that runs, one that has failed and ends, the classifier, and a slice that another tenant waits for
(CommandProcessorSteps). -/
theorem witness_CommandProcessorSteps_launches :
    let s := launchState
    ((s.launches.get none 0).map (fun x => (x.started, x.buffers.length, x.chanList.length)) = some (false, 0, 0)
      ∧ (s.launches.get none 0).map sharesOf = some [(0, 0, 2)]
      ∧ s.launches.get none 3 = none ∧ ((s.hazards.get [] 0).filter Hazard.used).length ≤ 256 ∧ (∃ q, s.cpQueue 0 0x20000 = some q ∧ q.place = 0)
      ∧ (match (s.joinCheck (.me 0 0) 0 0x1005600).2 with | .ok pa => pa == 0x15600 | _ => false) = true
      ∧ (∀ c < 8, (s.core c).tenant ≠ 0 ∧ s.coreIdle c = false) ∧ (maskCores 1).all (fun c => c < 8) = true
      ∧ (s.deques.get [] (tcKey 0 0)).length < 64 ∧ (s.spills.get [] (tcKey 0 0)).length ≠ 4096)
    ∧ ((s.launches.get none 2).map (fun x => (x.failed.isSome, x.fuse)) = some (true, false) ∧ s.jobsDone 2 = true ∧ s.l1 = []
      ∧ (s.launches.get none 1).map (fun x => x.failed.isSome || s.rootDrained x) = some false)
    ∧ ((s.launches.get none 1).map (fun x => (x.started, x.classed, decide (x.startAt + 200000 ≤ s.time))) = some (true, false, true))
    ∧ (s.sliceOver 0 1 = [0] ∧ s.waiters [0] = [] ∧ s.sliceOver 0 2 = [])
    ∧ (({ s with launches := [(0, some { aLaunch 0 with ten := 0 })] } : State).waiters [0] = [0]) := by
  intro s
  refine ⟨⟨by decide +kernel, by decide +kernel, by decide +kernel, by decide +kernel, ⟨_, rfl, by decide +kernel⟩, by decide +kernel⟩, by decide +kernel, by decide +kernel,
    by decide +kernel, by decide +kernel⟩

/-- A save of the only tenant's thread; replies to a pending request: a value, an error, and one that matches none (CommandProcessorSteps). -/
theorem witness_CommandProcessorSteps_services :
    let s := ten (regs [])
    let y : Sym := ⟨0, 0, false, .pending, .service 0 5⟩
    let u : State := { s with services := [⟨0, 5, 0, 0, 3, 0⟩], syms := [(3, some y)] }
    let v := u.setCore 0 { u.core 0 with halted := true }
    let reply (st : Nat) : List Byte := bytesOf 32 (5 + 3 * 2 ^ 56 + st * 2 ^ 64 + 9 * 2 ^ 128)
    ((s.tenants.get none 0).isSome = true ∧ ∀ n < 16, n ≠ 0 → s.tenants.get none n = none)
    ∧ (v.services.find? (v.replyMatches 0 (reply 0)) = some ⟨0, 5, 0, 0, 3, 0⟩ ∧ v.sym 0 3 = some y ∧ (v.core 0).halted = true
      ∧ u.services.find? (u.replyMatches 0 (reply 1)) = some ⟨0, 5, 0, 0, 3, 0⟩ ∧ fieldAt (reply 1) 8 1 = 1 ∧ fieldAt (reply 0) 9 7 = 0 ∧ fieldAt (reply 0) 24 8 = 0
      ∧ s.services.find? (s.replyMatches 0 (reply 0)) = none) := by decide +kernel

/-- The turn of a queue, a launch that starts on cores of other tenants with its join block apart from its queue, and a request whose symbol
is gone (CommandProcessorSteps). -/
theorem witness_CommandProcessorSteps_turns :
    let s := cmdState sigPkt false 0
    let u : State := { ten (regs []) with services := [⟨0, 5, 0, 0, 3, 0⟩], syms := [(3, some ⟨0, 0, false, .pending, .load 0 .raw 0⟩)] }
    let reply : List Byte := bytesOf 32 (5 + 3 * 2 ^ 56)
    Claims.takes s 0 0x20000 ⟨0x20000, 1, 0, sigPkt, 0, 0, 0⟩ 0 sigPkt
    ∧ (0x15600 + 32 ≤ 0x20000 ∧ launchState.homeNat (0x20000 + 8) 4 ≠ 0 + 1)
    ∧ (u.services.find? (u.replyMatches 0 reply) = some ⟨0, 5, 0, 0, 3, 0⟩ ∧ ∀ y, u.sym 0 3 = some y → ¬ Claims.awaits ⟨0, 5, 0, 0, 3, 0⟩ y) := by
  intro s u reply
  refine ⟨⟨by decide +kernel, by decide +kernel, Or.inr (by decide +kernel)⟩, by decide +kernel, by decide +kernel, ?_⟩
  intro y h
  have e : y = ⟨0, 0, false, .pending, .load 0 .raw 0⟩ := by
    have h2 : u.sym 0 3 = some ⟨0, 0, false, .pending, .load 0 .raw 0⟩ := by decide +kernel
    rw [h2] at h; exact (Option.some.inj h).symm
  subst e
  simp [Claims.awaits]

/-! ### Steps of the package -/

/-- The canonical map of a package whose positions are all good, without spares. -/
def canonPos (i : Nat) : Nat := if i < 960 then (16 * (i / 240 / 2) + i % 240 / 16) * 32 + 16 * (i / 240 % 2) + i % 240 % 16 else 0xFFFF

/-- The canonical map as the bytes of a map table. -/
def mapBytes : List Byte := (List.range 2048).map (fun x => BitVec.ofNat 8 (canonPos (x / 2) / 256 ^ (x % 2)))

/-- The boot core runs, every position is good, and the map table at 0x80000 holds the canonical map. -/
def mapState : State :=
  let s : State := { State.reset with phase := .running, good := (List.range 1024).map (fun p => (p, true)), logical := [(0, some 0)] }
  { s with sysRegs := [(0x313, 0x80000)], mem := writeBytes [] 0x80000 mapBytes }

theorem canonPos_lt (i : Nat) : canonPos i < 65536 := by unfold canonPos; split <;> omega

theorem mapTable_of {s : State} {a : Nat} (hb : bitsOf (s.sysReg 0x313).toNat 51 0 = a) (hm : s.mem = writeBytes [] a mapBytes) :
    s.mapTable = (List.range 1024).map canonPos := by
  have byte : ∀ x < 2048, s.homeByte (a + x) = BitVec.ofNat 8 (canonPos (x / 2) / 256 ^ (x % 2)) := by
    intro x hx
    have hl : mapBytes.length = 2048 := by simp [mapBytes]
    rw [State.homeByte, hm, get_writeBytes, if_pos (by omega), Nat.add_sub_cancel_left]
    exact getD_map_range _ _ _ _ hx
  unfold State.mapTable
  rw [hb]
  refine List.map_congr_left (fun i hi => ?_)
  have hi : i < 1024 := by simpa using hi
  have h0 := byte (2 * i) (by omega)
  have h1 := byte (2 * i + 1) (by omega)
  have := canonPos_lt i
  have e1 : (2 * i) / 2 = i := by omega
  have e2 : (2 * i) % 2 = 0 := by omega
  have e3 : (2 * i + 1) / 2 = i := by omega
  have e4 : (2 * i + 1) % 2 = 1 := by omega
  rw [e1, e2] at h0
  rw [e3, e4, ← Nat.add_assoc] at h1
  have e : s.homeBytes (a + 2 * i) 2 = [BitVec.ofNat 8 (canonPos i / 256 ^ 0), BitVec.ofNat 8 (canonPos i / 256 ^ 1)] := by
    rw [← h0, ← h1]; rfl
  rw [State.homeNat, e]
  simp only [ofBytes, pow_zero, pow_one, Nat.div_one, BitVec.toNat_ofNat]
  omega

theorem canonPos_place : ∀ i < 960, canonPos i < 1024 ∧ dieOfPos (canonPos i) = i / 240 ∧ scanIndex (canonPos i) = i % 240 := by decide +kernel

theorem mapOk_of {s : State} (good : ∀ p < 1024, s.good.get false p = true) (i : Nat) (hi : i < 1024) :
    s.mapEntryOk ((List.range 1024).map canonPos) i = true := by
  have at_ : ∀ j < 1024, ∀ d, ((List.range 1024).map canonPos).getD j d = canonPos j := by
    intro j hj d; simp [List.getD, hj]
  unfold State.mapEntryOk
  simp only [at_ i hi]
  by_cases h : i < 960
  · obtain ⟨h1, h2, h3⟩ := canonPos_place i h
    have fresh : (((List.range 1024).map canonPos).take i).contains (canonPos i) = false := by
      rw [← List.map_take, List.take_range]
      simp only [List.contains_eq_any_beq, List.any_eq_false, List.mem_map, List.mem_range, beq_iff_eq]
      rintro x ⟨j, hj, rfl⟩ e
      have hj : j < i := by omega
      obtain ⟨_, g2, g3⟩ := canonPos_place j (by omega)
      rw [← e, h2] at g2
      rw [← e, h3] at g3
      omega
    simp only [h, if_true, fresh, h1, good _ h1, h2, decide_true, beq_self_eq_true, Bool.and_self, Bool.not_false, Bool.true_and, Bool.or_eq_true, beq_iff_eq,
      decide_eq_true_eq]
    by_cases z : i % 240 = 0
    · exact Or.inl z
    · obtain ⟨_, _, g3⟩ := canonPos_place (i - 1) (by omega)
      rw [at_ (i - 1) (by omega), g3, h3]
      exact Or.inr (by omega)
  · simp [h, canonPos]

theorem all_true : ∀ (l : List Nat) (p : Nat), p ∈ l → SMap.get false (l.map (fun p => (p, true))) p = true
  | [], _, h => nomatch h
  | q :: r, p, h => by
    simp only [List.map_cons, SMap.get]
    split
    · rfl
    · rename_i n
      exact all_true r p ((List.mem_cons.mp h).resolve_left n)

theorem mapState_good (p : Nat) (hp : p < 1024) : mapState.good.get false p = true := by
  have h := all_true (List.range 1024) p (List.mem_range.mpr hp)
  simp only [mapState]
  exact h

theorem mapState_ok (i : Nat) (hi : i < 1024) : mapState.mapEntryOk mapState.mapTable i = true := by
  rw [mapTable_of (s := mapState) (a := 0x80000) (by decide +kernel) (by simp only [mapState])]
  exact mapOk_of mapState_good i hi

/-- The boot core with one good position and an empty map table; training; a busy mesh (PackageSteps). -/
theorem witness_PackageSteps_boot :
    let s : State := { State.reset with good := [(0, true)], logical := [(0, some 0)] }
    (s.isBootCore 0 = true ∧ s.meshBusy = false ∧ s.mapped = false ∧ s.isBootCore 1 = false ∧ s.mapEntryOk s.mapTable 1 = false ∧ s.mapEntryOk s.mapTable 0 = true)
    ∧ mapState.isBootCore 0 = true ∧ mapState.meshBusy = false ∧ (∀ i < 1024, mapState.mapEntryOk mapState.mapTable i = true)
    ∧ State.reset.phase = .inReset ∧ ({ State.reset with phase := .training } : State).replayMode = 0
    ∧ ({ State.reset with sysRegs := [(0x311, 2)] } : State).meshBusy = true ∧ ({ State.reset with sysRegs := [(0x311, 4)] } : State).mapped = true
    ∧ regMask 0x60000 = 0 ∧ regMask 0x600010 ≠ 0 ∧ State.reset.regIgnored 0x600010 0x11111110 = true ∧ State.reset.regIgnored 0x600010 0x21111111 = false
    ∧ regMask 0x800110 ≠ 0 ∧ regMask 0x50000 ≠ 0 := by
  intro s
  refine ⟨by decide +kernel, by decide +kernel, by decide +kernel, mapState_ok, ?_⟩
  decide +kernel

/-- Play at an entry of a kind, at time 5. -/
def playState (kind : Nat) : State :=
  { State.reset with time := 5, ctl := [(0x100018, 2)], mem := writeBytes [] 0xBF00000000 (bytesOf 8 5 ++ bytesOf 2 kind ++ bytesOf 2 12 ++ bytesOf 4 0 ++ bytesOf 8 0x7000 ++ [1, 2, 3, 4]) }

/-- A running package; arrivals that are allowed and refused; a released control core; play at entries of kinds 1 and 7 (PackageSteps). -/
theorem witness_PackageSteps_host :
    let s : State := { State.reset with phase := .running, sysRegs := [(0x315, 1)] }
    let p := playState 1
    s.replayMode = 0 ∧ s.plays = false ∧ s.inboundOk 0x7000 4 (s.frameWorld 0x7000) = true ∧ s.inboundOk 0x7000 0 true = false ∧ s.regionOf 0x7000 = .hbm
    ∧ s.regionOf 0x7004 = s.regionOf 0x7000 ∧ (s.sysReg 0x315).getLsbD 0 = true ∧ (s.sysReg 0x315).getLsbD 1 = false
    ∧ p.plays = true ∧ p.nextEntry.1 = 5 ∧ p.nextEntry.2.1 = 1 ∧ p.time = 5 ∧ p.inboundOk (fieldAt p.nextEntry.2.2.2 0 8 % 2 ^ 63) 4 ((fieldAt p.nextEntry.2.2.2 0 8).testBit 63) = true
    ∧ (p.nextEntry.2.2.2.drop 8).length = 4 ∧ (playState 7).nextEntry.2.1 = 7 ∧ (playState 0).nextEntry.2.1 = 0 ∧ (s.latches.get [] 43).length < 16
    ∧ 16 ≤ (({ s with latches := [(43, List.replicate 16 (0, 0))] } : State).latches.get [] 43).length := by
  decide +kernel

/-- A launch past its cluster's limit, before and after its first record, with one thread of a core that runs another tenant. -/
def dogState (again : Bool) : State :=
  let t : Thread := { Thread.zero with ctx := regs [], launch := some 0 }
  let s : State := { State.reset with ctl := [(0x80008, 5)], wdog := [(0, 10000)], wdogFired := if again then [(0, true)] else [], launches := [(0, some (aLaunch 0))] }
  { s with threads := [(thKey 0 0 0, t)] }

/-- The watchdog; throttling that steps, stays and raises; errors of each place; failures of a core with and without a spare
(ErrorAndDebugSteps). -/
theorem witness_ErrorAndDebugSteps_errors :
    let s : State := { lateState 0 false true with phase := .running, logical := [(0, some 0), (960, some 15)] }
    let d (n : Word) (cause : Bool) (last : Nat) : State := { State.reset with time := 200000, ctl := [(0xC000, n)], thrCause := if cause then [(0, true)] else [], thrLast := [(0, last)] }
    ((dogState false).watchdogDue 0 0 = true ∧ State.reset.watchdogDue 0 0 = false ∧ (dogState true).wdogFired.get false 0 = true
      ∧ (dogState false).launchThreads 0 0 = [(0, 0, 0)] ∧ ((dogState false).threadOf 0 0 0).launch = some 0 ∧ ((dogState false).core 0).tenant ≠ 0)
    ∧ ((d 3 true 0).thrCause.get false 0 = true ∧ ((d 11 true 0).ctlWord 0x60000).toNat = 11 ∧ ((d 12 true 0).ctlWord 0x60000).toNat = 12
      ∧ (d 1 false 100000).thrLast.get 0 0 + 100000 ≤ 200000 ∧ (d 1 false 0).thrCause.get false 0 = false)
    ∧ (s.regionOf (8 * 0x2001) = .hbm ∧ s.replayMode = 0 ∧ s.l1.get none (l1Key 0 0x2001) ≠ none ∧ s.l1.get none (l1Key 1 0x2001) = none
      ∧ s.regionOf 0xF000000000000 ≠ .hbm ∧ s.coreAt 0 = some 0)
    ∧ (s.phase = .running ∧ (s.logical.get none 0).isSome = true ∧ (s.core 0).failed = false ∧ s.spareOf (dieOfCore 0) = some 960
      ∧ (s.logical.get none 960).isSome = true ∧ s.logical.get none 1 = none ∧ ({ s with logical := [(0, some 0)] } : State).spareOf 0 = none
      ∧ (s.thread 0 0).ctx.run ≠ .waitLate) := by
  decide +kernel

/-- A partition of octet 119; slate records that wait and that are due; sessions; and reels of each case (ErrorAndDebugSteps). -/
theorem witness_ErrorAndDebugSteps_debug :
    let s : State := { State.reset with ctl := [(0x100001, 2 ^ 55)], slate := some 5 }
    let r : Reel := ⟨3, 0x18080, 1, 0, [], [], []⟩
    let o : State := { State.reset with ctl := [(0x100022, 1)], reels := [r], time := 20000000 }
    (s.partition = [119] ∧ s.lockedCore = none ∧ State.reset.net = [] ∧ State.reset.threads = [])
    ∧ (s.slate = some 5 ∧ s.time < 5 ∧ ({ s with time := 5 } : State).time = 5 ∧ State.reset.slate = none)
    ∧ ((o.sessWord 0 2).testBit 0 = true ∧ (State.reset.sessWord 15 2).testBit 0 = false)
    ∧ (o.reels[0]? = some r ∧ o.reels[1]? = none ∧ r.last + o.reelPeriod r ≤ o.time ∧ o.tenantBusy r.ten = false
      ∧ ¬ (r.last + ({ o with time := 1 } : State).reelPeriod r ≤ 1)) := by
  decide +kernel

/-- A die's empty ingress, a word that a slice homes, a copy packet whose record waits for a page, and a stopped boot (PackageSteps,
ErrorAndDebugSteps). -/
theorem witness_PackageSteps_more :
    let s : State := { State.reset with phase := .running }
    let c := copyState (copyP 4 4 [0x11000, 0, 0, 0, 0, 0, 0]) 0 []
    let c : State := { c with mem := writeBytes c.mem 0x28018 (words8 [4, 0x9001C000]) }
    let b : State := { State.reset with sysRegs := [(0x317, 0x206)] }
    s.ingress.get [] 0 = [] ∧ s.homedAt 0x7000 (homeOf 0 0x7000 none) = true ∧ s.homedAt 0x7000 (homeOf 0 0x7000 none + 1024) = false
    ∧ bitsOf (b.sysReg 0x317).toNat 15 8 ≠ 0 ∧ State.reset.sysReg 0x317 = 0 ∧ bodyNamed (words8 [0, 0x10000, 4096] ++ List.replicate 488 0) = true
    ∧ (match exec (.engineFailed 0 true) c with
        | .next t => ((t.octet 0).chans.get none 2).map (fun r => r.ending) == some (some 2)
        | _ => false) = true := by
  decide +kernel

/-! ### The step -/

/-- A vector instruction with every field set (DecodeEncode). -/
theorem witness_DecodeEncode : (Instr.vfadd ⟨⟨true, 7⟩, 0, 0x2BE0, .v 31, .v 30, .s 63⟩).wf = true
    ∧ (encode (.vfadd ⟨⟨true, 7⟩, 0, 0x2BE0, .v 31, .v 30, .s 63⟩)).isSome = true := by decide +kernel

/-- NOP, which is placed where a core's thread, or an engine's hart, fetches next. -/
def fetchCore : State := State.reset.withFetchWord 96 (0x047 * 2 ^ 87)
def fetchEngine : State :=
  let s := meState (1 :: List.replicate 63 0) []
  { s with mem := writeBytes [] 0x1000 (bytesOf 12 (0x047 * 2 ^ 87)) }

/-- A step that issues on a core and on an engine, an event, and the steps after FATAL_ERROR (StepRunsDecoded). -/
theorem witness_StepRunsDecoded :
    let s := fetchCore
    let e := fetchEngine
    (s.fatal = false ∧ s.schedule = [] ∧ s.reels = [] ∧ s.canIssue s.hart = true ∧ s.breakAt s.hart = none ∧ s.hart = .core 0 0 ∧ (s.ctxOf s.hart).pc = 0
      ∧ (s.core 0).tenant = 16 ∧ (s.locate s.hart 16 0).2 = some (.dev 0, bootPage) ∧ s.regionOf 0 = .hbm ∧ s.homePoisoned 0 64 = false ∧ s.icache = []
      ∧ s.homeNat 0 12 = 0x047 * 2 ^ 87 ∧ s.homeNat 60 4 = 0)
    ∧ (e.canIssue e.hart = true ∧ isCore e.hart = false ∧ e.breakAt e.hart = none ∧ (e.ctxOf e.hart).pc = 0x1000 ∧ e.regionOf 0x1000 = .hbm
      ∧ e.homePoisoned 0x1000 64 = false ∧ e.homeNat 0x1000 12 = 0x047 * 2 ^ 87 ∧ e.homeNat 0x103C 4 = 0)
    ∧ (decode (BitVec.ofNat 96 (0x047 * 2 ^ 87)) = .ok (.nop (tf 0 .none .none .none)) ∧ legalOn .core 0x047 = true ∧ legalOn .engine 0x047 = true)
    ∧ (isEvent .slate = true ∧ (Turn.event Instr.slate) ≠ .event .resetNAssert ∧ ({ State.reset with fatal := true } : State).schedule = []) := by
  decide +kernel

/-- The step takes NOP to its next instruction, and keeps memory in canonical form (StepRunsDecoded, MemoryStaysCanonical). -/
theorem witness_MemoryStaysCanonical : Safety.MemoryCanonical fetchCore
    ∧ ∃ t, step fetchCore = .next t ∧ (t.ctxOf (.core 0 0)).pc = 1 := by
  refine ⟨by simp only [Safety.MemoryCanonical]; decide +kernel, ?_⟩
  have h : (match step fetchCore with | .next t => decide ((t.ctxOf (.core 0 0)).pc = 1) | _ => false) = true := by decide +kernel
  revert h
  cases step fetchCore <;> simp

/-- The turns of an engine and of a core thread that its core chooses, of one that it does not choose, of a slot without a candidate,
and of a thread with a containment to complete (StepRunsDecoded). -/
theorem witness_StepRunsDecoded_turns :
    let on (t : Turn) : State := { st [] with schedule := [t] }
    let off : State := { st [] with schedule := [] }
    let e : State := { fetchEngine with schedule := [.issue (.me 0 3)] }
    let p := off.setThread 0 0 { off.thread 0 0 with pend := some ⟨cPOISON, false, [], none⟩ }
    Claims.turnOf (on (.slot 0 false)) (.core 0 0) { (off.setStarved 0 false 0) with hart := .core 0 0 }
    ∧ Claims.turnOf e (.me 0 3) { fetchEngine with caught := false, schedule := [], hart := .me 0 3 }
    ∧ off.slotOf 0 0 = some (false, 0) ∧ off.slotOf 0 1 = none ∧ off.choose 0 true = none
    ∧ (p.pendOf (.core 0 0)).map (fun x => (x.1, x.2.1)) = some (0, 0) ∧ p.canIssue (.core 0 0) = true := by
  refine ⟨⟨rfl, Or.inr (Or.inr ⟨[], false, 0, 0, false, 0, rfl, ?_, Or.inr ⟨rfl, rfl, by decide +kernel⟩⟩)⟩, ⟨rfl, Or.inr (Or.inl ⟨[], false, Or.inl ⟨rfl, rfl⟩, rfl, rfl⟩)⟩,
    by decide +kernel⟩
  decide +kernel

end Sys2Proof.Tests
end

section
/-! SUPPORT. What an instruction does whose effect is one write of an integer destination; division, LEA, BFX and BFI. -/

open Sys2Proof Sys2Proof.Machine Sys2Proof.Safety Sys2Proof.Laws

namespace Sys2Proof.Proofs

variable {s : State} {i : Instr} {f : TFields} {op : Nat}

/-! ### Instructions whose effect is one write -/

/-- A source that has a value is an operand, so its field counts as that value. -/
theorem fieldOf_of_srcOf {o : Operand} {x : Word} (h : srcOf s o = some x) : Claims.fieldOf s o = some x := by
  unfold Claims.fieldOf
  split
  · subst_vars; cases h
  · exact h

/-- An effect that comes down to one write of its integer destination, after flags raised, does what `Wrote` says. -/
theorem runT_writes {body : M Unit} {fl : Flags} {y : Word} (hf : fieldsOf i = some (op, f)) (hr : ready i s = true)
    (hb : body (entered s) = writeOp f.d y ((entered s).raiseFlags s.hart fl)) (hw : canWrite s fl f.d y = true) :
    ∃ t, runT op f body s = .next t ∧ Wrote s t fl f.d y := by
  obtain ⟨hv, hc, hg⟩ := ready_checks hr hf
  obtain ⟨t, ht, hwr⟩ := writeOp_ok hv hw
  exact ⟨t, runT_ok hc hg (hb.trans ht), hwr⟩

/-- The same where the effect raises no flag. -/
theorem runT_writes0 {body : M Unit} {y : Word} (hf : fieldsOf i = some (op, f)) (hr : ready i s = true)
    (hb : body (entered s) = writeOp f.d y (entered s)) (hw : canWrite s 0 f.d y = true) :
    ∃ t, runT op f body s = .next t ∧ Wrote s t 0 f.d y :=
  runT_writes hf hr (by rw [raiseFlags_zero]; exact hb) hw

/-- An effect that completes in a state that differs in the hart's registers only. -/
theorem runT_hartOnly {body : M Unit} {t : State} {c : Ctx} {fl : Flags} (hf : fieldsOf i = some (op, f)) (hr : ready i s = true)
    (hb : body (entered s) = .ok ((), t)) (ht : HartStep s t c fl) :
    ∃ t, runT op f body s = .next t ∧ HartOnly s t c fl := by
  obtain ⟨-, hc, hg⟩ := ready_checks hr hf
  exact ⟨t, runT_ok hc hg hb, ht.only⟩

/-- An instruction of two sources writes y where its function gives y. -/
theorem intBinary_writes {g : Word → Word → Word} {a b y : Word} (hf : fieldsOf i = some (op, f)) (hr : ready i s = true)
    (ha : Claims.fieldOf s f.a = some a) (hb : Claims.fieldOf s f.b = some b) (hy : g a b = y) (hw : canWrite s 0 f.d y = true) :
    ∃ t, runT op f (intBinary f g) s = .next t ∧ Wrote s t 0 f.d y := by
  subst hy
  exact intBinary_ok hf hr ha hb hw

/-- An instruction of one source writes y where its function gives y. -/
theorem intUnary_writes {g : Word → Word} {a y : Word} (hf : fieldsOf i = some (op, f)) (hr : ready i s = true)
    (ha : Claims.fieldOf s f.a = some a) (hy : g a = y) (hw : canWrite s 0 f.d y = true) :
    ∃ t, runT op f (intUnary f g) s = .next t ∧ Wrote s t 0 f.d y := by
  subst hy
  exact intUnary_ok hf hr ha hw

/-! ### Division (05 R94) -/

theorem toWord_toInt (x : Word) : toWord x.toInt = x := BitVec.ofInt_toInt

theorem divS_eq {a b y : Word} (h : if b = 0 then y.toInt = -1
    else if a.toInt = -2 ^ 63 ∧ b.toInt = -1 then y.toInt = -2 ^ 63 else y.toInt = a.toInt.tdiv b.toInt) : divS a b = y := by
  unfold divS
  by_cases hb : b = 0
  · rw [if_pos hb] at h ⊢
    rw [← h, toWord_toInt]
  · rw [if_neg hb] at h ⊢
    by_cases ho : a.toInt = -2 ^ 63 ∧ b.toInt = -1
    · rw [if_pos ho] at h
      rw [ho.1, ho.2, ← toWord_toInt y, h]
      decide
    · rw [if_neg ho] at h
      rw [← h, toWord_toInt]

theorem remS_eq {a b y : Word} (h : if b = 0 then y = a
    else if a.toInt = -2 ^ 63 ∧ b.toInt = -1 then y = 0 else y.toInt = a.toInt - b.toInt * a.toInt.tdiv b.toInt) :
    remS a b = y := by
  unfold remS
  by_cases hb : b = 0
  · rw [if_pos hb] at h ⊢
    exact h.symm
  · rw [if_neg hb] at h ⊢
    by_cases ho : a.toInt = -2 ^ 63 ∧ b.toInt = -1
    · rw [if_pos ho] at h
      rw [ho.1, ho.2, h]
      decide
    · rw [if_neg ho] at h
      rw [← h, toWord_toInt]

theorem divU_eq {a b y : Word} (h : if b = 0 then y.toNat = 2 ^ 64 - 1 else y.toNat = a.toNat / b.toNat) : divU a b = y := by
  unfold divU
  by_cases hb : b = 0
  · rw [if_pos hb] at h ⊢
    exact BitVec.eq_of_toNat_eq (h ▸ by decide)
  · rw [if_neg hb] at h ⊢
    rw [← h, BitVec.ofNat_toNat, BitVec.setWidth_eq]

theorem remU_eq {a b y : Word} (h : if b = 0 then y = a else y.toNat = a.toNat % b.toNat) : remU a b = y := by
  unfold remU
  by_cases hb : b = 0
  · rw [if_pos hb] at h ⊢
    exact h.symm
  · rw [if_neg hb] at h ⊢
    rw [← h, BitVec.ofNat_toNat, BitVec.setWidth_eq]

/-- Settles O2: each form writes its function of the two sources, and the rule of R94 determines the value. -/
theorem divisionResults : Obligations.DivisionResults := by
  intro i s f a b hr ha hb y hy hw
  have ha := fieldOf_of_srcOf ha
  have hb := fieldOf_of_srcOf hb
  rcases hy with ⟨rfl, hy⟩ | ⟨rfl, hy⟩ | ⟨rfl, hy⟩ | ⟨rfl, hy⟩
  · exact intBinary_writes rfl hr ha hb (divS_eq hy) hw
  · exact intBinary_writes rfl hr ha hb (divU_eq hy) hw
  · exact intBinary_writes rfl hr ha hb (remS_eq hy) hw
  · exact intBinary_writes rfl hr ha hb (remU_eq hy) hw

/-! ### Addresses and fields (05 R98) -/

theorem lea_eq (a b : Word) (k : Nat) : a + b * BitVec.ofNat 64 (2 ^ k) = BitVec.ofNat 64 (a.toNat + b.toNat * 2 ^ k) := by
  simp [BitVec.ofNat_add, BitVec.ofNat_mul]

/-- Sign extension of a field of n + 1 bits, by the field's top bit (01 R23). -/
theorem sext_field {x n : Nat} (hx : x < 2 ^ (n + 1)) :
    sext x (n + 1) = if 2 ^ n ≤ x then (x : Int) - 2 ^ (n + 1) else x := by
  unfold sext
  rw [Nat.mod_eq_of_lt hx, Nat.add_sub_cancel]
  by_cases h : x < 2 ^ n
  · rw [if_pos h, if_neg (by omega)]
  · rw [if_neg h, if_pos (by omega)]
    push_cast
    rfl

/-- The field that BFX writes, for a field x of n + 1 bits. -/
theorem bfx_eq {x n : Nat} {sgn : Bool} (hx : x < 2 ^ (n + 1)) :
    (if sgn then toWord (sext x (n + 1)) else BitVec.ofNat 64 x)
      = if sgn = true ∧ 2 ^ n ≤ x then BitVec.ofInt 64 (x - 2 ^ (n + 1)) else BitVec.ofNat 64 x := by
  rw [sext_field hx]
  cases sgn with
  | false => simp
  | true => by_cases h : 2 ^ n ≤ x <;> simp [h, toWord]

theorem shiftLeft_eq_ofNat (a : Word) (n : Nat) : a <<< n = BitVec.ofNat 64 (a.toNat * 2 ^ n) := by
  exact BitVec.eq_of_toNat_eq (by simp [Nat.shiftLeft_eq])

/-- Settles O3: LEA and BFX write a function of their sources; BFI reads A, then D, and writes the merge. -/
theorem addressAndFieldResults : Obligations.AddressAndFieldResults := by
  refine ⟨?_, ?_, ?_⟩
  · intro s f a b hr ha hb y hw
    exact intBinary_writes rfl hr (fieldOf_of_srcOf ha) (fieldOf_of_srcOf hb) (lea_eq a b _) hw
  · intro s f a hr ha x y hw
    exact intUnary_writes rfl hr (fieldOf_of_srcOf ha) (bfx_eq (Nat.mod_lt _ (Nat.two_pow_pos _))) hw
  · intro s f a d hr ha hd m y hw
    refine runT_writes0 rfl hr ?_ hw
    rw [M_bind (src_ok ha), M_bind (src_ok hd), shiftLeft_eq_ofNat]

end Sys2Proof.Proofs
end

section
/-! SUPPORT. Results that SAT clamps, and the 128-bit forms on register pairs. -/

open Sys2Proof Sys2Proof.Machine Sys2Proof.Safety Sys2Proof.Laws

namespace Sys2Proof.Proofs

variable {s : State} {i : Instr} {f : TFields} {op : Nat}

/-! ### Saturation (03 R48) -/

/-- An exact result that SAT clamps at w bits. -/
def exceeds (sat : Bool) (w : Nat) (x : Int) : Bool := sat && !(-2 ^ (w - 1) ≤ x && x < 2 ^ (w - 1))

/-- The value that an exact result becomes, before it is written mod 2^w, and the flags that it raises. -/
def clamped (sat : Bool) (w : Nat) (x : Int) : Int :=
  if exceeds sat w x then (if x < 0 then -2 ^ (w - 1) else 2 ^ (w - 1) - 1) else x
def satFlags (sat : Bool) (w : Nat) (x : Int) : Flags := if exceeds sat w x then fSAT else 0

/-- Clamping to the signed range of w bits. -/
theorem clampInt_signed (w : Nat) (x : Int) :
    clampInt (intLo true w) (intHi true w) x = (clamped true w x, satFlags true w x) := by
  have hp : (0 : Int) < 2 ^ (w - 1) := by positivity
  unfold clampInt clamped satFlags exceeds intLo intHi
  push_cast
  by_cases hlo : x < -2 ^ (w - 1)
  · have hn : x < 0 := by omega
    simp [hlo, hn]
  · by_cases hhi : (2 : Int) ^ (w - 1) ≤ x
    · have hn : ¬ x < 0 := by omega
      have h1 : (2 : Int) ^ (w - 1) - 1 < x := by omega
      simp [hlo, hhi, h1, hn]
    · have h1 : ¬ (2 : Int) ^ (w - 1) - 1 < x := by omega
      simp [hlo, hhi, h1]

theorem satValue_ok (sat : Bool) (w : Nat) (x : Int) (u : State) :
    satValue sat w x u = .ok (clamped sat w x, u.raiseFlags u.hart (satFlags sat w x)) := by
  cases sat with
  | false =>
    change Except.ok (x, u) = Except.ok (x, u.raiseFlags u.hart 0)
    rw [raiseFlags_zero]
  | true =>
    unfold satValue
    rw [if_pos rfl, clampInt_signed]
    rfl

/-! ### 128-bit pairs (05 R95) -/

theorem readPair_ok {o : Operand} {p : Word × Word} (h : pairOf s o = some p) :
    readPair o (entered s) = .ok (p, entered s) := by
  cases o with
  | w e =>
    simp only [pairOf] at h
    split at h
    · rename_i a b ha hb
      injection h with h
      subst h
      have hlow : readS (2 * e.toNat) (entered s) = .ok (a, entered s) := readS_ok (by rw [entered_hart, ctxOf_entered]; exact ha)
      have hhigh : readS (2 * e.toNat + 1) (entered s) = .ok (b, entered s) := readS_ok (by rw [entered_hart, ctxOf_entered]; exact hb)
      change (readS _ >>= fun a => readS _ >>= fun b => pure (a, b)) (entered s) = _
      rw [M_bind hlow, M_bind hhigh]
      rfl
    · cases h
  | _ => cases h

/-- A pair of words as a signed 128-bit number. -/
theorem sext_pair (p : Word × Word) : sext (p.1.toNat + p.2.toNat * 2 ^ 64) 128 = (Claims.wide p).toInt := by
  have hn : (Claims.wide p).toNat = p.1.toNat + p.2.toNat * 2 ^ 64 := by
    rw [Claims.wide, BitVec.toNat_append, ← Nat.shiftLeft_add_eq_or_of_lt p.1.isLt, Nat.shiftLeft_eq, Nat.add_comm]
  rw [← hn, BitVec.toInt_eq_toNat_cond, sext, Nat.mod_eq_of_lt (Claims.wide p).isLt]
  congr 1
  exact propext (by omega)

theorem readWide_ok {o : Operand} {x : BitVec 128} (h : Claims.wideOf s o = some x) :
    readWide o (entered s) = .ok (x.toInt, entered s) := by
  cases o with
  | w e =>
    simp only [Claims.wideOf, Option.map_eq_some_iff] at h
    obtain ⟨p, hp, rfl⟩ := h
    change (readPair (.w e) >>= fun p => pure (sext (p.1.toNat + p.2.toNat * 2 ^ 64) 128)) (entered s) = _
    rw [M_bind (readPair_ok hp), sext_pair]
    rfl
  | imm v =>
    simp only [Claims.wideOf] at h
    injection h with h
    subst h
    change (readOp (.imm v) >>= fun a => pure a.toInt) (entered s) = _
    rw [M_bind (src_ok (o := .imm v) rfl), BitVec.toInt_signExtend_of_le (by decide), BitVec.toInt_signExtend_of_le (by decide)]
    rfl
  | _ => cases h

/-- The registers after a 128-bit result is written to pair e, flags raised before. -/
def putWide (s : State) (e : BitVec 5) (fl : Flags) (y : BitVec 128) : Ctx :=
  setS (setS (addFlags (base s) fl) (2 * e.toNat) (y.extractLsb' 0 64)) (2 * e.toNat + 1) (y.extractLsb' 64 64)

theorem low_word (x : Int) : BitVec.ofNat 64 ((x % (2 ^ 128 : Nat)).toNat % 2 ^ 64) = (BitVec.ofInt 128 x).extractLsb' 0 64 := by
  apply BitVec.eq_of_toNat_eq
  simp

theorem high_word (x : Int) : BitVec.ofNat 64 ((x % (2 ^ 128 : Nat)).toNat / 2 ^ 64) = (BitVec.ofInt 128 x).extractLsb' 64 64 := by
  apply BitVec.eq_of_toNat_eq
  simp [Nat.shiftRight_eq_div_pow]

/-- A write of a scalar register from a state that differs in the hart's registers only. -/
theorem writeS_step {t : State} {c : Ctx} {fl : Flags} (hv : validHart s.hart = true) (h : HartStep s t c fl) (n : Nat) (x : Word) :
    ∃ u, writeS n x t = .ok ((), u) ∧ HartStep s u (setS c n x) fl := by
  refine ⟨_, rfl, ?_⟩
  rw [hartOnly_hart h.only]
  exact HartStep_writeS hv h n x

/-- Writing a wide destination changes the two registers of its pair. -/
theorem writeWide_ok (hv : validHart s.hart = true) (e : BitVec 5) (fl : Flags) (x : Int) :
    ∃ t, writeWide (.w e) x ((entered s).raiseFlags s.hart fl) = .ok ((), t)
      ∧ HartStep s t (putWide s e fl (BitVec.ofInt 128 x)) fl := by
  obtain ⟨u, hu, hs⟩ := writeS_step hv (hartStep_raised hv fl) (2 * e.toNat) ((BitVec.ofInt 128 x).extractLsb' 0 64)
  obtain ⟨t, ht, hs⟩ := writeS_step hv hs (2 * e.toNat + 1) ((BitVec.ofInt 128 x).extractLsb' 64 64)
  refine ⟨t, ?_, hs⟩
  change writePair (.w e) (BitVec.ofNat 64 _) (BitVec.ofNat 64 _) _ = _
  rw [low_word, high_word]
  exact (M_bind hu).trans ht

/-- ADD.W and SUB.W: both sources are read, then the clamped result of the function is written. -/
theorem wideBinary_ok {g : Int → Int → Int} {e : BitVec 5} {a b : BitVec 128} (hf : fieldsOf i = some (op, f)) (hr : ready i s = true)
    (hd : f.d = .w e) (ha : Claims.wideOf s f.a = some a) (hb : Claims.wideOf s f.b = some b) :
    ∃ t, runT op f (wideBinary f g) s = .next t
      ∧ HartOnly s t (putWide s e (satFlags (satBit f) 128 (g a.toInt b.toInt))
          (BitVec.ofInt 128 (clamped (satBit f) 128 (g a.toInt b.toInt)))) (satFlags (satBit f) 128 (g a.toInt b.toInt)) := by
  obtain ⟨hv, -, -⟩ := ready_checks hr hf
  obtain ⟨t, ht, hs⟩ := writeWide_ok hv e (satFlags (satBit f) 128 (g a.toInt b.toInt)) (clamped (satBit f) 128 (g a.toInt b.toInt))
  refine runT_hartOnly hf hr ?_ hs
  unfold wideBinary
  rw [M_bind (readWide_ok ha), M_bind (readWide_ok hb), M_bind (satValue_ok _ _ _ _), entered_hart, hd]
  exact ht

/-- A signed product of words, formed at 128 bits. -/
theorem signExtend_mul (a b : Word) : a.signExtend 128 * b.signExtend 128 = BitVec.ofInt 128 (a.toInt * b.toInt) := by
  rw [BitVec.ofInt_mul]
  rfl

/-- An unsigned product of words, formed at 128 bits. -/
theorem zeroExtend_mul (a b : Word) : a.zeroExtend 128 * b.zeroExtend 128 = BitVec.ofInt 128 ((a.toNat * b.toNat : Nat) : Int) := by
  rw [BitVec.ofInt_natCast, BitVec.ofNat_mul, BitVec.ofNat_toNat, BitVec.ofNat_toNat]

/-- The product that MUL.W writes, by its UNS bit. -/
theorem mulW_eq (u : Bool) (a b : Word) :
    BitVec.ofInt 128 (if u then ((a.toNat * b.toNat : Nat) : Int) else a.toInt * b.toInt)
      = if u then a.zeroExtend 128 * b.zeroExtend 128 else a.signExtend 128 * b.signExtend 128 := by
  rw [signExtend_mul, zeroExtend_mul]
  cases u <;> rfl

/-- Settles O4: the sources are read before the pair is written, and the result is clamped or wrapped at 128 bits. -/
theorem wideResults : Obligations.WideResults := by
  intro s f e hd put
  refine ⟨?_, ?_⟩
  · intro i a b x hr ha hb hi out y fl
    have hy : BitVec.ofInt 128 (clamped (satBit f) 128 x) = y := by
      change BitVec.ofInt 128 (if out then _ else _) = if out then _ else _
      rw [apply_ite (BitVec.ofInt 128), apply_ite (BitVec.ofInt 128)]
    change ∃ t, exec i s = .next t ∧ HartOnly s t (putWide s e (satFlags (satBit f) 128 x) y) (satFlags (satBit f) 128 x)
    rw [← hy]
    rcases hi with ⟨rfl, rfl⟩ | ⟨rfl, rfl⟩
    · exact wideBinary_ok (i := .addW f) rfl hr hd ha hb
    · exact wideBinary_ok (i := .subW f) rfl hr hd ha hb
  · intro a b hr ha hb
    obtain ⟨hv, -, -⟩ := ready_checks hr rfl
    obtain ⟨t, ht, hs⟩ := writeWide_ok hv e 0 (if f.m.getLsbD 0 then ((a.toNat * b.toNat : Nat) : Int) else a.toInt * b.toInt)
    rw [raiseFlags_zero] at ht
    rw [mulW_eq] at hs
    refine runT_hartOnly rfl hr ?_ hs
    rw [M_bind (src_ok ha), M_bind (src_ok hb), hd]
    exact ht

end Sys2Proof.Proofs
end

section
/-! SUPPORT. Predicate registers by their lanes, and the predicate instructions. -/

open Sys2Proof Sys2Proof.Machine Sys2Proof.Safety Sys2Proof.Laws

namespace Sys2Proof.Proofs

variable {s : State} {i : Instr} {f : TFields} {op : Nat}

/-! ### The bits of a number that are set -/

/-- The indices below n of the bits of x that are 1, in ascending order. -/
def onesOf (x n : Nat) : List Nat := (List.range n).filter (fun j => x.testBit j)

theorem popCountBelow_eq (x n : Nat) : popCountBelow x n = (onesOf x n).length := by
  induction n with
  | zero => rfl
  | succ n ih =>
    unfold onesOf at ih ⊢
    rw [popCountBelow, ih, List.range_succ, List.filter_append, List.length_append]
    cases h : x.testBit n <;> simp [h]

/-- The scan for the lowest set bit, from index k on, finds the first set bit or ends past the last index. -/
theorem lowestBit_from (x n k : Nat) :
    lowestBit x n k = ((List.range' k n).filter (fun j => x.testBit j)).headD (k + n) := by
  induction n generalizing k with
  | zero => rfl
  | succ n ih =>
    rw [lowestBit, ih, List.range'_succ, List.filter_cons]
    split
    · rfl
    · rw [Nat.add_right_comm, Nat.add_assoc]

theorem lowestBit_eq (x n : Nat) : lowestBit x n 0 = (onesOf x n).headD n := by
  rw [lowestBit_from, ← List.range_eq_range', Nat.zero_add]
  rfl

theorem onesOf_eq_nil_iff {x n : Nat} (hx : x < 2 ^ n) : onesOf x n = [] ↔ x = 0 := by
  unfold onesOf
  rw [List.filter_eq_nil_iff]
  constructor
  · intro h
    refine Nat.eq_of_testBit_eq fun j => ?_
    rw [Nat.zero_testBit]
    by_cases hj : j < n
    · simpa using h j (List.mem_range.2 hj)
    · exact Nat.testBit_lt_two_pow (hx.trans_le (Nat.pow_le_pow_right (by decide) (by omega)))
  · rintro rfl j -
    simp

theorem length_onesOf_eq_iff {x n : Nat} (hx : x < 2 ^ n) : (onesOf x n).length = n ↔ x = 2 ^ n - 1 := by
  have hlen : (onesOf x n).length = n ↔ ∀ j < n, x.testBit j = true := by
    have h := List.length_filter_eq_length_iff (l := List.range n) (p := fun j => x.testBit j)
    simpa [onesOf] using h
  rw [hlen]
  constructor
  · intro h
    refine Nat.eq_of_testBit_eq fun j => ?_
    rw [Nat.testBit_two_pow_sub_one]
    by_cases hj : j < n
    · simp [h j hj, hj]
    · simp [hj, Nat.testBit_lt_two_pow (hx.trans_le (Nat.pow_le_pow_right (by decide) (by omega : n ≤ j)))]
  · rintro rfl j hj
    simp [Nat.testBit_two_pow_sub_one, hj]

/-! ### Predicates (05 R103; 02 R25) -/

@[simp] theorem lanes_base : lanes (base s) = lanes (s.ctxOf s.hart) := rfl

theorem getLsbD_onesBelow {n j : Nat} (hj : j < 256) : (onesBelow n).getLsbD j = decide (j < n) := by
  rw [onesBelow, BitVec.getLsbD_ofNat, Nat.testBit_two_pow_sub_one]
  simp [hj]

/-- A predicate whose lanes are g, cut to the lanes that there are, is the one that the rule gives. -/
theorem and_onesBelow_eq {g : Nat → Bool} {p x : Pred} (hx : Claims.lanesOf s g x) (hp : ∀ j, j < 256 → p.getLsbD j = g j) :
    p &&& onesBelow (lanes (s.ctxOf s.hart)) = x := by
  refine BitVec.eq_of_getLsbD_eq fun j hj => ?_
  rw [hx j hj, BitVec.getLsbD_and, getLsbD_onesBelow hj, hp j hj, Bool.and_comm]

theorem readPredOp_ok {o : Operand} {a : Pred} (h : predOf s o = some a) : readPredOp o (entered s) = .ok (a, entered s) := by
  cases o with
  | p n =>
    simp only [predOf] at h
    injection h with h
    change Except.ok (((entered s).ctxOf (entered s).hart).getP n.toNat, entered s) = _
    rw [entered_hart, ctxOf_entered, ← h]
    rfl
  | _ => cases h

theorem readNat_ok {o : Operand} {x : Word} (h : srcOf s o = some x) : readNat o (entered s) = .ok (x.toNat, entered s) := by
  unfold readNat
  rw [M_bind (src_ok h)]
  rfl

theorem getCtx_entered : getCtx (entered s) = .ok (base s, entered s) := by
  change Except.ok ((entered s).ctxOf (entered s).hart, entered s) = _
  rw [entered_hart, ctxOf_entered]

/-- A predicate destination takes the lanes of a value and clears the bits above. -/
theorem writePredOp_ok (hv : validHart s.hart = true) (n : BitVec 4) (x : Pred) :
    ∃ t, writePredOp (.p n) x (entered s) = .ok ((), t)
      ∧ HartStep s t (setP (base s) n.toNat (x &&& onesBelow (lanes (s.ctxOf s.hart)))) 0 := by
  refine ⟨_, ?_, HartStep_writeP hv (hartStep_entered hv) _ _⟩
  change (getCtx >>= fun c => writeP n.toNat (x &&& onesBelow (lanes c))) (entered s) = _
  rw [M_bind getCtx_entered, writeP, entered_hart]
  rfl

/-- An effect that comes down to one write of a predicate, whose lanes the rule gives. -/
theorem runT_writesPred {body : M Unit} {n : BitVec 4} {p x : Pred} {g : Nat → Bool} (hf : fieldsOf i = some (op, f))
    (hr : ready i s = true) (hd : f.d = .p n) (hb : body (entered s) = writePredOp f.d p (entered s))
    (hx : Claims.lanesOf s g x) (hp : ∀ j, j < 256 → p.getLsbD j = g j) :
    ∃ t, runT op f body s = .next t ∧ HartOnly s t (setP (base s) n.toNat x) 0 := by
  obtain ⟨hv, -, -⟩ := ready_checks hr hf
  obtain ⟨t, ht, hs⟩ := writePredOp_ok hv n p
  rw [and_onesBelow_eq hx hp] at hs
  exact runT_hartOnly hf hr (by rw [hb, hd, ht]) hs

theorem predBinary_ok {h : Pred → Pred → Pred} {n : BitVec 4} {a b x : Pred} {g : Nat → Bool} (hf : fieldsOf i = some (op, f))
    (hr : ready i s = true) (hd : f.d = .p n) (ha : predOf s f.a = some a) (hb : predOf s f.b = some b)
    (hx : Claims.lanesOf s g x) (hp : ∀ j, j < 256 → (h a b).getLsbD j = g j) :
    ∃ t, runT op f (predBinary f h) s = .next t ∧ HartOnly s t (setP (base s) n.toNat x) 0 := by
  refine runT_writesPred hf hr hd ?_ hx hp
  unfold predBinary
  rw [M_bind (readPredOp_ok ha), M_bind (readPredOp_ok hb)]

theorem predUnary_ok {h : Pred → Pred} {n : BitVec 4} {a x : Pred} {g : Nat → Bool} (hf : fieldsOf i = some (op, f))
    (hr : ready i s = true) (hd : f.d = .p n) (ha : predOf s f.a = some a)
    (hx : Claims.lanesOf s g x) (hp : ∀ j, j < 256 → (h a).getLsbD j = g j) :
    ∃ t, runT op f (predUnary f h) s = .next t ∧ HartOnly s t (setP (base s) n.toNat x) 0 := by
  refine runT_writesPred hf hr hd ?_ hx hp
  unfold predUnary
  rw [M_bind (readPredOp_ok ha)]

/-- The lane bits of a predicate, as a number. -/
def laneBits (s : State) (a : Pred) : Nat := (a &&& onesBelow (lanes (s.ctxOf s.hart))).toNat

theorem lanes_le (c : Ctx) : lanes c ≤ 256 := by
  unfold lanes laneWidth
  split
  · decide
  · split <;> decide

theorem testBit_laneBits (s : State) (a : Pred) (j : Nat) :
    (laneBits s a).testBit j = (a.getLsbD j && decide (j < lanes (s.ctxOf s.hart))) := by
  rw [laneBits, BitVec.testBit_toNat, BitVec.getLsbD_and]
  by_cases hj : j < 256
  · rw [getLsbD_onesBelow hj]
  · rw [BitVec.getLsbD_of_ge a j (by omega), Bool.false_and, Bool.false_and]

theorem laneBits_lt (s : State) (a : Pred) : laneBits s a < 2 ^ lanes (s.ctxOf s.hart) := by
  refine Nat.lt_pow_two_of_testBit _ fun j hj => ?_
  rw [testBit_laneBits, decide_eq_false (by omega), Bool.and_false]

/-- The lanes of a predicate that are 1. -/
theorem onesOf_laneBits (s : State) (a : Pred) : onesOf (laneBits s a) (lanes (s.ctxOf s.hart))
    = (List.range (lanes (s.ctxOf s.hart))).filter (fun j => a.getLsbD j) := by
  refine List.filter_congr fun j hj => ?_
  rw [testBit_laneBits, decide_eq_true (List.mem_range.1 hj), Bool.and_true]

/-- A scalar result of a predicate is a function of its lane bits and of the lane count. -/
theorem predScalar_ok {g : Nat → Nat → Nat} {n : BitVec 6} {a : Pred} {y : Nat} (hf : fieldsOf i = some (op, f))
    (hr : ready i s = true) (hd : f.d = .s n) (ha : predOf s f.a = some a)
    (hy : g (laneBits s a) (lanes (s.ctxOf s.hart)) = y) :
    ∃ t, runT op f (predScalar f g) s = .next t ∧ HartOnly s t (setS (base s) n.toNat (BitVec.ofNat 64 y)) 0 := by
  subst hy
  obtain ⟨hv, -, -⟩ := ready_checks hr hf
  obtain ⟨t, ht, hs⟩ := writeS_step hv (hartStep_entered hv) n.toNat (BitVec.ofNat 64 (g (laneBits s a) (lanes (s.ctxOf s.hart))))
  refine runT_hartOnly hf hr ?_ hs
  unfold predScalar
  rw [M_bind (readPredOp_ok ha), M_bind getCtx_entered, hd]
  exact ht

/-- Settles O10: a predicate result is determined by its lanes, a scalar result by the list of the lanes that are 1. -/
theorem predicateResults : Obligations.PredicateResults := by
  refine ⟨?_, ?_, ?_⟩
  · intro i s f n a b x hr hd ha hi
    rcases hi with ⟨hb, ⟨rfl, hx⟩ | ⟨rfl, hx⟩ | ⟨rfl, hx⟩⟩ | ⟨rfl, hx⟩ | ⟨rfl, hx⟩
    · exact predBinary_ok (i := .pand f) rfl hr hd ha hb hx (fun j _ => BitVec.getLsbD_and)
    · exact predBinary_ok (i := .por f) rfl hr hd ha hb hx (fun j _ => BitVec.getLsbD_or)
    · exact predBinary_ok (i := .pxor f) rfl hr hd ha hb hx (fun j _ => BitVec.getLsbD_xor)
    · exact predUnary_ok (i := .pnot f) rfl hr hd ha hx (fun j hj => by simp [hj])
    · exact predUnary_ok (i := .pmov f) rfl hr hd ha hx (fun _ _ => rfl)
  · intro s f n a x hr hd ha hx
    refine runT_writesPred (i := .pset f) rfl hr hd ?_ hx (p := onesBelow (Min.min a.toNat 256)) ?_
    · rw [M_bind (readNat_ok ha)]
    · intro j hj
      rw [getLsbD_onesBelow hj]
      exact decide_eq_decide.2 (by omega)
  · intro i s f n a y hr hd ha live hi
    have hlive : onesOf (laneBits s a) (lanes (s.ctxOf s.hart)) = live := onesOf_laneBits s a
    have hlt := laneBits_lt s a
    rcases hi with ⟨rfl, rfl⟩ | ⟨rfl, rfl⟩ | ⟨rfl, rfl⟩ | ⟨rfl, rfl⟩
    · exact predScalar_ok (i := .pany f) rfl hr hd ha (by simp only [← hlive, onesOf_eq_nil_iff hlt])
    · exact predScalar_ok (i := .pall f) rfl hr hd ha (by simp only [← hlive, length_onesOf_eq_iff hlt])
    · exact predScalar_ok (i := .pcnt f) rfl hr hd ha (by rw [popCountBelow_eq, hlive])
    · exact predScalar_ok (i := .pfirst f) rfl hr hd ha (by rw [lowestBit_eq, hlive])

end Sys2Proof.Proofs
end

section
/-! SUPPORT. The value of each integer instruction of 05 R93, as the model computes it and as the rule gives it. -/

open Sys2Proof Sys2Proof.Machine Sys2Proof.Safety Sys2Proof.Laws

namespace Sys2Proof.Proofs

variable {s : State} {i : Instr} {f : TFields} {op : Nat}

/-! ### The functions of 05 R93 -/

theorem mulh_eq (a b : Word) : toWord (a.toInt * b.toInt / 2 ^ 64) = (a.signExtend 128 * b.signExtend 128).extractLsb' 64 64 := by
  rw [signExtend_mul]
  generalize a.toInt * b.toInt = z
  apply BitVec.eq_of_toNat_eq
  rw [toWord, BitVec.extractLsb'_toNat, BitVec.toNat_ofInt, BitVec.toNat_ofInt, Nat.shiftRight_eq_div_pow]
  omega

theorem mulhu_eq (a b : Word) :
    BitVec.ofNat 64 (a.toNat * b.toNat / 2 ^ 64) = (a.zeroExtend 128 * b.zeroExtend 128).extractLsb' 64 64 := by
  rw [zeroExtend_mul, BitVec.ofInt_natCast]
  generalize a.toNat * b.toNat = z
  apply BitVec.eq_of_toNat_eq
  rw [BitVec.extractLsb'_toNat, BitVec.toNat_ofNat, BitVec.toNat_ofNat, Nat.shiftRight_eq_div_pow]
  omega

theorem shiftRight_eq_ofNat (a : Word) (n : Nat) : a >>> n = BitVec.ofNat 64 (a.toNat / 2 ^ n) := by
  apply BitVec.eq_of_toNat_eq
  rw [BitVec.toNat_ushiftRight, Nat.shiftRight_eq_div_pow, BitVec.toNat_ofNat,
    Nat.mod_eq_of_lt ((Nat.div_le_self _ _).trans_lt a.isLt)]

theorem sshiftRight_eq_ofInt (a : Word) (n : Nat) : a.sshiftRight n = BitVec.ofInt 64 (a.toInt / 2 ^ n) := by
  rw [BitVec.sshiftRight, Int.shiftRight_eq_div_pow]
  norm_cast

theorem rotateLeft_eq (a b : Word) :
    a.rotateLeft (b.toNat % 64) = (a <<< (b.toNat % 64) ||| a >>> (64 - b.toNat % 64)) := by
  rw [BitVec.rotateLeft, BitVec.rotateLeftAux, Nat.mod_mod]

theorem min_eq (a b : Word) : (if a.toInt ≤ b.toInt then a else b) = BitVec.ofInt 64 (Min.min a.toInt b.toInt) := by
  rw [min_def, apply_ite (BitVec.ofInt 64), BitVec.ofInt_toInt, BitVec.ofInt_toInt]

theorem max_eq (a b : Word) : (if a.toInt ≤ b.toInt then b else a) = BitVec.ofInt 64 (Max.max a.toInt b.toInt) := by
  rw [max_def, apply_ite (BitVec.ofInt 64), BitVec.ofInt_toInt, BitVec.ofInt_toInt]

theorem minu_eq (a b : Word) : (if a.toNat ≤ b.toNat then a else b) = BitVec.ofNat 64 (Min.min a.toNat b.toNat) := by
  rw [min_def, apply_ite (BitVec.ofNat 64)]
  simp

theorem maxu_eq (a b : Word) : (if a.toNat ≤ b.toNat then b else a) = BitVec.ofNat 64 (Max.max a.toNat b.toNat) := by
  rw [max_def, apply_ite (BitVec.ofNat 64)]
  simp

/-- Sign extension of the low n bits of a word. -/
theorem toWord_sext (a : Word) {n : Nat} (hn : 0 < n) : toWord (sext a.toNat n) = (a.truncate n).signExtend 64 := by
  change BitVec.ofInt 64 _ = BitVec.ofInt 64 _
  rw [BitVec.toInt_eq_toNat_cond, BitVec.toNat_setWidth, sext]
  have hp : 2 ^ n = 2 * 2 ^ (n - 1) := by rw [← Nat.pow_succ', Nat.succ_eq_add_one, Nat.sub_add_cancel hn]
  congr 1
  congr 1
  exact propext (by omega)

/-- Zero extension of the low n bits of a word. -/
theorem ofNat_mod_two_pow (a : Word) (n : Nat) : BitVec.ofNat 64 (a.toNat % 2 ^ n) = (a.truncate n).zeroExtend 64 := by
  apply BitVec.eq_of_toNat_eq
  simp

/-- A code of SZ that is not reserved (05 R92). -/
theorem size_cases {m : BitVec 14} (h : mField m 1 0 ≠ 3) : mField m 1 0 = 0 ∨ mField m 1 0 = 1 ∨ mField m 1 0 = 2 := by
  have hlt : mField m 1 0 < 4 := Nat.mod_lt _ (by decide)
  omega

theorem sext_eq {m : BitVec 14} (a : Word) (h : mField m 1 0 ≠ 3) : toWord (sext a.toNat (szBits (mField m 1 0)))
    = if mField m 1 0 = 0 then (a.truncate 8).signExtend 64
      else if mField m 1 0 = 1 then (a.truncate 16).signExtend 64 else (a.truncate 32).signExtend 64 := by
  rcases size_cases h with hk | hk | hk <;> rw [hk] <;> exact toWord_sext a (by decide)

theorem zext_eq {m : BitVec 14} (a : Word) (h : mField m 1 0 ≠ 3) : BitVec.ofNat 64 (a.toNat % 2 ^ szBits (mField m 1 0))
    = if mField m 1 0 = 0 then (a.truncate 8).zeroExtend 64
      else if mField m 1 0 = 1 then (a.truncate 16).zeroExtend 64 else (a.truncate 32).zeroExtend 64 := by
  rcases size_cases h with hk | hk | hk <;> rw [hk] <;> exact ofNat_mod_two_pow a _

/-- The count of leading zeros is the one that its bits determine. -/
theorem clz64_eq {a y : Word} (hle : y.toNat ≤ 64) (hzero : ∀ j, 64 - y.toNat ≤ j → a.getLsbD j = false)
    (hone : y.toNat < 64 → a.getLsbD (63 - y.toNat) = true) : clz64 a = y := by
  unfold clz64
  by_cases hy : y.toNat < 64
  · have hbit : a.toNat.testBit (63 - y.toNat) = true := hone hy
    have hlow : 2 ^ (63 - y.toNat) ≤ a.toNat := Nat.ge_two_pow_of_testBit hbit
    have hhigh : a.toNat < 2 ^ (63 - y.toNat + 1) := Nat.lt_pow_two_of_testBit _ fun j hj => hzero j (by omega)
    have hne : a.toNat ≠ 0 := Nat.pos_iff_ne_zero.1 ((Nat.two_pow_pos _).trans_le hlow)
    have hlog : Nat.log2 a.toNat = 63 - y.toNat := (Nat.log2_eq_iff hne).2 ⟨hlow, hhigh⟩
    rw [if_neg (fun h => hne (by rw [h]; rfl)), hlog, show 63 - (63 - y.toNat) = y.toNat by omega, BitVec.ofNat_toNat,
      BitVec.setWidth_eq]
  · have ha : a = 0 := BitVec.eq_of_getLsbD_eq fun j _ => by rw [hzero j (by omega)]; simp
    rw [if_pos ha]
    exact BitVec.eq_of_toNat_eq (show 64 = y.toNat by omega)

/-- The scan for the lowest set bit ends at the index whose bit is 1 and below which the bits are 0. -/
theorem lowestBit_unique {x n k m : Nat} (hk : k ≤ m) (hm : m ≤ k + n) (hzero : ∀ j, k ≤ j → j < m → x.testBit j = false)
    (hone : m < k + n → x.testBit m = true) : lowestBit x n k = m := by
  induction n generalizing k with
  | zero => exact Nat.le_antisymm hk hm
  | succ n ih =>
    rw [lowestBit]
    by_cases hkm : k = m
    · subst hkm
      rw [if_pos (hone (by omega))]
    · rw [if_neg (by rw [hzero k le_rfl (by omega)]; decide)]
      exact ih (by omega) (by omega) (fun j h1 h2 => hzero j (by omega) h2) (fun h => hone (by omega))

theorem ctz64_eq {a y : Word} (hle : y.toNat ≤ 64) (hzero : ∀ j, j < y.toNat → a.getLsbD j = false)
    (hone : y.toNat < 64 → a.getLsbD y.toNat = true) : ctz64 a = y := by
  unfold ctz64
  rw [lowestBit_unique (m := y.toNat) (Nat.zero_le _) (by omega) (fun j _ h => hzero j h) (fun h => hone (by omega)),
    BitVec.ofNat_toNat, BitVec.setWidth_eq]

theorem popc_eq {a y : Word} (h : y.toNat = ((List.range 64).filter (fun j => a.getLsbD j)).length) :
    BitVec.ofNat 64 (popCountBelow a.toNat 64) = y := by
  rw [popCountBelow_eq, show (onesOf a.toNat 64).length = y.toNat from h.symm, BitVec.ofNat_toNat, BitVec.setWidth_eq]

theorem reverse_eq {a y : Word} (h : ∀ j, j < 64 → y.getLsbD (63 - j) = a.getLsbD j) : a.reverse = y := by
  refine BitVec.eq_of_getLsbD_eq fun j hj => ?_
  have hy := h (63 - j) (by omega)
  rw [show 63 - (63 - j) = j by omega] at hy
  rw [hy, BitVec.getLsbD_reverse, BitVec.getMsbD_eq_getLsbD]
  simp [hj]

/-- Words with the same eight bytes are equal. -/
theorem eq_of_bytes {x y : Word} (h : ∀ j, j < 8 → x.extractLsb' (8 * j) 8 = y.extractLsb' (8 * j) 8) : x = y := by
  refine BitVec.eq_of_getLsbD_eq fun j hj => ?_
  have hb := congrArg (fun b => b.getLsbD (j % 8)) (h (j / 8) (by omega))
  simpa [BitVec.getLsbD_extractLsb', Nat.mod_lt, Nat.div_add_mod] using hb

theorem ofBytes_byte (l : List Byte) (k : Nat) : ofBytes l / 256 ^ k % 256 = (l.getD k 0).toNat := by
  induction l generalizing k with
  | nil => simp [ofBytes]
  | cons b r ih =>
    have hb := b.isLt
    cases k with
    | zero =>
      simp only [ofBytes, Nat.pow_zero, Nat.div_one, List.getD_cons_zero]
      omega
    | succ k =>
      rw [Nat.pow_succ', ← Nat.div_div_eq_div_mul, ofBytes, show (b.toNat + 256 * ofBytes r) / 256 = ofBytes r by omega, ih,
        List.getD_cons_succ]

theorem ofBytes_lt (l : List Byte) : ofBytes l < 256 ^ l.length := by
  induction l with
  | nil => decide
  | cons b r ih =>
    have hb := b.isLt
    rw [ofBytes, List.length_cons, Nat.pow_succ]
    omega

theorem bytesOf_getD {n k : Nat} (x : Nat) (h : k < n) : (bytesOf n x).getD k 0 = BitVec.ofNat 8 (x / 256 ^ k) := by
  induction n generalizing x k with
  | zero => omega
  | succ n ih =>
    cases k with
    | zero => exact BitVec.eq_of_toNat_eq (by simp [bytesOf])
    | succ k => rw [bytesOf, List.getD_cons_succ, ih _ (by omega), Nat.div_div_eq_div_mul, ← Nat.pow_succ']

theorem extractLsb_byte (x : Word) (k : Nat) : x.extractLsb' (8 * k) 8 = BitVec.ofNat 8 (x.toNat / 256 ^ k) := by
  apply BitVec.eq_of_toNat_eq
  rw [BitVec.extractLsb'_toNat, Nat.shiftRight_eq_div_pow, Nat.pow_mul, BitVec.toNat_ofNat]

/-- BSWAP puts byte j in the place of byte 7 - j. -/
theorem bswap64_byte (a : Word) {j : Nat} (hj : j < 8) : (bswap64 a).extractLsb' (8 * (7 - j)) 8 = a.extractLsb' (8 * j) 8 := by
  have hrev : (bytesOf 8 a.toNat).reverse.getD (7 - j) 0 = (bytesOf 8 a.toNat).getD j 0 := by
    rw [List.getD_eq_getElem?_getD, List.getElem?_reverse (by simp; omega), bytesOf_length, List.getD_eq_getElem?_getD]
    congr 2
    omega
  have hlt : ofBytes (bytesOf 8 a.toNat).reverse < 2 ^ 64 :=
    (ofBytes_lt _).trans_eq (by rw [List.length_reverse, bytesOf_length]; norm_num)
  rw [extractLsb_byte, extractLsb_byte, bswap64, BitVec.toNat_ofNat, Nat.mod_eq_of_lt hlt, ← bytesOf_getD a.toNat hj, ← hrev]
  apply BitVec.eq_of_toNat_eq
  rw [BitVec.toNat_ofNat, ← ofBytes_byte]

theorem bswap64_eq {a y : Word} (h : ∀ j, j < 8 → y.extractLsb' (8 * (7 - j)) 8 = a.extractLsb' (8 * j) 8) : bswap64 a = y := by
  refine eq_of_bytes fun j hj => ?_
  have hy := h (7 - j) (by omega)
  have ha := bswap64_byte a (j := 7 - j) (by omega)
  rw [show 7 - (7 - j) = j by omega] at hy ha
  exact ha.trans hy.symm

end Sys2Proof.Proofs
end

section
/-! SUPPORT. Integer instructions with present sources: no late form is taken, and an exact result is clamped or wrapped. -/

open Sys2Proof Sys2Proof.Machine Sys2Proof.Safety Sys2Proof.Laws

namespace Sys2Proof.Proofs

variable {s : State} {i : Instr} {f : TFields} {op : Nat}

/-! ### Present sources do not compose (11 R235) -/

theorem scalarOf_present {c : Ctx} {n : Nat} {x : Word} (hn : n ≠ 0) (h : scalarOf c n = some x) : c.late.get none n = none := by
  unfold scalarOf at h
  rw [if_neg hn] at h
  split at h
  · rename_i hl
    exact Option.isNone_iff_eq_none.1 hl
  · cases h

theorem lateOf_none {k : Nat} (h : (base s).late.get none k = none) : lateOf k (entered s) = .ok (none, entered s) := by
  have hh : getHart (entered s) = .ok (s.hart, entered s) := by rw [getHart, entered_hart]
  have hs : (get : M State) (entered s) = .ok (entered s, entered s) := rfl
  unfold lateOf
  rw [M_bind hh, M_bind getCtx_entered, M_bind hs, h]
  rfl

/-- A field with a value names no late register. -/
theorem lateOperand_present {o : Operand} {x : Word} (h : Claims.fieldOf s o = some x) :
    lateOperand o (entered s) = .ok (none, entered s) := by
  cases o with
  | s n =>
    by_cases hn : n = 0
    · subst hn; rfl
    · have hl : (base s).late.get none n.toNat = none :=
        scalarOf_present (fun h0 => hn (BitVec.eq_of_toNat_eq h0)) (show scalarOf (s.ctxOf s.hart) n.toNat = some x from h)
      have hk : operandKey (.s n) = some (lateKeyS n.toNat) := if_neg hn
      rw [lateOperand, hk]
      exact lateOf_none hl
  | v n => cases h
  | _ => rfl

/-- With both sources present a form that composes runs as the eager one. -/
theorem composeBinary_present {ka kb : Late → Word → Option Late} {eager : M Unit} {a b : Word}
    (ha : Claims.fieldOf s f.a = some a) (hb : Claims.fieldOf s f.b = some b) :
    composeBinary f ka kb eager (entered s) = eager (entered s) := by
  unfold composeBinary
  rw [M_bind (lateOperand_present ha), M_bind (lateOperand_present hb)]

theorem composeUnary_present {k : Late → Option Late} {eager : M Unit} {a : Word} (ha : Claims.fieldOf s f.a = some a) :
    composeUnary f k eager (entered s) = eager (entered s) := by
  unfold composeUnary
  rw [M_bind (lateOperand_present ha)]

/-! ### Exact results (05 R93; 03 R48) -/

/-- An effect that comes down to the write of an exact result. -/
theorem runT_writesExact {body : M Unit} {x : Int} (hf : fieldsOf i = some (op, f)) (hr : ready i s = true)
    (hb : body (entered s) = writeExact f x (entered s))
    (hw : canWrite s (satFlags (satBit f) 64 x) f.d (toWord (clamped (satBit f) 64 x)) = true) :
    ∃ t, runT op f body s = .next t ∧ Wrote s t (satFlags (satBit f) 64 x) f.d (toWord (clamped (satBit f) 64 x)) := by
  refine runT_writes hf hr ?_ hw
  rw [hb, writeExact, M_bind (satValue_ok _ _ _ _), entered_hart]

/-- The exact form of ADD, SUB and MUL, composing or not. -/
theorem exactBinary_writes {ka kb : Late → Word → Option Late} {g : Int → Int → Int} {a b : Word}
    (hf : fieldsOf i = some (op, f)) (hr : ready i s = true) (ha : Claims.fieldOf s f.a = some a) (hb : Claims.fieldOf s f.b = some b)
    (hw : canWrite s (satFlags (satBit f) 64 (g a.toInt b.toInt)) f.d (toWord (clamped (satBit f) 64 (g a.toInt b.toInt))) = true) :
    ∃ t, runT op f (if satBit f then exactBinary f g else composeBinary f ka kb (exactBinary f g)) s = .next t
      ∧ Wrote s t (satFlags (satBit f) 64 (g a.toInt b.toInt)) f.d (toWord (clamped (satBit f) 64 (g a.toInt b.toInt))) := by
  refine runT_writesExact hf hr ?_ hw
  have heager : exactBinary f g (entered s) = writeExact f (g a.toInt b.toInt) (entered s) := by
    unfold exactBinary
    rw [M_bind (field_ok ha), M_bind (field_ok hb)]
  split
  · exact heager
  · rw [composeBinary_present ha hb, heager]

theorem execAbs_writes {a : Word} (hr : ready (.abs f) s = true) (ha : Claims.fieldOf s f.a = some a)
    (hw : canWrite s (satFlags (satBit f) 64 |a.toInt|) f.d (toWord (clamped (satBit f) 64 |a.toInt|)) = true) :
    ∃ t, execAbs f s = .next t ∧ Wrote s t (satFlags (satBit f) 64 |a.toInt|) f.d (toWord (clamped (satBit f) 64 |a.toInt|)) := by
  refine runT_writesExact rfl hr ?_ hw
  rw [M_bind (field_ok ha), Int.natCast_natAbs]

theorem execNeg_writes {a : Word} (hr : ready (.neg f) s = true) (ha : Claims.fieldOf s f.a = some a)
    (hw : canWrite s (satFlags (satBit f) 64 (-a.toInt)) f.d (toWord (clamped (satBit f) 64 (-a.toInt))) = true) :
    ∃ t, execNeg f s = .next t ∧ Wrote s t (satFlags (satBit f) 64 (-a.toInt)) f.d (toWord (clamped (satBit f) 64 (-a.toInt))) := by
  refine runT_writesExact rfl hr ?_ hw
  split
  · rw [M_bind (field_ok ha)]
  · rw [composeUnary_present ha, M_bind (field_ok ha)]

theorem execMadd_writes {a b d : Word} (hr : ready (.madd f) s = true) (ha : Claims.fieldOf s f.a = some a)
    (hb : Claims.fieldOf s f.b = some b) (hd : srcOf s f.d = some d)
    (hw : canWrite s (satFlags (satBit f) 64 (d.toInt + a.toInt * b.toInt)) f.d
      (toWord (clamped (satBit f) 64 (d.toInt + a.toInt * b.toInt))) = true) :
    ∃ t, execMadd f s = .next t ∧ Wrote s t (satFlags (satBit f) 64 (d.toInt + a.toInt * b.toInt)) f.d
      (toWord (clamped (satBit f) 64 (d.toInt + a.toInt * b.toInt))) := by
  refine runT_writesExact rfl hr ?_ hw
  rw [M_bind (field_ok ha), M_bind (field_ok hb), M_bind (src_ok hd)]

/-- The first clause of `Obligations.IntegerResults`, for every instruction. -/
theorem exact_results (op : Nat) (a b d : Word) (x : Int) (hf : fieldsOf i = some (op, f)) (hr : ready i s = true)
    (ha : Claims.fieldOf s f.a = some a) (hb : Claims.fieldOf s f.b = some b) (hd : Claims.readsD i = true → srcOf s f.d = some d)
    (hx : Claims.exactOf a b d i = some x) :
    let y := toWord (clamped (Claims.saturates i) 64 x)
    let fl := satFlags (Claims.saturates i) 64 x
    canWrite s fl f.d y = true → ∃ t, exec i s = .next t ∧ Wrote s t fl f.d y := by
  intro y fl hw
  cases i with
  | add g => cases hf; cases hx; exact exactBinary_writes (i := .add f) rfl hr ha hb hw
  | sub g => cases hf; cases hx; exact exactBinary_writes (i := .sub f) rfl hr ha hb hw
  | mul g => cases hf; cases hx; exact exactBinary_writes (i := .mul f) rfl hr ha hb hw
  | abs g => cases hf; cases hx; exact execAbs_writes hr ha hw
  | neg g => cases hf; cases hx; exact execNeg_writes hr ha hw
  | madd g => cases hf; cases hx; exact execMadd_writes hr ha hb (hd rfl) hw
  | _ => cases hx

end Sys2Proof.Proofs
end

section
/-! SUPPORT. The integer instructions of 05 R93: what holds of every well-formed one, and where the statement fails. -/

open Sys2Proof Sys2Proof.Machine Sys2Proof.Safety Sys2Proof.Laws

namespace Sys2Proof.Proofs

variable {s : State} {i : Instr} {f : TFields} {op : Nat}

/-! ### Results without SAT (05 R93) -/

/-- SEXT or ZEXT with the size that 05 R92 reserves. -/
def reservedSize : Instr → Bool
  | .sext f => mField f.m 1 0 == 3
  | .zext f => mField f.m 1 0 == 3
  | _ => false

/-- SHL, whose source A is present, runs as the eager form. -/
theorem execShl_writes {a b y : Word} (hr : ready (.shl f) s = true) (ha : Claims.fieldOf s f.a = some a)
    (hb : Claims.fieldOf s f.b = some b) (hy : a <<< (b.toNat % 64) = y) (hw : canWrite s 0 f.d y = true) :
    ∃ t, execShl f s = .next t ∧ Wrote s t 0 f.d y := by
  subst hy
  refine runT_writes0 rfl hr ?_ hw
  rw [composeBinary_present ha hb]
  unfold intBinary
  rw [M_bind (field_ok ha), M_bind (field_ok hb)]

/-- ZEXT keeps the low bits that its code SZ selects, of four widths in the model. -/
theorem exec_zext {a y : Word} (hr : ready (.zext f) s = true) (ha : Claims.fieldOf s f.a = some a)
    (hy : BitVec.ofNat 64 (a.toNat % 2 ^ szBits (mField f.m 1 0)) = y) (hw : canWrite s 0 f.d y = true) :
    ∃ t, exec (.zext f) s = .next t ∧ Wrote s t 0 f.d y :=
  intUnary_writes rfl hr ha hy hw

/-- The instructions whose value `Claims.plainOf` gives. -/
theorem plain_results {a b y : Word} (hf : fieldsOf i = some (op, f)) (hr : ready i s = true)
    (ha : Claims.fieldOf s f.a = some a) (hb : Claims.fieldOf s f.b = some b) (hsz : reservedSize i = false)
    (hy : Claims.plainOf a b i = some y) (hw : canWrite s 0 f.d y = true) : ∃ t, exec i s = .next t ∧ Wrote s t 0 f.d y := by
  cases i with
  | mulh g => cases hf; cases hy; exact intBinary_writes rfl hr ha hb (mulh_eq a b) hw
  | mulhu g => cases hf; cases hy; exact intBinary_writes rfl hr ha hb (mulhu_eq a b) hw
  | and g => cases hf; cases hy; exact intBinary_writes (i := .and f) rfl hr ha hb rfl hw
  | or g => cases hf; cases hy; exact intBinary_writes (i := .or f) rfl hr ha hb rfl hw
  | xor g => cases hf; cases hy; exact intBinary_writes (i := .xor f) rfl hr ha hb rfl hw
  | andn g => cases hf; cases hy; exact intBinary_writes (i := .andn f) rfl hr ha hb rfl hw
  | shl g => cases hf; cases hy; exact execShl_writes hr ha hb (shiftLeft_eq_ofNat a _) hw
  | shr g => cases hf; cases hy; exact intBinary_writes rfl hr ha hb (shiftRight_eq_ofNat a _) hw
  | sra g => cases hf; cases hy; exact intBinary_writes rfl hr ha hb (sshiftRight_eq_ofInt a _) hw
  | rol g => cases hf; cases hy; exact intBinary_writes rfl hr ha hb (rotateLeft_eq a b) hw
  | min g => cases hf; cases hy; exact intBinary_writes rfl hr ha hb (min_eq a b) hw
  | max g => cases hf; cases hy; exact intBinary_writes rfl hr ha hb (max_eq a b) hw
  | minu g => cases hf; cases hy; exact intBinary_writes rfl hr ha hb (minu_eq a b) hw
  | maxu g => cases hf; cases hy; exact intBinary_writes rfl hr ha hb (maxu_eq a b) hw
  | sext g => cases hf; cases hy; exact intUnary_writes rfl hr ha (sext_eq a (ne_of_beq_false hsz)) hw
  | zext g => cases hf; cases hy; exact exec_zext hr ha (zext_eq a (ne_of_beq_false hsz)) hw
  | _ => cases hy

/-- The instructions whose value `Claims.countsOf` fixes bit by bit. -/
theorem counts_results {a y : Word} (hf : fieldsOf i = some (op, f)) (hr : ready i s = true)
    (ha : Claims.fieldOf s f.a = some a) (hy : Claims.countsOf a y i) (hw : canWrite s 0 f.d y = true) :
    ∃ t, exec i s = .next t ∧ Wrote s t 0 f.d y := by
  cases i with
  | clz g =>
    cases hf
    obtain ⟨hle, hzero, hone⟩ := hy
    exact intUnary_writes rfl hr ha (clz64_eq hle hzero hone) hw
  | ctz g =>
    cases hf
    obtain ⟨hle, hzero, hone⟩ := hy
    exact intUnary_writes rfl hr ha (ctz64_eq hle hzero hone) hw
  | popc g => cases hf; exact intUnary_writes rfl hr ha (popc_eq hy) hw
  | brev g => cases hf; exact intUnary_writes rfl hr ha (reverse_eq hy) hw
  | bswap g => cases hf; exact intUnary_writes rfl hr ha (bswap64_eq hy) hw
  | _ => exact hy.elim

/-- A well-formed term passes every check of its row. -/
theorem check_of_wfT {r : OpRow} {c : Nat × (TFields → Bool)} (h : wfT r f = true) (hc : c ∈ r.checks) : c.2 f = true := by
  have hall : r.checks.all (fun c => c.2 f) = true := by
    simp only [wfT, Bool.and_eq_true] at h
    tauto
  exact List.all_eq_true.1 hall c hc

/-- The check of SZ in the rows of SEXT and ZEXT refuses the reserved size. -/
theorem size_of_upTo (h : (upTo 60 1 0 2).2 f = true) : (mField f.m 1 0 == 3) = false := by
  have hle : mField f.m 1 0 ≤ 2 := of_decide_eq_true h
  exact beq_false_of_ne (by omega)

theorem reservedSize_of_wf (h : i.wf = true) : reservedSize i = false := by
  cases i with
  | sext f =>
    have hw : wfT (row 0x01C [.s] [.s, .x] [.none] 0x3 [upTo 60 1 0 2]) f = true := (Bool.and_eq_true_iff.1 h).1
    exact size_of_upTo (check_of_wfT hw (List.mem_singleton.2 rfl))
  | zext f =>
    have hw : wfT (row 0x01D [.s] [.s, .x] [.none] 0x3 [upTo 60 1 0 2]) f = true := (Bool.and_eq_true_iff.1 h).1
    exact size_of_upTo (check_of_wfT hw (List.mem_singleton.2 rfl))
  | _ => rfl

/-- `Obligations.IntegerResults` for the instructions that a word decodes to: its first clause as it stands, and its second
for well-formed instructions. -/
def WellFormedIntegerResults : Prop :=
  (∀ (i : Instr) (s : State) (op : Nat) (f : TFields) (a b d : Word) (x : Int), fieldsOf i = some (op, f) → ready i s = true →
    Claims.fieldOf s f.a = some a → Claims.fieldOf s f.b = some b → (Claims.readsD i = true → srcOf s f.d = some d) →
    Claims.exactOf a b d i = some x →
    let out : Bool := Claims.saturates i && !(-2 ^ 63 ≤ x && x < 2 ^ 63)
    let y : Word := if out then (if x < 0 then BitVec.ofInt 64 (-2 ^ 63) else BitVec.ofInt 64 (2 ^ 63 - 1)) else BitVec.ofInt 64 x
    let fl : Flags := if out then fSAT else 0
    canWrite s fl f.d y = true → ∃ t, exec i s = .next t ∧ Wrote s t fl f.d y)
  ∧ (∀ (i : Instr) (s : State) (op : Nat) (f : TFields) (a b y : Word), i.wf = true → fieldsOf i = some (op, f) →
    ready i s = true →
    Claims.fieldOf s f.a = some a → Claims.fieldOf s f.b = some b →
    (Claims.plainOf a b i = some y ∨ Claims.countsOf a y i) → canWrite s 0 f.d y = true →
    ∃ t, exec i s = .next t ∧ Wrote s t 0 f.d y)

/-- The reserved size is the only fault of the statement that `not_integerResults` refutes. -/
theorem wellFormedIntegerResults : WellFormedIntegerResults := by
  refine ⟨?_, ?_⟩
  · intro i s op f a b d x hf hr ha hb hd hx out y fl
    have hy : toWord (clamped (Claims.saturates i) 64 x) = y := by
      change BitVec.ofInt 64 (if out then _ else _) = if out then _ else _
      rw [apply_ite (BitVec.ofInt 64), apply_ite (BitVec.ofInt 64)]
    rw [← hy]
    exact exact_results op a b d x hf hr ha hb hd hx
  · intro i s op f a b y hwf hf hr ha hb hy hw
    rcases hy with hy | hy
    · exact plain_results hf hr ha hb (reservedSize_of_wf hwf) hy hw
    · exact counts_results hf hr ha hy hw

/-! ### The reserved size (05 R92, R93) -/

/-- ZEXT s1, -1 with SZ = 3, which 05 R92 reserves: decode refuses its word, and `Obligations.IntegerResults` admits the term. -/
def zextSize3 : TFields := { g := ⟨false, 0⟩, h := 0, m := 3, d := .s 1, a := .imm 0xFFFF, b := .none }

theorem zextSize3_ready : ready (.zext zextSize3) State.reset = true := by decide +kernel

/-- Refutes O1: nothing in the statement excludes SZ = 3. There its table gives ZEXT the low 32 bits of the source, and the
model, which has a width for each of the four codes, keeps all 64: s1 becomes 2^64 - 1 and not 2^32 - 1. Decode refuses the size, and
`wellFormedIntegerResults` proves the statement for the words that decode accepts. -/
theorem not_integerResults : ¬ Obligations.IntegerResults := by
  rintro ⟨-, h⟩
  obtain ⟨t, ht, hmodel⟩ := exec_zext (a := BitVec.allOnes 64) (y := BitVec.allOnes 64) zextSize3_ready (by decide) (by decide) rfl
  obtain ⟨u, hu, hclaim⟩ := h (.zext zextSize3) State.reset 0x01D zextSize3 (BitVec.allOnes 64) 0 (2 ^ 32 - 1) rfl zextSize3_ready
    (by decide) (by decide) (.inl (by decide)) rfl
  obtain rfl : t = u := Host.Outcome.next.inj (ht.symm.trans hu)
  have hctx := hmodel.regs.symm.trans hclaim.regs
  exact absurd (congrArg (fun c => c.s.get 0 1) hctx) (by decide)

end Sys2Proof.Proofs
end
